-- ==== Sys2Proof/Word.lean ====
section
/-! DEFINITION. The words of the machine: bytes, registers, addresses and their plainest arithmetic. -/

namespace Sys2Proof

abbrev Byte := BitVec 8
abbrev U16 := BitVec 16
abbrev U32 := BitVec 32
abbrev U64 := BitVec 64

/-- Bits of an IEEE 754 binary32 value (R197). -/
abbrev F32 := BitVec 32

/-- Bits of a BF16 value (R197). -/
abbrev BF16 := BitVec 16

/-- A device physical address, 41 bits (R15), used as the key of device memory. -/
abbrev Dpa := Nat

/-- A sparse table with numbered entries: the listed ones; an entry that is not listed has the table's default. -/
abbrev Table (α : Type) := List (Nat × α)

end Sys2Proof
end

