-- ==== Sys2Proof/Syntax.lean ====
section
/-! DEFINITION. The commands of the SRZ-1600 block, one constructor per row of spec/opcode_table.json, and the types of their
operands. A record's command names the record that RECORD_TAKE has taken, by its window and sequence count; what the outside
world supplies (bytes of host memory, samples, completions, messages, choices the spec leaves to firmware) is an operand. -/

namespace Sys2Proof

/-- What a CXL.cache shared read of host memory (R67) gave: poison, or the bytes from the named address on. -/
inductive HostRead where
  | poison
  | bytes (data : List Byte)
  deriving DecidableEq, Repr

/-- A physical error met by a read: the xor pattern on symbol lane of one 32 B burst (R103, R104). burst is DPA / 32. -/
structure SymErr where
  burst : Nat
  lane : Nat
  pattern : Byte
  deriving DecidableEq, Repr

/-- What reading a record's source meets: the bytes of host memory when the source lies there, the new symbol errors of the
device reads otherwise. -/
structure Src where
  host : HostRead
  errs : List SymErr
  deriving DecidableEq, Repr

/-- An uncorrectable word of a memory of the module's own: Orchard SRAM or an engine's local memory at an address, read by an engine
(0 to 23 Drupe, 24 to 31 Press) (R371); a lane word of a tile that a group of a Press engine owns (R177); a word of a Zest section's
table slot or program slot (R233). -/
inductive OwnFault where
  | sram (unit : Fin 32) (addr : Nat)
  | lane (engine : Fin 8) (tile : Fin 56) (group : Fin 8)
  | bank (sec : Fin 32) (program : Bool) (slot : Fin 32)
  deriving DecidableEq, Repr

/-- What reading those memories meets: bank words that the code corrects, and an uncorrectable word. -/
structure OwnReads where
  corrected : Nat
  bad : Option OwnFault
  deriving DecidableEq, Repr

/-- Reads that meet no error. -/
def OwnReads.clean : OwnReads := { corrected := 0, bad := none }

/-- Uncorrectable errors of the host link: status bits of AER and of the CXL RAS capability (R75). -/
structure LinkErrors where
  aer : U32
  ras : U32
  deriving DecidableEq, Repr

/-- One entry of the placement map (R170). -/
structure MapEntry where
  layer : Nat
  mat : Nat
  stack : Nat
  rowFirst : Nat
  rowCount : Nat
  rowStride : Nat
  codeDpa : Nat
  recDpa : Nat
  pieceStride : Nat
  recStride : Nat
  recPieceStride : Nat
  deriving DecidableEq, Repr

/-- The placement that firmware computes for MODEL_LOAD (R169), which the spec leaves to it within the rules: a map with the
pool pages of the weights and the pip-stack ranges it uses, or the reason why there is none. -/
inductive Placement where
  | placed (entries : List MapEntry) (pages : List Nat)
  | pipSpaceLacking
  | rowsBeyondEngines
  | pagesLacking (lacking : Nat)
  deriving DecidableEq, Repr

/-- Where firmware places the delta blocks of a variant (R298). -/
inductive DeltaPlacement where
  | placed (pages : List Nat) (granules : List Nat)
  | pipSpaceLacking
  | pagesLacking (lacking : Nat)
  deriving DecidableEq, Repr

/-- What alternate-protocol negotiation enabled on the host link (R51, R52). -/
inductive HostProto where
  | pcieOnly | cxl20 | cxl31
  deriving DecidableEq, Repr

/-- What a punnet shows at PUNNET_BIND (R321, R322): the fields the module reads from it. -/
structure PunnetFacts where
  nvmeMajor : Nat
  namespaceActive : Bool
  lbaBytes : Nat
  metadata : Bool
  protection : Bool
  mqes : Nat
  ioPairs : Nat
  lbas : Nat
  /-- MDTS in bytes; 0 where the controller sets no limit. -/
  mdts : Nat
  certificate : List Byte
  signature : List Byte
  challenge : List Byte
  dataUnitsWritten : Nat
  mediaReadOnly : Bool
  deriving DecidableEq, Repr

/-- A Vine frame as it arrives (R337): its header fields, whether its codewords were corrected or lost. -/
structure VineFrame where
  fseq : Nat
  ack : Nat
  nak : Bool
  vc : Nat
  idle : Bool
  credits : Nat
  creditVc : Nat
  corrected : Bool
  correctable : Bool
  deriving DecidableEq, Repr

/-- The header facts of a Vine message that arrives, after its stored block has been opened (R344 to R347). sealOk is the
result of the seal or signature check (R347). -/
structure VineMsg where
  src : Nat
  dst : Nat
  hops : Nat
  epoch : Nat
  groupId : U64
  msgCtr : Nat
  seg : Nat
  last : Bool
  port : Nat
  sealOk : Bool
  deriving DecidableEq, Repr

/-- What HBM4 training gave for one stack (R120, R121): spares used on each of its 32 channels (15: mapped out), and whether
the stack FAILED. -/
structure StackTraining where
  failed : Bool
  spares : List Nat
  sensors : Bool
  tempC : Nat
  deriving DecidableEq, Repr

/-- The token that a sampling member reports for one slot (R346, TOKENS). -/
structure SlotToken where
  slot : Nat
  token : U32
  logprob : F32
  stopReason : Nat
  stopIndex : Nat
  deriving DecidableEq, Repr

/-- The commands of the block. -/
inductive Instr where
  -- command windows and registers
  | bar2Write (off : Nat) (data : List Byte)
  | recordTake (w : Fin 16) (src : Src)
  | irqDelayExpire (w : Fin 16)
  | winEnable (w : Fin 16) (v : U32)
  | winDisable (w : Fin 16) (v : U32)
  | winReset (w : Fin 16) (v : U32)
  | winReplyHeadWrite (w : Fin 16) (v : U32)
  | winOutHeadWrite (w : Fin 16) (v : U32)
  | modErrHeadWrite (v : U32)
  | modEngBalWrite (v : U32)
  | dbgPrsInstrLatch (e : Fin 8)
  | registerWrite (off : Nat) (size : Nat) (v : U64)
  | badAccess (off : Nat) (size : Nat) (write : Bool) (v : U64)
  -- host port
  | biasToHost
  | biasToDevice
  | biasComplete
  | hdmDecoderCommit (d : Fin 4) (commit : Bool) (hpaBase size ways gran dpaSkip : Nat)
  | cxlMemRead (hpa : Nat) (errs : List SymErr)
  | cxlMemWrite (hpa : Nat) (data : List Byte) (poison : Bool)
  | snoopResponse (line : Nat)
  | hostLinkTrain (proto : HostProto) (rate width : Nat) (cacheEn memEn : Bool)
  | functionLevelReset
  | hotReset
  | hostLinkDown
  | cxlReset
  | perst
  | hostLinkError (found : LinkErrors)
  -- control records
  | nop (w : Fin 16) (n : U32)
  | fenceWindow (w : Fin 16) (n : U32)
  | fenceModule (w : Fin 16) (n : U32)
  | fenceCascade (w : Fin 16) (n : U32)
  | fenceRelease (w : Fin 16) (n : U32)
  | query (w : Fin 16) (n : U32)
  | powerSet (w : Fin 16) (n : U32)
  | powerDescend
  | powerSubstateReached
  | powerSelfWake
  | unitReset (w : Fin 16) (n : U32)
  | unitReturnToService (kind index : Nat)
  | attest (w : Fin 16) (n : U32)
  | fwStageWrite (w : Fin 16) (n : U32) (src : Src) (flashOk : Bool)
  | fwStageClear (w : Fin 16) (n : U32) (flashOk : Bool)
  | fwCommitSelect (w : Fin 16) (n : U32)
  | fwCommitConfirm (w : Fin 16) (n : U32)
  | fwCommitAbandon (w : Fin 16) (n : U32)
  -- memory records
  | memCopy (w : Fin 16) (n : U32) (src : Src)
  | memFill (w : Fin 16) (n : U32)
  | regionSetMakeCompute (w : Fin 16) (n : U32) (errs : List SymErr)
  | regionSetSetMirror (w : Fin 16) (n : U32) (errs : List SymErr)
  | regionSetClearMirror (w : Fin 16) (n : U32)
  | regionSeal (w : Fin 16) (n : U32) (errs : List SymErr)
  | scrub (w : Fin 16) (n : U32) (errs : List SymErr)
  | flushAck (w : Fin 16) (n : U32)
  -- models, scales, variants, tables
  | modelLoadPlace (w : Fin 16) (n : U32) (plan : Placement)
  | modelLoadDrop (w : Fin 16) (n : U32)
  | layerDesc (w : Fin 16) (n : U32)
  | scaleLoadRowScales (w : Fin 16) (n : U32) (src : Src)
  | scaleLoadInputScales (w : Fin 16) (n : U32) (src : Src)
  | scaleLoadInputRanges (w : Fin 16) (n : U32) (src : Src)
  | variantLoad (w : Fin 16) (n : U32) (src : Src) (plan : DeltaPlacement)
  | variantDrop (w : Fin 16) (n : U32)
  | tableLoadTable (w : Fin 16) (n : U32) (src : Src)
  | tableLoadProgram (w : Fin 16) (n : U32) (src : Src)
  | tableLoadGain (w : Fin 16) (n : U32) (src : Src)
  | tableSwap (w : Fin 16) (n : U32)
  | tableSwapProceed
  | tableSwapCopy
  | codecTableLoad (w : Fin 16) (n : U32) (src : Src)
  | codecTableSwap (w : Fin 16) (n : U32)
  -- sequences
  | seqOpen (w : Fin 16) (n : U32)
  | seqAppend (w : Fin 16) (n : U32) (src : Src)
  | fillBegin (q : Fin 4096)
  | fillComplete (q : Fin 4096)
  | seqCancel (w : Fin 16) (n : U32)
  | seqTrim (w : Fin 16) (n : U32)
  | seqClose (w : Fin 16) (n : U32)
  | seqPark (w : Fin 16) (n : U32)
  | parkImageWrite (q : Fin 4096) (errs : List SymErr)
  | parkDurable (q : Fin 4096)
  | seqResumeResume (w : Fin 16) (n : U32)
  | resumeComplete (q : Fin 4096)
  | seqResumeDrop (w : Fin 16) (n : U32)
  | parkExpiryScan
  | prefixFind (w : Fin 16) (n : U32) (src : Src)
  | prefixPinPin (w : Fin 16) (n : U32) (src : Src)
  | prefixPinUnpin (w : Fin 16) (n : U32) (src : Src)
  | samplerSet (w : Fin 16) (n : U32)
  | stopSet (w : Fin 16) (n : U32) (src : Src)
  | maskLoadLoad (w : Fin 16) (n : U32) (src : Src)
  | maskLoadFree (w : Fin 16) (n : U32)
  | budgetSetSet (w : Fin 16) (n : U32)
  | budgetSetWindow (w : Fin 16) (n : U32)
  -- steps and chunks; a step and a chunk are named by the number the module gave them at taking or at their start
  | step (w : Fin 16) (n : U32)
  | stepHeading (id : Nat)
  | stepForm (id : Nat)
  | stepLayer (id : Nat) (errs : List SymErr) (own : OwnReads)
  | stepBoundary (id : Nat)
  | repairDeadline (id : Nat)
  | mirrorRepair (block : Nat) (errs : List SymErr)
  | chunkStart (model : Fin 16)
  | chunkComplete (id : Nat) (errs : List SymErr) (own : OwnReads)
  -- Press instructions of engine e (R179)
  | pressOpen (e : Fin 8) (group tile count rows lenLog2 mat col addr : Nat)
  | pressPass (e : Fin 8) (group tile count fmt wsrc addr : Nat) (errs : List SymErr) (own : OwnReads)
  | pressClose (e : Fin 8) (group addr : Nat) (own : OwnReads)
  | pressDiscard (e : Fin 8) (group : Nat)
  | pressSave (e : Fin 8) (group addr : Nat) (own : OwnReads)
  | pressRestore (e : Fin 8) (group tile count addr : Nat) (own : OwnReads)
  | assignWindowEnd
  | earlyEdge
  -- Zest sections: a job, and the instruction at its program counter (R226)
  | zestJob (sec : Fin 32) (slot : Fin 32) (in0 in1 : F32) (own : OwnReads)
  | zestEnd (sec : Fin 32)
  | zestLdi (sec : Fin 32)
  | zestMadd (sec : Fin 32)
  | zestExp2 (sec : Fin 32)
  | zestLog2 (sec : Fin 32)
  | zestRecip (sec : Fin 32)
  | zestRsqrt (sec : Fin 32)
  | zestCmpsel (sec : Fin 32)
  | zestSign (sec : Fin 32)
  | zestLut (sec : Fin 32)
  | zestTanh (sec : Fin 32)
  | zestLogistic (sec : Fin 32)
  -- pips: records, slices, and the instruction at the program counter of pip p of pip stack k (R138)
  | pipLoad (w : Fin 16) (n : U32) (src : Src)
  | pipRun (w : Fin 16) (n : U32)
  | pipStatus (w : Fin 16) (n : U32)
  | pipSliceStart (k : Fin 8)
  | pipSliceEnd (k : Fin 8)
  | pipRunRebuild (k : Fin 8) (slot : Fin 16)
  | pipEnd (k : Fin 8) (p : Fin 1536)
  | pipSeta (k : Fin 8) (p : Fin 1536)
  | pipSetl (k : Fin 8) (p : Fin 1536)
  | pipLoop (k : Fin 8) (p : Fin 1536)
  | pipCopy (k : Fin 8) (p : Fin 1536)
  | pipFill (k : Fin 8) (p : Fin 1536)
  | pipAnd (k : Fin 8) (p : Fin 1536)
  | pipOr (k : Fin 8) (p : Fin 1536)
  | pipXor (k : Fin 8) (p : Fin 1536)
  | pipNot (k : Fin 8) (p : Fin 1536)
  | pipAdd (k : Fin 8) (p : Fin 1536)
  | pipMul (k : Fin 8) (p : Fin 1536)
  | pipScale (k : Fin 8) (p : Fin 1536)
  | pipStat (k : Fin 8) (p : Fin 1536)
  | pipNorm (k : Fin 8) (p : Fin 1536)
  | pipGemv (k : Fin 8) (p : Fin 1536)
  | pipClr (k : Fin 8) (p : Fin 1536)
  | pipReduce (k : Fin 8) (p : Fin 1536)
  -- refresh, heat, power
  | refreshDue (s : Fin 16)
  | stackTempSample (s : Fin 16) (temp : Nat)
  | stackThermalStepdown (s : Fin 16)
  | refreshStepdown (s : Fin 16)
  | dieTempSample (w : Fin 4) (temps : List Nat)
  | dieThermalStepdown (w : Fin 4)
  | powerSample (watts : Nat)
  | capStepUp
  | powerCapUnmet
  | stageMonitorMeasure (ps : List Nat)
  | scrubProtectedSweep (errs : List SymErr)
  | scrubComputeSweep (errs : List SymErr)
  | codecStreamEncode (codec : Fin 8)
  | codecStreamDecode (codec : Fin 8)
  -- leases and the Husk core
  | leaseRenew (cls holder res : Nat)
  | leaseRevoke (cls holder res : Nat)
  | heartbeat (c : Fin 8)
  | watchdogReset (c : Fin 8)
  | stoneCoreRestart (c : Fin 8)
  | huskTimerExpire (uncorrectable : Bool)
  -- punnets
  | punnetBind (w : Fin 16) (n : U32) (facts : PunnetFacts)
  | punnetQuery (w : Fin 16) (n : U32)
  | punnetRetireDrain (w : Fin 16) (n : U32)
  | punnetRetireNow (w : Fin 16) (n : U32)
  | punnetInsert (port : Fin 4) (rate width : Nat)
  | punnetRemoval (port : Fin 4)
  | punnetCmdTimeout (port : Fin 4) (cid : Nat)
  | punnetAbortTimeout (port : Fin 4)
  | punnetReadyTimeout (port : Fin 4)
  | nvmeCompletion (port : Fin 4) (cid : Nat) (status : BitVec 15)
  | wearPoll (port : Fin 4) (dataUnitsWritten : Nat) (mediaReadOnly : Bool)
  -- cascade records, links and messages
  | vineJoin (w : Fin 16) (n : U32) (src : Src)
  | vineJoinTimeout
  | vineRolePriority (w : Fin 16) (n : U32)
  | vineRoleElect (w : Fin 16) (n : U32)
  | vineLeaveDrain (w : Fin 16) (n : U32)
  | vineLeaveForce (w : Fin 16) (n : U32)
  | collectBroadcast (w : Fin 16) (n : U32) (errs : List SymErr)
  | collectSum (w : Fin 16) (n : U32) (errs : List SymErr)
  | collectMax (w : Fin 16) (n : U32) (errs : List SymErr)
  | collectMin (w : Fin 16) (n : U32) (errs : List SymErr)
  | collectGather (w : Fin 16) (n : U32) (errs : List SymErr)
  | vineTrain (p : Fin 12) (peerSerial : U64) (peer : Option Nat) (lanesOk : BitVec 8)
  | vineTrainRetry (p : Fin 12)
  | vineDeadTimeout (p : Fin 12) (replayFailed : Bool)
  | vineCreditTimeout (p : Fin 12) (vc : Fin 3)
  | claim (m : VineMsg) (prio : Nat) (serial : U64)
  | electionWindowEnd
  | electionRetry
  | confirm (m : VineMsg) (members : List Nat) (size : Nat)
  | confirmAck (m : VineMsg) (mirror : List Nat)
  | quorumTimeout
  | key (m : VineMsg) (secret : List Byte)
  | live (m : VineMsg)
  | memberLeaseExpire (member : Nat)
  | stemLeaseExpire
  | stemDemote
  | plan (m : VineMsg) (stepNo model : Nat) (chunk : Bool) (seqs : List (Nat × Nat)) (record : List Byte) (sroundEn : Bool)
      (sroundKey : U32) (force defaultLimit : Nat)
  | act (m : VineMsg) (stepNo : Nat) (hidden : List (List F32)) (wideSoFar : Nat)
  | part (m : VineMsg) (stepNo layer mat rank : Nat) (sums : List F32)
  | tokens (m : VineMsg) (stepNo : Nat) (toks : List SlotToken) (wideLayers : Nat)
  | fault (m : VineMsg) (stepNo status layer stack : Nat)
  | commit (m : VineMsg) (ordinal stamp : U64) (stepNo : Nat) (outcomes : List Nat) (toks : List SlotToken)
      (charges : List (Nat × Nat))
  | commitAck (m : VineMsg) (ordinal : U64) (lackingSeqs : List Nat)
  | fenceReq (m : VineMsg) (fence : Nat)
  | fenceDone (m : VineMsg) (fence : Nat)
  | hold (m : VineMsg) (stack : Nat)
  | cool (m : VineMsg)
  | stop (m : VineMsg) (stack : Nat)
  | bulk (m : VineMsg) (w : Fin 16) (n : U32) (data : List Byte)
  | leave (m : VineMsg)
  -- pins, bring-up, management, boundary scan
  | pwrEnRise (inputInRange : Bool)
  | pwrEnFall
  | inputUndervoltage
  | inputOvervoltage
  | modRst
  | rails (inRegulation : Bool) (elapsedUs : Nat)
  | fuses (fuseOk clockOk : Bool) (elapsedUs : Nat)
  | image (flashOk : Bool) (stageA stageB : Nat) (elapsedUs : Nat)
  | firmware (ok : Bool) (elapsedUs : Nat)
  | memory (training : List StackTraining) (elapsedUs : Nat)
  | links (vineStates : List Nat) (punnets : List (Option (Nat × Nat × PunnetFacts))) (elapsedUs : Nat)
  | release (releaseUs : Nat)
  | recoveryRestart
  | mgmtWrite (off : Nat) (v : U32)
  | extest
  | intest
  | clamp
  | bypass (tdi : Bool)
  -- rows the table gives last
  | vineFrame (p : Fin 12) (f : VineFrame)
  | rcRead (off : Nat) (size : Nat)
  | configurationRequest (busMaster memSpace : Option Bool)
  | punnetControllerReady (port : Fin 4)
  | channelFailure (s : Fin 16) (c : Fin 32)
  | budgetWindowEnd
  deriving DecidableEq, Repr

end Sys2Proof
end

