-- ==== Sys2Proof/Decode.lean ====
section
/-! DEFINITION. Decoding of the table's bits. No row of spec/opcode_table.json gives bits: a command is not spelled by a word, so no
word stands for one. -/

namespace Sys2Proof

/-- The command that a word spells by the table's bits: the table gives no row any bits, so there is none.
(DESIGN CHOICE, log entry 4) -/
def decodeTableWord (_nbits _w : Nat) : Option Instr := none

end Sys2Proof
end

