-- ==== Sys2Proof/Machine/Table.lean ====
section
/-! DEFINITION. Sparse tables: reading and writing a numbered entry, in one canonical form. The listed keys rise strictly and no
listed entry equals the table's default, so that equal tables are equal data. Device memory, Orchard SRAM, register files and
the module's numbered entries are all such tables. -/

namespace Sys2Proof.Machine

/-- Entry k of a table whose unlisted entries are d. (DESIGN CHOICE, log entry 5) -/
def tget {α : Type} (d : α) : Table α → Nat → α
  | [], _ => d
  | (j, v) :: t, k => if k = j then v else tget d t k

/-- The table with entry k listed as v, keys kept rising. -/
def tinsert {α : Type} (k : Nat) (v : α) : Table α → Table α
  | [] => [(k, v)]
  | (j, w) :: t =>
    if k < j then (k, v) :: (j, w) :: t
    else if k = j then (k, v) :: t
    else (j, w) :: tinsert k v t

/-- The table with entry k not listed. -/
def terase {α : Type} (k : Nat) (t : Table α) : Table α := t.filter (fun e => e.1 ≠ k)

/-- Writing v to entry k: an entry equal to the default is not listed. (DESIGN CHOICE, log entry 2) -/
def tset {α : Type} [DecidableEq α] (d : α) (t : Table α) (k : Nat) (v : α) : Table α :=
  if v = d then terase k t else tinsert k v t

/-- Changing entry k by f. -/
def tmod {α : Type} [DecidableEq α] (d : α) (t : Table α) (k : Nat) (f : α → α) : Table α :=
  tset d t k (f (tget d t k))

/-- The canonical form of a table whose unlisted entries are d. (DESIGN CHOICE, log entry 2) -/
def twf {α : Type} [DecidableEq α] (d : α) : Table α → Bool
  | [] => true
  | (k, v) :: t => decide (v ≠ d) && t.all (fun e => decide (k < e.1)) && twf d t

/-- The n entries from k on, in order. -/
def tslice {α : Type} (d : α) (t : Table α) (k n : Nat) : List α :=
  (List.range n).map (fun i => tget d t (k + i))

/-- Writing a list of entries from k on. -/
def tsets {α : Type} [DecidableEq α] (d : α) (t : Table α) (k : Nat) : List α → Table α
  | [] => t
  | v :: vs => tsets d (tset d t k v) (k + 1) vs

/-- The entries with keys from lo to below hi not listed: they read as the default. -/
def tclear {α : Type} (t : Table α) (lo hi : Nat) : Table α :=
  t.filter (fun e => decide (e.1 < lo) || decide (hi ≤ e.1))

/-! Sets of numbers, kept as rising lists. -/

/-- n put into a rising list. -/
def sinsert (n : Nat) : List Nat → List Nat
  | [] => [n]
  | m :: t => if n < m then n :: m :: t else if n = m then m :: t else m :: sinsert n t

/-- n taken out of a list. -/
def serase (n : Nat) (t : List Nat) : List Nat := t.filter (fun m => m ≠ n)

/-- The list with entry i replaced, where it has one. -/
def lset {α : Type} : List α → Nat → α → List α
  | [], _, _ => []
  | _ :: t, 0, v => v :: t
  | h :: t, i + 1, v => h :: lset t i v

end Sys2Proof.Machine
end

