-- ==== Sys2Proof/Machine/Bits.lean ====
section
/-! DEFINITION. Byte order, bit fields and checks over plain numbers (R7, R8): every field of a register, a record or a stored
header is little-endian, bit 0 the least significant. -/

namespace Sys2Proof.Machine

/-- The number that little-endian bytes spell (R8). -/
def leNat : List Byte → Nat
  | [] => 0
  | b :: bs => b.toNat + 256 * leNat bs

/-- The n little-endian bytes of a number (R8). -/
def natLe : Nat → Nat → List Byte
  | 0, _ => []
  | n + 1, v => BitVec.ofNat 8 v :: natLe n (v / 256)

/-- The number that big-endian bytes spell. -/
def beNat (bs : List Byte) : Nat := leNat bs.reverse

/-- The n big-endian bytes of a number. -/
def natBe (n v : Nat) : List Byte := (natLe n v).reverse

/-- Bits [lo + n - 1 : lo] of v (R7). -/
def bits (v lo n : Nat) : Nat := v / 2 ^ lo % 2 ^ n

/-- Bit i of v. -/
def bit (v i : Nat) : Bool := bits v i 1 == 1

/-- 1 for true and 0 for false. -/
def b2n (b : Bool) : Nat := if b then 1 else 0

/-- The field of size bytes at an offset of a record or header; bytes beyond its end read as 0. -/
def fld (bs : List Byte) (off size : Nat) : Nat := leNat ((bs.drop off).take size)

/-- n bytes from an offset on. -/
def bytesAt (bs : List Byte) (off n : Nat) : List Byte := (bs.drop off).take n

/-- bs padded with zeros, or cut, to n bytes. -/
def padTo (n : Nat) (bs : List Byte) : List Byte := (bs ++ List.replicate (n - bs.length) 0).take n

/-- bs with data in place of the bytes at off. -/
def putAt (bs : List Byte) (off : Nat) (data : List Byte) : List Byte :=
  bs.take off ++ data ++ bs.drop (off + data.length)

/-- A counter of n bits that saturates. -/
def satAdd (n v d : Nat) : Nat := min (v + d) (2 ^ n - 1)

/-- Clearing by writing ones (R10, W1C). -/
def w1c (cur v n : Nat) : Nat := cur % 2 ^ n - Nat.land (cur % 2 ^ n) (v % 2 ^ n)

/-- The lists of n elements each that a list is made of, in order. -/
def chunksOf {α : Type} (n : Nat) (l : List α) : List (List α) :=
  (List.range ((l.length + (n - 1)) / n)).map (fun i => (l.drop (i * n)).take n)

/-- Ceiling of a quotient. -/
def ceilDiv (a b : Nat) : Nat := (a + (b - 1)) / b

/-- Floor of the base-2 logarithm (0 for 0). -/
def log2 (n : Nat) : Nat := Nat.log2 n

/-- The number of bits equal to 1 among the lowest n. -/
def popCount (n v : Nat) : Nat := ((List.range n).filter (fun i => bit v i)).length

/-- Setting or clearing bit i of v. -/
def setBit (v i : Nat) (b : Bool) : Nat := v - (b2n (bit v i)) * 2 ^ i + b2n b * 2 ^ i

/-- The offset of the first check that fails, checks being listed by rising offset. -/
def firstBad : List (Nat × Bool) → Option Nat
  | [] => none
  | (o, ok) :: t => if ok then firstBad t else some o

/-- The first index below n at which p holds. -/
def findBelow (n : Nat) (p : Nat → Bool) : Option Nat := (List.range n).find? p

/-- Whether [a, a + n) and [b, b + m) share an address. -/
def overlaps (a n b m : Nat) : Bool := decide (a < b + m) && decide (b < a + n)

/-- Whether lo ≤ v ≤ hi. -/
def inRange (v lo hi : Nat) : Bool := decide (lo ≤ v) && decide (v ≤ hi)

/-- Replaces every entry for which p holds by f of it. -/
def mapIf {α : Type} (p : α → Bool) (f : α → α) (l : List α) : List α := l.map (fun x => if p x then f x else x)

/-- The CRC-32C of bytes (R77): reflected polynomial 0x1EDC6F41, initial value and final XOR all ones. -/
def crcByte (crc : BitVec 32) (b : Byte) : BitVec 32 :=
  (List.range 8).foldl (fun c _ => if c.getLsbD 0 then (c >>> 1) ^^^ 0x82F63B78#32 else c >>> 1) (crc ^^^ b.setWidth 32)

/-- The CRC-32C of bytes (R77). -/
def crc32c (bs : List Byte) : BitVec 32 := bs.foldl crcByte 0xFFFFFFFF#32 ^^^ 0xFFFFFFFF#32

/-- A register's value from its fields, given as lowest bit, width and value. -/
def packed (fs : List (Nat × Nat × Nat)) : Nat := (fs.map (fun f => f.2.2 % 2 ^ f.2.1 * 2 ^ f.1)).sum

/-! Bit streams and the ZRUN coding of the Raisin codec (R310). -/

/-- The bits of a byte, least significant first. -/
def byteBits (b : Byte) : List Bool := (List.range 8).map (fun i => b.getLsbD i)

/-- The number whose bits a list gives, least significant first. -/
def bitsNat : List Bool → Nat
  | [] => 0
  | b :: bs => b2n b + 2 * bitsNat bs

/-- A bit stream packed into bytes, padded with 0 bits. -/
def packBits (bs : List Bool) : List Byte := (chunksOf 8 bs).map (fun c => BitVec.ofNat 8 (bitsNat c))

/-- The ZRUN body of a source. -/
def zrunBody (elem : Nat) (src : List Byte) : List Byte :=
  (chunksOf 8 (chunksOf (2 ^ elem) src)).flatMap (fun g =>
    let nz := g.map (fun e => e.any (· != 0))
    packBits nz ++ ((g.zip nz).filter (·.2)).flatMap (·.1))

end Sys2Proof.Machine
end

