-- ==== Sys2Proof/Machine/Fp.lean ====
section
/-! DEFINITION. The number formats and their arithmetic (R188, R190, R191, R197, R198): every operation is computed exactly and
rounded once. A finite value is a sign, a magnitude and a power of two. -/

namespace Sys2Proof.Machine

/-- A value of a floating-point format. -/
inductive FpVal where
  | nan (neg : Bool)
  | inf (neg : Bool)
  | fin (neg : Bool) (m : Nat) (e : Int)
  deriving DecidableEq, Repr

/-- A floating-point format (R197): its exponent and fraction bits, and whether it has infinities. -/
structure Fmt where
  ebits : Nat
  fbits : Nat
  infs : Bool
  deriving DecidableEq, Repr

/-- FP32, BF16, FP16, FP8 E4M3 and FP8 E5M2 (R197). -/
def fmtF32 : Fmt := { ebits := 8, fbits := 23, infs := true }
def fmtBF16 : Fmt := { ebits := 8, fbits := 7, infs := true }
def fmtF16 : Fmt := { ebits := 5, fbits := 10, infs := true }
def fmtE4M3 : Fmt := { ebits := 4, fbits := 3, infs := false }
def fmtE5M2 : Fmt := { ebits := 5, fbits := 2, infs := true }

/-- The exponent bias of a format. -/
def fmtBias (f : Fmt) : Int := 2 ^ (f.ebits - 1) - 1

/-- The exponent of the format's smallest subnormal. -/
def fmtMin (f : Fmt) : Int := 1 - fmtBias f - f.fbits

/-- The value that the bits of a format spell. -/
def unpack (f : Fmt) (b : Nat) : FpVal :=
  let neg := bit b (f.ebits + f.fbits)
  let ex := bits b f.fbits f.ebits
  let fr := bits b 0 f.fbits
  if f.infs && ex == 2 ^ f.ebits - 1 then (if fr == 0 then .inf neg else .nan neg)
  else if !f.infs && ex == 2 ^ f.ebits - 1 && fr == 2 ^ f.fbits - 1 then .nan neg
  else if ex == 0 then .fin neg fr (fmtMin f)
  else .fin neg (2 ^ f.fbits + fr) (fmtMin f + (ex - 1 : Nat))

/-- How a value between two neighbours of a grid is rounded: to nearest even, or up when the 24-bit draw u lies below the
position between them (R190). -/
inductive Rounding where
  | nearest
  | stochastic (u : Nat)
  deriving DecidableEq, Repr

/-- The magnitude q of the grid that m ÷ 2^k rounds to. -/
def roundShift (r : Rounding) (neg : Bool) (m k : Nat) : Nat :=
  let q := m / 2 ^ k
  let rem := m % 2 ^ k
  if rem = 0 then q
  else match r with
    | .nearest =>
      if 2 * rem < 2 ^ k then q
      else if 2 ^ k < 2 * rem then q + 1
      else q + q % 2
    | .stochastic u =>
      if neg then (if u < (2 ^ k - rem) * 2 ^ 24 / 2 ^ k then q else q + 1)
      else (if u < rem * 2 ^ 24 / 2 ^ k then q + 1 else q)

/-- The sign bit of a format. -/
def signBits (f : Fmt) (neg : Bool) : Nat := if neg then 2 ^ (f.ebits + f.fbits) else 0

/-- The canonical quiet NaN of a format (R188, R198). -/
def nanBits (f : Fmt) (neg : Bool) : Nat :=
  signBits f neg + (if f.infs then (2 ^ f.ebits - 1) * 2 ^ f.fbits + 2 ^ (f.fbits - 1) else 2 ^ (f.ebits + f.fbits) - 1)

/-- An infinity of a format; in E4M3 it becomes NaN with its sign (R198). -/
def infBits (f : Fmt) (neg : Bool) : Nat :=
  if f.infs then signBits f neg + (2 ^ f.ebits - 1) * 2 ^ f.fbits else nanBits f neg

/-- The bits of m · 2^e rounded to a format; beyond the largest finite value: infinity, or ±448 in E4M3 (R198). -/
def packFin (f : Fmt) (r : Rounding) (neg : Bool) (m : Nat) (e : Int) : Nat :=
  if m = 0 then signBits f neg
  else
    let t : Int := max (e + (log2 m + 1 : Nat) - (f.fbits + 1 : Nat)) (fmtMin f)
    let q := if t ≤ e then m * 2 ^ (e - t).toNat else roundShift r neg m (t - e).toNat
    let mag := (t - fmtMin f).toNat * 2 ^ f.fbits + q
    if f.infs then
      (if (2 ^ f.ebits - 1) * 2 ^ f.fbits ≤ mag then infBits f neg else signBits f neg + mag)
    else signBits f neg + min mag (2 ^ (f.ebits + f.fbits) - 2)

/-- The bits of a value in a format, rounded once. -/
def pack (f : Fmt) (r : Rounding) : FpVal → Nat
  | .nan neg => nanBits f neg
  | .inf neg => infBits f neg
  | .fin neg m e => packFin f r neg m e

/-- The exact sum of two values (R188). -/
def valAdd : FpVal → FpVal → FpVal
  | .nan n, _ => .nan n
  | _, .nan n => .nan n
  | .inf a, .inf b => if a = b then .inf a else .nan false
  | .inf a, .fin .. => .inf a
  | .fin .., .inf b => .inf b
  | .fin na ma ea, .fin nb mb eb =>
    let e := min ea eb
    let a : Int := (if na then -1 else 1) * (ma * 2 ^ (ea - e).toNat : Nat)
    let b : Int := (if nb then -1 else 1) * (mb * 2 ^ (eb - e).toNat : Nat)
    let s := a + b
    if s = 0 then .fin (na && nb && ma == 0 && mb == 0) 0 e else .fin (decide (s < 0)) s.natAbs e

/-- The exact product of two values (R188). -/
def valMul : FpVal → FpVal → FpVal
  | .nan n, _ => .nan n
  | _, .nan n => .nan n
  | .inf a, .inf b => .inf (a != b)
  | .inf a, .fin n m _ => if m = 0 then .nan false else .inf (a != n)
  | .fin n m _, .inf a => if m = 0 then .nan false else .inf (a != n)
  | .fin na ma ea, .fin nb mb eb => .fin (na != nb) (ma * mb) (ea + eb)

/-- Changing a value's sign. -/
def valNeg : FpVal → FpVal
  | .nan n => .nan (!n)
  | .inf n => .inf (!n)
  | .fin n m e => .fin (!n) m e

/-- a < b for values that are not NaN, compared exactly; false when either is NaN. -/
def valLt (a b : FpVal) : Bool :=
  match a, b with
  | .nan _, _ => false
  | _, .nan _ => false
  | .inf x, .inf y => x && !y
  | .inf x, .fin .. => x
  | .fin .., .inf y => !y
  | .fin .., .fin .. =>
    match valAdd a (valNeg b) with
    | .fin n m _ => n && m != 0
    | _ => false

/-- Whether a value is NaN, is zero, is finite. -/
def valIsNan : FpVal → Bool
  | .nan _ => true
  | _ => false
def valIsZero : FpVal → Bool
  | .fin _ 0 _ => true
  | _ => false
def valFinite : FpVal → Bool
  | .fin .. => true
  | _ => false

/-! FP32. -/

/-- The value of an FP32 word. -/
def val32 (x : F32) : FpVal := unpack fmtF32 x.toNat

/-- The FP32 word nearest to a value, ties to even. -/
def f32Of (v : FpVal) : F32 := BitVec.ofNat 32 (pack fmtF32 .nearest v)

/-- a − b: a NaN subtrahend gives its own sign (R188). -/
def valSub (a b : FpVal) : FpVal :=
  match b with
  | .nan n => valAdd a (.nan n)
  | _ => valAdd a (valNeg b)

/-- FP32 addition, subtraction, multiplication and fused multiply-add, each with one rounding (R188, R220). -/
def f32Add (a b : F32) : F32 := f32Of (valAdd (val32 a) (val32 b))
def f32Sub (a b : F32) : F32 := f32Of (valSub (val32 a) (val32 b))
def f32Mul (a b : F32) : F32 := f32Of (valMul (val32 a) (val32 b))
def f32Madd (a b c : F32) : F32 :=
  match val32 a, val32 b, val32 c with
  | .nan n, _, _ => f32Of (.nan n)
  | _, .nan n, _ => f32Of (.nan n)
  | _, _, .nan n => f32Of (.nan n)
  | x, y, z => f32Of (valAdd (valMul x y) z)

/-- The quotient of two magnitudes to far more places than any format keeps, the last place telling that it is inexact. -/
def quotSticky (a b : Nat) (e : Int) : Nat × Int :=
  let k := 80 + log2 b
  let n := a * 2 ^ k
  (2 * (n / b) + (if n % b = 0 then 0 else 1), e - k - 1)

/-- FP32 division, correctly rounded (R211, R236). -/
def f32Div (a b : F32) : F32 :=
  match val32 a, val32 b with
  | .nan n, _ => f32Of (.nan n)
  | _, .nan n => f32Of (.nan n)
  | .inf _, .inf _ => f32Of (.nan false)
  | .inf x, .fin y _ _ => f32Of (.inf (x != y))
  | .fin x _ _, .inf y => f32Of (.fin (x != y) 0 0)
  | .fin x ma ea, .fin y mb eb =>
    if mb = 0 then (if ma = 0 then f32Of (.nan false) else f32Of (.inf (x != y)))
    else
      let q := quotSticky ma mb (ea - eb)
      f32Of (.fin (x != y) q.1 q.2)

/-- Comparisons of FP32 words; false when either is NaN. -/
def f32Lt (a b : F32) : Bool := valLt (val32 a) (val32 b)
def f32IsNan (a : F32) : Bool := valIsNan (val32 a)
def f32Finite (a : F32) : Bool := valFinite (val32 a)
def f32IsZero (a : F32) : Bool := valIsZero (val32 a)
def f32Le (a b : F32) : Bool := !f32IsNan a && !f32IsNan b && !f32Lt b a
def f32Eq (a b : F32) : Bool := f32Le a b && f32Le b a

/-- The sign bit, the magnitude and the negation of an FP32 word. -/
def f32Sign (a : F32) : Bool := a.getLsbD 31
def f32Abs (a : F32) : F32 := a &&& 0x7FFFFFFF#32
def f32Neg (a : F32) : F32 := a ^^^ 0x80000000#32

/-- The canonical NaN with the sign of a word (R188). -/
def f32Quiet (a : F32) : F32 := f32Of (.nan (f32Sign a))

/-- A whole number as FP32. -/
def f32OfInt (i : Int) : F32 := f32Of (.fin (decide (i < 0)) i.natAbs 0)
def f32OfNat (n : Nat) : F32 := f32OfInt n

/-- Bits of often used values. -/
def f32One : F32 := 0x3F800000#32
def f32Half : F32 := 0x3F000000#32
def f32NegZero : F32 := 0x80000000#32

/-- Widening, exact (R198): from BF16, FP16, FP8 E4M3 and FP8 E5M2. -/
def f32OfBf16 (b : BF16) : F32 := f32Of (unpack fmtBF16 b.toNat)
def f32OfF16 (b : BitVec 16) : F32 := f32Of (unpack fmtF16 b.toNat)
def f32OfE4m3 (b : Byte) : F32 := f32Of (unpack fmtE4M3 b.toNat)
def f32OfE5m2 (b : Byte) : F32 := f32Of (unpack fmtE5M2 b.toNat)

/-- Narrowing from FP32 (R198, R190). -/
def bf16Of (r : Rounding) (x : F32) : BF16 := BitVec.ofNat 16 (pack fmtBF16 r (val32 x))
def e4m3Of (r : Rounding) (x : F32) : Byte := BitVec.ofNat 8 (pack fmtE4M3 r (val32 x))
def e5m2Of (r : Rounding) (x : F32) : Byte := BitVec.ofNat 8 (pack fmtE5M2 r (val32 x))

/-- A finite value beyond ±448, which E4M3 saturates (R198). -/
def e4m3Saturates (x : F32) : Bool := f32Finite x && f32Lt 0x43E00000#32 (f32Abs x)

/-- The nearest integer of an FP32 word, by a rounding; infinities saturate and NaN gives 0 (R209). -/
def f32ToInt (r : Rounding) (x : F32) : Int :=
  match val32 x with
  | .nan _ => 0
  | .inf n => if n then -(2 ^ 31) else 2 ^ 31 - 1
  | .fin n m e =>
    let q := if 0 ≤ e then m * 2 ^ e.toNat else roundShift r n m (-e).toNat
    let i : Int := if n then -(q : Int) else q
    max (-(2 ^ 31)) (min i (2 ^ 31 - 1))

/-! BF16 element-wise arithmetic: computed exactly and rounded once (R188). -/

/-- The value of a BF16 word, and the BF16 word of a value. -/
def valBf (x : BF16) : FpVal := unpack fmtBF16 x.toNat
def bfOf (v : FpVal) : BF16 := BitVec.ofNat 16 (pack fmtBF16 .nearest v)
def bf16Add (a b : BF16) : BF16 := bfOf (valAdd (valBf a) (valBf b))
def bf16Mul (a b : BF16) : BF16 := bfOf (valMul (valBf a) (valBf b))

/-! Octet order (R29, R161, R185). -/

/-- The tree over eight lane sums. -/
def octetTree (add : F32 → F32 → F32) (l : Nat → F32) : F32 :=
  add (add (add (l 0) (l 1)) (add (l 2) (l 3))) (add (add (l 4) (l 5)) (add (l 6) (l 7)))

/-- A lane's running sum from +0, in index order. -/
def laneSum (xs : List F32) : F32 := xs.foldl f32Add 0

/-- The entries of lane l: those whose index is l modulo 8. -/
def laneOf {α : Type} (l : Nat) (xs : List α) : List α :=
  (List.range ((xs.length + 7 - l) / 8)).filterMap (fun i => xs[8 * i + l]?)

/-- The octet-order sum of a list, by index (R185), without spills. -/
def octetSum (xs : List F32) : F32 := octetTree f32Add (fun l => laneSum (laneOf l xs))

/-- A spill pair (h, c) and the lane word of R183. -/
structure LaneAcc where
  cur : F32
  h : F32
  c : F32
  spilled : Bool
  deriving DecidableEq, Repr

/-- A lane before its first term. -/
def LaneAcc.zero : LaneAcc := { cur := 0, h := 0, c := 0, spilled := false }

/-- Folding the lane word into its spill pair at a spill point (R183). -/
def laneSpill (a : LaneAcc) : LaneAcc :=
  let s := f32Add a.h a.cur
  let c := if f32Finite s then
      let z := f32Sub s a.h
      f32Add a.c (f32Add (f32Sub a.h (f32Sub s z)) (f32Sub a.cur z))
    else 0
  { cur := 0, h := s, c := c, spilled := true }

/-- The lane result at CLOSE (R183). -/
def laneClose (a : LaneAcc) : F32 := if a.spilled then f32Add a.h (f32Add a.c a.cur) else a.cur

/-- The whole procedure of R183 over a lane's terms: i counts the terms added, len is the spill length. -/
def laneKeepGo (len : Nat) : Nat → LaneAcc → List F32 → LaneAcc
  | _, a, [] => a
  | i, a, t :: ts =>
    let a' : LaneAcc := { a with cur := f32Add a.cur t }
    if (i + 1) % len = 0 && !ts.isEmpty then laneKeepGo len (i + 1) (laneSpill a') ts
    else laneKeepGo len (i + 1) a' ts

/-- A lane kept by R183 with spill length len. -/
def laneKeep (len : Nat) (ts : List F32) : F32 := laneClose (laneKeepGo len 0 LaneAcc.zero ts)

/-! Maximum and minimum (R189). -/

/-- Whether b beats a strictly in a max reduction: NaN above +Inf, ties to the earlier. -/
def maxBeats (a b : F32) : Bool := if f32IsNan a then false else if f32IsNan b then true else f32Lt a b

/-- Whether b beats a strictly in a min reduction: NaN below −Inf. -/
def minBeats (a b : F32) : Bool := if f32IsNan a then false else if f32IsNan b then true else f32Lt b a

/-- The winner and its index over (index, value) pairs in index order (R189). -/
def pickWinner (beats : F32 → F32 → Bool) : List (Nat × F32) → Option (Nat × F32)
  | [] => none
  | e :: es => some (es.foldl (fun w x => if beats w.2 x.2 then x else w) e)

/-! The stochastic draw (R191). -/

/-- mix of R191 on 64 bits. -/
def srMix (z : U64) : U64 :=
  let z := (z ^^^ (z >>> 30)) * 0xBF58476D1CE4E5B9#64
  let z := (z ^^^ (z >>> 27)) * 0x94D049BB133111EB#64
  z ^^^ (z >>> 31)

/-- The 24-bit draw of element x of the vector at point p of layer l, token position t, seed and key (R191). -/
def srDraw (key seed : Nat) (l p t x : Nat) : Nat :=
  let tag := BitVec.ofNat 64 (l * 8 + p)
  let r := srMix (BitVec.ofNat 64 key ^^^ srMix (tag ^^^ srMix (BitVec.ofNat 64 seed ^^^
    srMix (BitVec.ofNat 64 t ^^^ srMix (BitVec.ofNat 64 x)))))
  (r >>> 40).toNat

end Sys2Proof.Machine
end

