-- ==== Sys2Proof/Machine/BellGrid.lean ====
section
/-! DEFINITION. Bell-grid codes, blocks, records and rows of weights (R199 to R207), and the narrowing of layer inputs (R209,
R210). -/

namespace Sys2Proof.Machine

/-- Level numerators of BG6 from code 31 on (R199). -/
def bg6Upper : List Nat :=
  [0, 41, 82, 123, 164, 205, 247, 289, 332, 375, 419, 464, 509, 556, 604, 653, 704, 756, 811, 868, 927, 991, 1058, 1130,
   1208, 1294, 1390, 1500, 1631, 1796, 2028, 2470]

/-- Level numerators of BG4 from code 7 on, and of BG3 from code 3 on (R199). -/
def bg4Upper : List Nat := [0, 172, 349, 537, 745, 991, 1312, 1878]
def bg3Upper : List Nat := [0, 375, 811, 1500]

/-- Code width of a weight format: 2 BG3, 3 BG4, 4 BG6, 5 and 6 FP8, 0 BF16 (R137, R197). -/
def fmtWidth (fmt : Nat) : Nat :=
  match fmt with
  | 2 => 3
  | 3 => 4
  | 4 => 6
  | 0 => 16
  | _ => 8

/-- Whether a weight format is a bell grid. -/
def fmtIsBg (fmt : Nat) : Bool := fmt == 2 || fmt == 3 || fmt == 4

/-- Level of a code, exact in FP32 (R199): the lower half mirrors the upper with its sign changed. -/
def bgLevel (fmt code : Nat) : F32 :=
  let mid := 2 ^ (fmtWidth fmt - 1) - 1
  let up := match fmt with
    | 2 => bg3Upper
    | 3 => bg4Upper
    | _ => bg6Upper
  if mid ≤ code then f32Of (.fin false (up.getD (code - mid) 0) (-10))
  else f32Of (.fin true (up.getD (mid - code) 0) (-10))

/-- The escape code of a bell grid. -/
def bgEscape (fmt : Nat) : Nat := 2 ^ fmtWidth fmt - 1

/-- A stored value of an FP8 or BF16 matrix, widened (R198). -/
def storedValue (fmt raw : Nat) : F32 :=
  match fmt with
  | 5 => f32OfE4m3 (BitVec.ofNat 8 raw)
  | 6 => f32OfE5m2 (BitVec.ofNat 8 raw)
  | _ => f32OfBf16 (BitVec.ofNat 16 raw)

/-- What stops a layer at a block of a row (R158, R204). -/
inductive RowFault where
  /-- The record's number differs from the one expected. -/
  | skew (block expected found : Nat)
  | malformed (block : Nat)
  deriving DecidableEq, Repr

/-- Positions of a block that a unit with lanes laneFirst to laneFirst + lanes − 1 holds, ascending (R206); all 256 for 8. -/
def heldPositions (laneFirst lanes : Nat) : List Nat :=
  (List.range 256).filter (fun p => decide (laneFirst ≤ p % 8) && decide (p % 8 < laneFirst + lanes))

/-- Code i of a block whose bytes are bs (R200). -/
def codeAt (fmt : Nat) (block : Nat) (i : Nat) : Nat := bits block (fmtWidth fmt * i) (fmtWidth fmt)

/-- Side entries of escaped positions: their values, or none where POS differs (R203, R204). -/
def sideEntries : List Nat → List Byte → Option (List (Nat × F32))
  | [], _ => some []
  | p :: ps, side =>
    if fld side 0 1 = p && decide (4 ≤ side.length) then
      (sideEntries ps (side.drop 4)).map (fun r => (p, f32OfBf16 (BitVec.ofNat 16 (fld side 2 2))) :: r)
    else none

/-- The values in level units of a bell-grid block's used positions, and the side bytes that it takes; none when it is
malformed by itself or would pass the side data left (R203, R204). held lists the positions held, used those below K. -/
def decodeBgBlock (fmt : Nat) (held : List Nat) (usedBelow : Nat) (block : Nat) (side : List Byte) :
    Option (List (Nat × F32) × Nat) :=
  let coded := (List.range held.length).map (fun i => (held.getD i 0, codeAt fmt block i))
  let used := coded.filter (fun e => decide (e.1 < usedBelow))
  let pads := coded.filter (fun e => decide (usedBelow ≤ e.1))
  let esc := (used.filter (fun e => e.2 == bgEscape fmt)).map (·.1)
  if pads.any (fun e => e.2 == bgEscape fmt) then none
  else if 9 ≤ esc.length then
    if esc.length < used.length then none
    else if side.length < held.length then none
    else
      some ((List.range held.length).filterMap (fun i =>
        let p := held.getD i 0
        if p < usedBelow then some (p, f32OfE4m3 (side.getD i 0)) else none), held.length)
  else if side.length < 4 * esc.length then none
  else
    (sideEntries esc side).map (fun vals =>
      (used.map (fun e =>
        (e.1, match vals.find? (fun v => v.1 == e.1) with
          | some v => v.2
          | none => bgLevel fmt e.2)), 4 * esc.length))

/-- One column of a decoded row: its index, its value in level units and its block's scale (R207). -/
structure RowTerm where
  col : Nat
  v : F32
  b : F32
  deriving DecidableEq, Repr

/-- The blocks of a row from block k on (R200 to R205): n blocks remain, side is the side data not yet taken. -/
def decodeBlocks (fmt kCols laneFirst lanes bsnFirst rowBase nb : Nat) (codes slot : List Byte) :
    Nat → Nat → List Byte → Except RowFault (List RowTerm)
  | 0, _, _ => .ok []
  | n + 1, k, side =>
    let expected := (bsnFirst + rowBase + k) % 65536
    let found := fld slot (8 + 4 * k) 2
    if found ≠ expected then .error (.skew k expected found)
    else
      let b := f32OfBf16 (BitVec.ofNat 16 (fld slot (8 + 4 * k + 2) 2))
      let held := heldPositions laneFirst lanes
      let bytes := held.length * fmtWidth fmt / 8
      let block := leNat (bytesAt codes (k * bytes) bytes)
      let usedBelow := min 256 (kCols - 256 * k)
      let dec : Option (List (Nat × F32) × Nat) :=
        if fmtIsBg fmt then decodeBgBlock fmt held usedBelow block side
        else some ((List.range held.length).filterMap (fun i =>
          let p := held.getD i 0
          if p < usedBelow then some (p, storedValue fmt (codeAt fmt block i)) else none), 0)
      match dec with
      | none => .error (.malformed k)
      | some (vals, took) =>
        let rest := side.drop took
        if n = 0 && !rest.isEmpty then .error (.malformed (nb - 1))
        else
          match decodeBlocks fmt kCols laneFirst lanes bsnFirst rowBase nb codes slot n (k + 1) rest with
          | .error f => .error f
          | .ok ts => .ok (vals.map (fun e => { col := 256 * k + e.1, v := e.2, b := b : RowTerm }) ++ ts)

/-- Bytes of a row's code stream and of its record slot (R200, R202). -/
def rowCodeBytes (fmt kCols lanes : Nat) : Nat := ceilDiv kCols 256 * (32 * lanes * fmtWidth fmt / 8)
def rowSlotBytes (fmt kCols : Nat) : Nat := 8 + (if fmtIsBg fmt then 20 else 4) * ceilDiv kCols 256

/-- A row of row number i of a matrix whose first block has number bsnFirst, from its code stream and its record slot, for a
unit that holds the given lanes (R200 to R206). -/
def decodeRow (fmt kCols laneFirst lanes bsnFirst i : Nat) (codes slot : List Byte) : Except RowFault (List RowTerm) :=
  let nb := ceilDiv kCols 256
  let sideLen := fld slot 0 2
  if (fmtIsBg fmt && decide (16 * nb < sideLen)) || (!fmtIsBg fmt && decide (sideLen ≠ 0)) then .error (.malformed 0)
  else
    decodeBlocks fmt kCols laneFirst lanes bsnFirst (i * nb) nb codes slot nb 0 (bytesAt slot (8 + 4 * nb) sideLen)

/-- The product of a weight element and an input (R207). -/
def product (v a b : F32) : F32 := f32Mul (f32Mul v a) b

/-- The row sum r of a decoded row and an input vector, in octet order with spill length len (R161, R183, R185). -/
def rowSum (len : Nat) (row : List RowTerm) (a : Nat → F32) : F32 :=
  octetTree f32Add (fun l =>
    laneKeep len ((row.filter (fun t => t.col % 8 == l)).map (fun t => product t.v (a t.col) t.b)))

/-- The values of one input channel (R209): scale, inverse, offset, and whether it is constant. -/
structure Channel where
  s : F32
  g : F32
  o : F32
  const : Bool
  deriving DecidableEq, Repr

/-- A channel at the creation of its model (R212). -/
def Channel.initial : Channel := { s := f32One, g := f32One, o := 0, const := false }

/-- Quantising x: the INT8 value, whether it was clipped (R209). -/
def quantise (r : Rounding) (c : Channel) (x : F32) : Int × Bool :=
  if c.const then (0, !f32Eq x c.o)
  else
    let m := f32ToInt r (f32Mul (f32Sub x c.o) c.g)
    (max (-127) (min m 127), decide (127 < m.natAbs))

/-- a(s, j): the input in its quantised form (R209). -/
def dequantise (c : Channel) (q : Int) : F32 := f32Add (f32Mul (f32OfInt q) c.s) c.o

/-- A channel from a range, or none where a value is not finite (R210, R211). -/
def channelOfRange (mn mx : F32) : Option Channel :=
  if f32Eq mn mx then some { s := f32One, g := 0, o := mn, const := true }
  else
    let d := f32Sub mx mn
    let s := f32Div d 0x437E0000#32
    let g := f32Div f32One s
    if f32Finite d && f32Finite g then
      some { s := s, g := g, o := f32Add (f32Mul f32Half mx) (f32Mul f32Half mn), const := false }
    else none

/-- A channel from a scale and an offset, or none where a value is not finite (R211). -/
def channelOfScale (s o : F32) : Option Channel :=
  if f32IsZero s then some { s := f32One, g := 0, o := o, const := true }
  else
    let g := f32Div f32One s
    if f32Finite g then some { s := s, g := g, o := o, const := false } else none

end Sys2Proof.Machine
end

