-- ==== Sys2Proof/Machine/Crypto.lean ====
section
/-! DEFINITION. The external algorithms that the spec names: SHA-512 and HKDF (R318, R389 to R393), AES-256-GCM (R318, R347),
ChaCha20 (R271) and Ed25519 (R390). PRESUMED: each is written from its public standard (FIPS 180-4, RFC 5869, FIPS 197, SP
800-38D, RFC 8439, RFC 8032), which the spec names and does not restate. -/

namespace Sys2Proof.Machine

/-! ## SHA-512 -/

/-- The largest r below 2 ^ n (added to r) with r ^ k ≤ v. -/
def rootBits (k v : Nat) : Nat → Nat → Nat
  | 0, r => r
  | n + 1, r => rootBits k v n (if (r + 2 ^ n) ^ k ≤ v then r + 2 ^ n else r)

/-- The first n primes. -/
def firstPrimes (n : Nat) : List Nat :=
  ((List.range 420).filter (fun p => decide (1 < p) && (List.range p).all (fun d => decide (d < 2) || p % d != 0))).take n

/-- The 80 round constants: the first 64 fractional bits of the cube roots of the first 80 primes. -/
def shaK : List U64 := (firstPrimes 80).map (fun p => BitVec.ofNat 64 (rootBits 3 (p * 2 ^ 192) 68 0))

/-- The initial hash value: the first 64 fractional bits of the square roots of the first 8 primes. -/
def shaInit : List U64 := (firstPrimes 8).map (fun p => BitVec.ofNat 64 (rootBits 2 (p * 2 ^ 128) 68 0))

/-- The message schedule, newest word first: n more words. -/
def shaSchedule : Nat → List U64 → List U64
  | 0, w => w
  | n + 1, w =>
    let g := fun i => (w[i]?).getD 0#64
    let s0 := (g 14).rotateRight 1 ^^^ (g 14).rotateRight 8 ^^^ (g 14 >>> 7)
    let s1 := (g 1).rotateRight 19 ^^^ (g 1).rotateRight 61 ^^^ (g 1 >>> 6)
    shaSchedule n ((g 15 + s0 + g 6 + s1) :: w)

/-- One round over the eight working variables. -/
def shaRound (v : List U64) (kw : U64) : List U64 :=
  match v with
  | [a, b, c, d, e, f, g, h] =>
    let t1 := h + (e.rotateRight 14 ^^^ e.rotateRight 18 ^^^ e.rotateRight 41) + ((e &&& f) ^^^ (~~~e &&& g)) + kw
    let t2 := (a.rotateRight 28 ^^^ a.rotateRight 34 ^^^ a.rotateRight 39) + ((a &&& b) ^^^ (a &&& c) ^^^ (b &&& c))
    [t1 + t2, a, b, c, d + t1, e, f, g]
  | _ => v

/-- One 128-byte block. -/
def shaBlock (h : List U64) (blk : List Byte) : List U64 :=
  let w0 := (chunksOf 8 blk).map (fun c => BitVec.ofNat 64 (beNat c))
  let ws := (shaSchedule 64 w0.reverse).reverse
  let v := (List.zipWith (· + ·) shaK ws).foldl shaRound h
  List.zipWith (· + ·) h v

/-- SHA-512 of bytes: 64 bytes. (PRESUMED, log entry 6) -/
def sha512 (m : List Byte) : List Byte :=
  let z := (239 - m.length % 128) % 128
  let padded := m ++ [0x80#8] ++ List.replicate z 0 ++ natBe 16 (8 * m.length)
  ((chunksOf 128 padded).foldl shaBlock shaInit).flatMap (fun x => natBe 8 x.toNat)

/-- HMAC with SHA-512. -/
def hmac512 (key m : List Byte) : List Byte :=
  let k := padTo 128 (if key.length ≤ 128 then key else sha512 key)
  sha512 (k.map (· ^^^ 0x5C#8) ++ sha512 (k.map (· ^^^ 0x36#8) ++ m))

/-- HKDF with SHA-512 for at most 64 bytes of output. (PRESUMED, log entry 6) -/
def hkdf (ikm salt info : List Byte) (n : Nat) : List Byte := (hmac512 (hmac512 salt ikm) (info ++ [1#8])).take n

/-! ## AES-256 and GCM -/

/-- Multiplication by x in the AES field. -/
def aesX (b : Byte) : Byte := if b.getLsbD 7 then (b <<< 1) ^^^ 0x1B#8 else b <<< 1

/-- Multiplication in the AES field. -/
def aesMul (a b : Byte) : Byte :=
  ((List.range 8).foldl (fun (p : Byte × Byte) i => (if b.getLsbD i then p.1 ^^^ p.2 else p.1, aesX p.2)) (0#8, a)).1

/-- The S-box: the inverse in the field, and the affine map. -/
def aesSbox (b : Byte) : Byte :=
  let i := (List.range 253).foldl (fun acc _ => aesMul acc b) b
  i ^^^ i.rotateLeft 1 ^^^ i.rotateLeft 2 ^^^ i.rotateLeft 3 ^^^ i.rotateLeft 4 ^^^ 0x63#8

/-- The S-box as a list. -/
def aesSboxTable : List Byte := (List.range 256).map (fun n => aesSbox (BitVec.ofNat 8 n))

/-- S-box look-up. -/
def aesSub (b : Byte) : Byte := (aesSboxTable[b.toNat]?).getD 0

/-- The exclusive or of byte lists. -/
def xorBytes (a b : List Byte) : List Byte := List.zipWith (· ^^^ ·) a b

/-- n more key-schedule words after those listed, newest first; i is the number of the next word. -/
def aesExpand : Nat → Nat → Byte → List (List Byte) → List (List Byte)
  | 0, _, _, ws => ws
  | n + 1, i, rc, ws =>
    let t := ws.headD []
    let o := (ws[7]?).getD []
    if i % 8 = 0 then
      let r := (t.drop 1 ++ t.take 1).map aesSub
      aesExpand n (i + 1) (aesX rc) (xorBytes o (xorBytes r [rc, 0, 0, 0]) :: ws)
    else if i % 8 = 4 then aesExpand n (i + 1) rc (xorBytes o (t.map aesSub) :: ws)
    else aesExpand n (i + 1) rc (xorBytes o t :: ws)

/-- The fifteen round keys of a 32-byte key. -/
def aesKeys (key : List Byte) : List (List Byte) :=
  (chunksOf 4 (aesExpand 52 8 1 (chunksOf 4 key).reverse).reverse).map List.flatten

/-- ShiftRows on a state in column order. -/
def aesShift (s : List Byte) : List Byte :=
  (List.range 16).map (fun i => (s[(i + 4 * (i % 4)) % 16]?).getD 0)

/-- MixColumns on one column. -/
def aesMixCol (col : List Byte) : List Byte :=
  let g := fun i => (col[i % 4]?).getD 0
  (List.range 4).map (fun i => aesMul 2 (g i) ^^^ aesMul 3 (g (i + 1)) ^^^ g (i + 2) ^^^ g (i + 3))

/-- AES-256 of one 16-byte block. -/
def aesBlock (key blk : List Byte) : List Byte :=
  match aesKeys key with
  | [] => blk
  | k0 :: ks =>
    let mid := ks.take 13
    let s := mid.foldl (fun s k => xorBytes (((chunksOf 4 (aesShift (s.map aesSub))).map aesMixCol).flatten) k)
      (xorBytes blk k0)
    xorBytes (aesShift (s.map aesSub)) ((ks.drop 13).headD [])

/-- Multiplication in the GCM field, bit 0 of a block being the most significant bit of its first byte. -/
def gcmMul (x y : Nat) : Nat :=
  ((List.range 128).foldl (fun (p : Nat × Nat) i =>
    (if bit x (127 - i) then Nat.xor p.1 p.2 else p.1,
      if p.2 % 2 = 1 then Nat.xor (p.2 / 2) (0xE1 * 2 ^ 120) else p.2 / 2)) (0, y)).1

/-- GHASH of whole blocks. -/
def ghash (h : Nat) (bs : List Byte) : Nat :=
  (chunksOf 16 bs).foldl (fun acc c => gcmMul (Nat.xor acc (beNat (padTo 16 c))) h) 0

/-- Counter-mode encryption from counter c on. -/
def gcmCtr (key nonce : List Byte) (c : Nat) (bs : List Byte) : List Byte :=
  ((chunksOf 16 bs).zipIdx.map (fun p => xorBytes p.1 (aesBlock key (nonce ++ natBe 4 (c + p.2))))).flatten

/-- bs padded with zeros to whole blocks. -/
def pad16 (bs : List Byte) : List Byte := bs ++ List.replicate ((16 - bs.length % 16) % 16) 0

/-- The GCM tag over additional data and ciphertext. -/
def gcmTag (key nonce aad ct : List Byte) : List Byte :=
  let h := beNat (aesBlock key (List.replicate 16 0))
  let s := ghash h (pad16 aad ++ pad16 ct ++ natBe 8 (8 * aad.length) ++ natBe 8 (8 * ct.length))
  xorBytes (natBe 16 s) (aesBlock key (nonce ++ natBe 4 1))

/-- AES-256-GCM: the ciphertext and the tag. (PRESUMED, log entry 6) -/
def gcmSeal (key nonce aad pt : List Byte) : List Byte × List Byte :=
  let ct := gcmCtr key nonce 2 pt
  (ct, gcmTag key nonce aad ct)

/-- Opening a sealed text: none when the tag does not verify. (PRESUMED, log entry 6) -/
def gcmOpen (key nonce aad ct tag : List Byte) : Option (List Byte) :=
  if gcmTag key nonce aad ct = tag then some (gcmCtr key nonce 2 ct) else none

/-! ## ChaCha20 -/

/-- Word i of a state. -/
def ccGet (s : List U32) (i : Nat) : U32 := (s[i]?).getD 0

/-- The quarter round on words a, b, c, d. -/
def ccQuarter (s : List U32) (a b c d : Nat) : List U32 :=
  let mix := fun (s : List U32) (x y z r : Nat) =>
    let sx := ccGet s x + ccGet s y
    lset (lset s x sx) z ((ccGet s z ^^^ sx).rotateLeft r)
  mix (mix (mix (mix s a b d 16) c d b 12) a b d 8) c d b 7

/-- Two rounds: columns, then diagonals. -/
def ccDouble (s : List U32) : List U32 :=
  let s := ccQuarter (ccQuarter (ccQuarter (ccQuarter s 0 4 8 12) 1 5 9 13) 2 6 10 14) 3 7 11 15
  ccQuarter (ccQuarter (ccQuarter (ccQuarter s 0 5 10 15) 1 6 11 12) 2 7 8 13) 3 4 9 14

/-- The ChaCha20 block: sixteen words for a 32-byte key, a 32-bit counter and a 12-byte nonce. (PRESUMED, log entry 6) -/
def chachaBlock (key : List Byte) (ctr : Nat) (nonce : List Byte) : List U32 :=
  let w := fun (bs : List Byte) => (chunksOf 4 bs).map (fun c => BitVec.ofNat 32 (leNat c))
  let s := [0x61707865#32, 0x3320646E#32, 0x79622D32#32, 0x6B206574#32] ++ w key ++ [BitVec.ofNat 32 ctr] ++ w nonce
  List.zipWith (· + ·) s ((List.range 10).foldl (fun s _ => ccDouble s) s)

/-! ## Ed25519 -/

/-- The field's prime. -/
def edP : Nat := 2 ^ 255 - 19

/-- The order of the base point. -/
def edL : Nat := 2 ^ 252 + 27742317777372353535851937790883648493

/-- b ^ e modulo m, by the lowest n bits of e. -/
def powMod (m b e : Nat) : Nat → Nat
  | 0 => 1 % m
  | n + 1 => let h := powMod m (b * b % m) (e / 2) n; if e % 2 = 1 then b * h % m else h

/-- The inverse in the field. -/
def edInv (a : Nat) : Nat := powMod edP a (edP - 2) 255

/-- Difference in the field. -/
def edSub (a b : Nat) : Nat := (a + (edP - b % edP)) % edP

/-- The curve constant d. -/
def edD : Nat := edSub 0 (121665 * edInv 121666 % edP)

/-- A point in extended coordinates. -/
structure EdPoint where
  x : Nat
  y : Nat
  z : Nat
  t : Nat
  deriving DecidableEq, Repr

/-- The neutral point. -/
def edZero : EdPoint := { x := 0, y := 1, z := 1, t := 0 }

/-- Point addition. -/
def edAdd (p q : EdPoint) : EdPoint :=
  let a := edSub p.y p.x * edSub q.y q.x % edP
  let b := (p.y + p.x) * (q.y + q.x) % edP
  let c := 2 * p.t * q.t % edP * edD % edP
  let d := 2 * p.z * q.z % edP
  let e := edSub b a
  let f := edSub d c
  let g := (d + c) % edP
  let h := (b + a) % edP
  { x := e * f % edP, y := g * h % edP, z := f * g % edP, t := e * h % edP }

/-- k times a point, by the lowest n bits of k. -/
def edMul (p : EdPoint) (k : Nat) : Nat → EdPoint
  | 0 => edZero
  | n + 1 => let h := edMul (edAdd p p) (k / 2) n; if k % 2 = 1 then edAdd p h else h

/-- The x coordinate for y with the given lowest bit, where there is one. -/
def edRecoverX (y sign : Nat) : Option Nat :=
  if edP ≤ y then none else
  let u := edSub (y * y % edP) 1
  let v := (edD * (y * y % edP) + 1) % edP
  let v3 := v * v % edP * v % edP
  let x := u * v3 % edP * powMod edP (u * (v3 * v3 % edP * v % edP) % edP) ((edP - 5) / 8) 253 % edP
  let vxx := v * (x * x % edP) % edP
  let x := if vxx = u then some x
    else if vxx = edSub 0 u then some (x * powMod edP 2 ((edP - 1) / 4) 255 % edP) else none
  match x with
  | none => none
  | some x => if x = 0 && sign = 1 then none else some (if x % 2 = sign then x else edP - x)

/-- Decoding 32 bytes as a point. -/
def edDecode (bs : List Byte) : Option EdPoint :=
  let n := leNat bs
  let y := n % 2 ^ 255
  match edRecoverX y (bits n 255 1) with
  | none => none
  | some x => some { x := x, y := y, z := 1, t := x * y % edP }

/-- Encoding a point. -/
def edEncode (p : EdPoint) : List Byte :=
  let zi := edInv p.z
  natLe 32 (p.y * zi % edP + (p.x * zi % edP) % 2 * 2 ^ 255)

/-- The base point. -/
def edBase : EdPoint :=
  let y := 4 * edInv 5 % edP
  let x := (edRecoverX y 0).getD 0
  { x := x, y := y, z := 1, t := x * y % edP }

/-- The secret scalar and the prefix of a 32-byte seed. -/
def edExpand (seed : List Byte) : Nat × List Byte :=
  let h := sha512 seed
  let a := leNat (h.take 32)
  (a % 2 ^ 254 / 8 * 8 + 2 ^ 254, h.drop 32)

/-- The public key of a seed. -/
def edPublic (seed : List Byte) : List Byte := edEncode (edMul edBase (edExpand seed).1 256)

/-- Pure Ed25519 signature of a message. (PRESUMED, log entry 6) -/
def edSign (seed msg : List Byte) : List Byte :=
  let (a, pre) := edExpand seed
  let pk := edEncode (edMul edBase a 256)
  let r := leNat (sha512 (pre ++ msg)) % edL
  let rp := edEncode (edMul edBase r 256)
  let k := leNat (sha512 (rp ++ pk ++ msg)) % edL
  rp ++ natLe 32 ((r + k * a) % edL)

/-- Whether a 64-byte signature of a message verifies under a public key. (PRESUMED, log entry 6) -/
def edVerify (pk msg sig : List Byte) : Bool :=
  match edDecode pk, edDecode (sig.take 32) with
  | some a, some r =>
    let s := leNat (sig.drop 32)
    let k := leNat (sha512 (sig.take 32 ++ pk ++ msg)) % edL
    sig.length == 64 && decide (s < edL) && (edEncode (edMul edBase s 256) == edEncode (edAdd r (edMul a k 256)))
  | _, _ => false

/-! ## The spec's uses -/

/-- ASCII bytes of a name. -/
def ascii (s : String) : List Byte := s.toList.map (fun c => BitVec.ofNat 8 c.toNat)

/-- Every signature is over the SHA-512 digest of the bytes covered (R390). -/
def signs (pk covered sig : List Byte) : Bool := edVerify pk (sha512 covered) sig

/-- A key's fingerprint (R322, R390). -/
def fingerprint (pk : List Byte) : Nat := leNat ((sha512 pk).take 8)

end Sys2Proof.Machine
end

