-- ==== Sys2Proof/Config.lean ====
section
/-! DEFINITION. What is fixed for one module and what the spec leaves open. Every constant here is opaque: nothing can be proved
of its value, so a theorem of the model holds for every value. The log entries name each of them. -/

namespace Sys2Proof

/-- The SERIAL fuses (R389). (DESIGN CHOICE, log entry 14) -/
opaque Config.serial : U64

/-- The OPTIONS fuses (R389). (DESIGN CHOICE, log entry 14) -/
opaque Config.options : U64

/-- The ROOT_HASH fuses (R389), 64 bytes. (DESIGN CHOICE, log entry 14) -/
opaque Config.rootHash : BitVec 512

/-- The IDENTITY_SEED fuses (R389), 32 bytes. (DESIGN CHOICE, log entry 14) -/
opaque Config.identitySeed : BitVec 256

/-- The Walmoqua root public key held in the identity memory (R392), 32 bytes. (DESIGN CHOICE, log entry 14) -/
opaque Config.rootKey : BitVec 256

/-- The six certificates held in the identity memory (R392): AUTHORITY, MODULE, WEDGE 0 to 3, 256 bytes each.
(DESIGN CHOICE, log entry 14) -/
opaque Config.certificate : Nat → BitVec 2048

/-- The image that a configuration-flash slot holds when the module meets it (R397). (DESIGN CHOICE, log entry 14) -/
opaque Config.flashFound : Nat → List Byte

/-- The boot secret drawn at bring-up n (R318), 32 bytes. (DESIGN CHOICE, log entry 14) -/
opaque Config.bootSecret : Nat → BitVec 256

/-- The n-th other draw of the Husk core's random source (challenges, group secrets), 32 bytes. (DESIGN CHOICE, log entry 14) -/
opaque Config.randomDraw : Nat → BitVec 256

/-- The n-th free value: where the spec states an effect and leaves a value open. (DESIGN CHOICE, log entry 3) -/
opaque Config.freeValue : Nat → Nat

/-- A byte of a burst read under another key than it was written under (R316): bring-up, key written, key read, burst number,
the burst's bytes and the byte's place. (DESIGN CHOICE, log entry 14) -/
opaque Config.unrelatedByte : Nat → Nat → Nat → Nat → List Byte → Nat → Byte

/-- A byte of a burst whose ciphertext was changed beyond what the symbol code repairs (R103, R316): bring-up, key, burst number,
the plaintext that was stored, the change and the byte's place. (DESIGN CHOICE, log entry 14) -/
opaque Config.alteredByte : Nat → Nat → Nat → List Byte → List Byte → Nat → Byte

/-- The outcome of decoding a burst with four or more symbols in error, or a poison marker with two or more further ones (R103,
R107), by the burst's number and the pattern: 0 uncorrectable, 1 corrected toward another codeword, 2 passed as clean.
(DESIGN CHOICE, log entry 14) -/
opaque Config.wideDecode : Nat → List Byte → Fin 3

/-- The symbol that the decoder changes when it corrects toward another codeword (R103), by the burst's number and the pattern of errors:
256 times the lane, plus the change. (DESIGN CHOICE, log entry 14) -/
opaque Config.miscorrect : Nat → List Byte → Nat

/-- Whether a ledger entry reads as OPEN when its state symbol has been changed beyond what the code repairs (R111), by its block and the
pattern. (DESIGN CHOICE, log entry 14) -/
opaque Config.entryOpen : Nat → List Byte → Bool

/-- How many columns a GEMV instruction word covers, as far as the plot rows it names admit (R134, R206): the word itself does not
say. -/
opaque Config.gemvColumns : Nat → Nat

/-- The block sequence number that a host run expects first (R134, R205): the spec names none. (DEDUCED, log entry 28) -/
opaque Config.firstBsn : Nat

end Sys2Proof
end

