-- ==== Sys2Proof/Machine/Flags.lean ====
section
/-! DEFINITION. The codes and flags of the spec: record statuses (R91), reply flags (R90), event codes with their severities (R369),
unit kinds (R368) and the numbering of units (R13, R22). -/

namespace Sys2Proof.Machine

/-- A record's answer: status, flags, DETAIL, and the 20 bytes of RESULT (R88). -/
structure Answer where
  status : Nat
  flags : Nat
  detail : Nat
  result : List Byte
  deriving DecidableEq, Repr

/-- DONE with a RESULT. -/
def done (result : List Byte) : Answer := { status := 0, flags := 0, detail := 0, result := result }

/-- An answer with a status and DETAIL, and no RESULT. -/
def ans (status detail : Nat) : Answer := { status := status, flags := 0, detail := detail, result := [] }

/-- BAD_OPCODE. -/
def badOpcode (op : Nat) : Answer := ans 0x0101 op
/-- BAD_FIELD with the offset of the field. -/
def badField (off : Nat) : Answer := ans 0x0102 off
/-- BAD_STATE with a reason. -/
def badState (reason : Nat) : Answer := ans 0x0103 reason
/-- NO_PAGES with the pages lacking. -/
def noPages (lacking : Nat) : Answer := ans 0x0201 lacking
/-- LEASE_LOST with the resource class. -/
def leaseLost (cls : Nat) : Answer := ans 0x0204 cls
/-- ECC_UNCORRECTED. -/
def eccUncorrected (detail : Nat) : Answer := ans 0x0303 detail
/-- NOT_AUTHORISED with the offset of the field. -/
def notAuthorised (off : Nat) : Answer := ans 0x0402 off

/-- Reply flag WIDE_RERUN (R90). -/
def flagWide : Nat := 1
/-- Reply flag RAW_STORED. -/
def flagRaw : Nat := 2
/-- Reply flag STOPPED. -/
def flagStopped : Nat := 4
/-- Reply flag VOID. -/
def flagVoid : Nat := 8
/-- Reply flag NULL_BOUNDARY. -/
def flagNull : Nat := 16
/-- Reply flag LEFT_OUT. -/
def flagLeftOut : Nat := 32

/-- The severity of an event code (R369); VINE_ERROR depends on the kind in DETAIL. -/
def severityOf (code detail : Nat) : Nat :=
  if code = 0x60 then (if detail = 3 || detail = 4 || detail = 10 then 1 else 3)
  else if code ≤ 6 || code = 0x22 || code = 0x30 || code = 0x32 || code = 0x33 || code = 0x40 || code = 0x50 then 1
  else if code = 0x31 || code = 0x41 || code = 0x70 || code = 0x71 then 3
  else if code = 0x80 then 4
  else 2

/-- Stack number of pip stack k (R22). -/
def stackOfPip (k : Nat) : Nat := 4 * (k / 2) + k % 2

/-- Stack number of plain stack j (R22). -/
def stackOfPlain (j : Nat) : Nat := 4 * (j / 2) + 2 + j % 2

/-- Whether stack s is a pip stack (R22). -/
def isPipStack (s : Nat) : Bool := decide (s % 4 < 2)

/-- Pip stack index of stack s. -/
def pipOfStack (s : Nat) : Nat := 2 * (s / 4) + s % 4

/-- The first DPA of pip stack k's slot (R15, R22). -/
def pipBase (k : Nat) : Nat := 0x10000000000 + k * 0x2000000000

end Sys2Proof.Machine
end

