-- ==== Sys2Proof/Machine/StateHost.lean ====
section
/-! DEFINITION. State of the host port, the command windows, the error log, the leases and the control cores (spec 03, 04, 17, 22).
All of it is plain data. -/

namespace Sys2Proof.Machine

/-- What the module sends to the host port, in the order in which it is issued (R57, R67, R69, R75, R425). -/
inductive HostTx where
  /-- A posted write to host memory. -/
  | write (addr : Nat) (data : List Byte)
  /-- MSI-X vector v (R57). -/
  | msix (v : Nat)
  /-- The answer to a CXL.mem read: 64 bytes and the poison mark. -/
  | memData (data : List Byte) (poison : Bool)
  /-- The completion of a CXL.mem write. -/
  | memDone
  /-- The answer to a register read of size bytes. -/
  | regData (size : Nat) (v : Nat)
  /-- The answer without data to a snoop of a line (R67). -/
  | snoopResp (line : Nat)
  /-- A CXL.cache ownership request without data for the line at a DPA (R63). -/
  | rdOwn (dpa : Nat)
  /-- CXL.cache shared reads (RdShared) of n lines of host memory from an address on (R67). -/
  | rdShared (addr n : Nat)
  /-- The completion of a CXL.mem request as unsupported, while Memory_Active is 0 (R425). -/
  | memUnsupported
  /-- Configuration Request Retry Status (R425). -/
  | retryStatus
  /-- The successful completion of a configuration request. -/
  | cfgDone
  /-- What a configuration read of the CXL DVSEC answers: Memory_Active, and base and size of Range 1 and Range 2 (R60, R425). -/
  | dvsec (active : Bool) (base1 size1 base2 size2 : Nat)
  /-- An HDM decoder commit's answer: committed, or Error Not Committed (R58). -/
  | decoderAnswer (committed : Bool)
  /-- An HDM decoder is no longer committed, without an error (R58). -/
  | decoderReleased
  /-- The answer to a read of BAR2 (R56). -/
  | barData (data : List Byte)
  deriving DecidableEq, Repr

/-- A record taken and not completed (R80): its count, its 256 bytes as landed, what R88 captures at taking, and what is known
of the work done so far: progress is the number of bytes, granules, pages or members done. The count of one that outlived a reset of the
host port is 2^32 + its order, which no record of the window has. -/
structure Taken where
  n : Nat
  bytes : List Byte
  ordinal : Nat
  stamp : Nat
  /-- The sequence list of a STEP, read for the output condition of R80. -/
  list : List Nat
  /-- Output entries reserved by window (R81). -/
  reserved : List (Nat × Nat)
  /-- The record's checks of order 10 have passed and its work is in progress. -/
  started : Bool
  /-- A reset of the host port came after the record was taken: its reply is discarded (R73). -/
  orphan : Bool
  /-- The Stone core that serves the record: its window's when it was taken (R84, R97). -/
  core : Nat
  /-- The tick at which it was taken (R381, R407), and its place in the order of all takes (R83, R253). -/
  at_ : Nat
  order : Nat
  /-- The FORMED step that named the record's sequence when it was taken (R254). -/
  formed : Option Nat
  /-- What a record shows of its taking: PIP_STATUS the run's state (R147), a STEP that no output ring can ever hold the bytes that name its
  slot and window (R82), a SAMPLER_SET that its mask slot has no owner (R276), ATTEST its report (R403), PUNNET_QUERY its RESULT (R329). -/
  shown : List Byte
  progress : Nat
  deriving DecidableEq, Repr

/-- The registers and queues of one command window (R76 to R98). -/
structure Window where
  homeCore : Nat
  enable : Bool
  /-- HELD_CONFIG (R98, R381). -/
  heldConfig : Bool
  expect : Nat
  replyBase : Nat
  replyLog2 : Nat
  replyHead : Nat
  replyTail : Nat
  outBase : Nat
  outLog2 : Nat
  outHead : Nat
  outTail : Nat
  priv : Bool
  tenant : Nat
  irqDelay : Nat
  irqCount : Nat
  outEn : Bool
  replyEn : Bool
  errHead : Bool
  errConfig : Bool
  errBadWrite : Bool
  errLate : Bool
  errVoid : Bool
  /-- Slots whose landed flag is set (R79). -/
  landed : List Nat
  /-- Records taken and not completed, oldest first. -/
  taken : List Taken
  /-- Records taken and not completed when a reset of the host port cleared the window: they run on without replies (R73). -/
  orphans : List Taken
  /-- Count of the record whose FENCE_AFTER holds the window (R94). -/
  fenceAfter : Option Nat
  /-- Output-ring entries reserved and not yet written or released (R81). -/
  outReserved : Nat
  /-- The list, as last read from host memory, of a STEP in the next slot that waits for output room (R80); empty: none. -/
  outList : List Nat
  /-- Ring entries written since the last vector, and the tick of the first of them (R93). -/
  irqPending : Nat
  irqFirst : Option Nat
  deriving DecidableEq, Repr

/-- Window w at reset (R98). -/
def Window.reset (w : Nat) : Window :=
  { homeCore := w % 8, enable := false, heldConfig := false, expect := 0, replyBase := 0, replyLog2 := 0, replyHead := 0,
    replyTail := 0, outBase := 0, outLog2 := 0, outHead := 0, outTail := 0, priv := false, tenant := 0, irqDelay := 0,
    irqCount := 1, outEn := false, replyEn := false, errHead := false, errConfig := false, errBadWrite := false,
    errLate := false, errVoid := false, landed := [], taken := [], orphans := [], fenceAfter := none, outReserved := 0,
    outList := [], irqPending := 0,
    irqFirst := none }

/-- One entry of the error log (R368). -/
structure ErrEntry where
  seq : Nat
  code : Nat
  severity : Nat
  unitKind : Nat
  stamp : Nat
  addr : Nat
  detail : Nat
  unitIndex : Nat
  count : Nat
  deriving DecidableEq, Repr

/-- An entry that was never written reads as zeros (R388). -/
def ErrEntry.none : ErrEntry :=
  { seq := 0, code := 0, severity := 0, unitKind := 0, stamp := 0, addr := 0, detail := 0, unitIndex := 0, count := 0 }

/-- The error log and the fault registers (R367, R368, R388). -/
structure ErrLog where
  ring : Table ErrEntry
  tail : Nat
  head : Nat
  lost : Nat
  coalesced : Nat
  pinMask : Nat
  repairMs : Nat
  statFatal : Bool
  statUnit : Bool
  statContained : Bool
  statNotice : Bool
  deriving DecidableEq, Repr

/-- The error log at reset (R388). -/
def ErrLog.reset : ErrLog :=
  { ring := [], tail := 0, head := 0, lost := 0, coalesced := 0, pinMask := 4, repairMs := 200, statFatal := false,
    statUnit := false, statContained := false, statNotice := false }

/-- One HDM decoder (R58). -/
structure HdmDecoder where
  committed : Bool
  hpaBase : Nat
  size : Nat
  ways : Nat
  gran : Nat
  dpaSkip : Nat
  deriving DecidableEq, Repr

/-- A decoder that is not committed. -/
def HdmDecoder.reset : HdmDecoder :=
  { committed := false, hpaBase := 0, size := 0, ways := 0, gran := 0, dpaSkip := 0 }

/-- A bias command in progress (R64). -/
structure BiasCmd where
  first : Nat
  count : Nat
  toHost : Bool
  deriving DecidableEq, Repr

/-- A CXL.mem access that waits for the end of a slice (R142): its DPA, and the data and poison mark of a write. -/
structure HeldAccess where
  dpa : Nat
  write : Option (List Byte × Bool)
  deriving DecidableEq, Repr

/-- The host port (spec 03). -/
structure HostPort where
  /-- MOD_HOST_LINK. -/
  proto : Nat
  rate : Nat
  width : Nat
  cacheEn : Bool
  memEn : Bool
  downCnt : Nat
  /-- Configuration space is live from FIRMWARE on (R425, R426). -/
  configLive : Bool
  busMaster : Bool
  memSpace : Bool
  /-- The CXL DVSEC's Memory_Active (R432) and the sizes of its ranges (R60). -/
  memActive : Bool
  range1 : Nat
  range2 : Nat
  /-- AER uncorrectable status, and the uncorrectable status of the CXL RAS capability (R75). -/
  aer : Nat
  ras : Nat
  decoders : Table HdmDecoder
  biasBase : Nat
  biasLen : Nat
  biasTarget : Bool
  biasResult : Nat
  biasCmd : Option BiasCmd
  /-- Granules in host bias (R61); all others are in device bias. -/
  hostBias : List Nat
  /-- Accesses that wait for the end of a slice, oldest first (R142). -/
  held : List HeldAccess
  /-- What the module has sent to the host, oldest first. -/
  out : List HostTx
  deriving DecidableEq, Repr

/-- The host port at power-up. -/
def HostPort.reset : HostPort :=
  { proto := 0, rate := 0, width := 0, cacheEn := false, memEn := false, downCnt := 0, configLive := false,
    busMaster := false, memSpace := false, memActive := false, range1 := 0, range2 := 0, aer := 0, ras := 0, decoders := [],
    biasBase := 0, biasLen := 0, biasTarget := false, biasResult := 0, biasCmd := none, hostBias := [], held := [], out := [] }

/-- One lease of the Husk core's table (R378): its class, holder and resource, and the tick of its last recorded renewal. -/
structure Lease where
  cls : Nat
  holder : Nat
  res : Nat
  renewed : Nat
  deriving DecidableEq, Repr

/-- Stone core c (R84, R381, R446). -/
structure StoneCore where
  /-- STN_CORE_STAT.STATE: 0 OFF, 1 RUNNING, 2 RESETTING, 3 HELD, 4 RETENTION. -/
  state : Nat
  resets : Nat
  lastBeat : Nat
  /-- Ticks of its latest resets, newest first, at most three (R381). -/
  resetTimes : List Nat
  deriving DecidableEq, Repr

/-- A Stone core at power-up (R446). -/
def StoneCore.reset : StoneCore := { state := 0, resets := 0, lastBeat := 0, resetTimes := [] }

/-- A unit being reset (R383): its kind and index, the record to answer, and the records and steps ended. -/
structure UnitReset where
  kind : Nat
  index : Nat
  answer : Option (Nat × Nat)
  ended : Nat
  deriving DecidableEq, Repr

/-- The control cores, their leases and the interval counters (R378 to R383, R446). -/
structure Control where
  /-- The interval counters run (from FUSES on). -/
  running : Bool
  /-- The count of every interval counter, in ticks of 10 ns: all run from one reference clock since FUSES and none restarts. -/
  ticks : Nat
  cores : Table StoneCore
  leases : List Lease
  revoked : Nat
  revClass : Nat
  revKind : Nat
  revIndex : Nat
  unitResets : List UnitReset
  deriving DecidableEq, Repr

/-- The control cores at power-up. -/
def Control.reset : Control :=
  { running := false, ticks := 0, cores := [], leases := [], revoked := 0, revClass := 0, revKind := 0, revIndex := 0,
    unitResets := [] }

end Sys2Proof.Machine
end

