-- ==== Sys2Proof/Machine/StateEngine.lean ====
section
/-! DEFINITION. State of the Drupe and Press engines, the Zest sections, Orchard SRAM, and the models they run (spec 07, 08, 09,
10). -/

namespace Sys2Proof.Machine

/-- A Drupe engine (R153, R163, R172, R301): its phase, 0 DECODE, 1 PROMPT, 2 IDLE; the bytes that it has read from the stacks since
DRP_ENG_STAT was last read; and the bank of channel scale registers in use with the model and layer whose scales it holds. What its
measured fields read is free (log entry 13). Its other local memories hold nothing that one command leaves for another (log entry 12). -/
structure DrupeEngine where
  phase : Nat
  readBytes : Nat
  scaleBank : Nat
  scaleLayer : Option (Nat × Nat)
  deriving DecidableEq, Repr

/-- A Drupe engine at reset (R172). (DESIGN CHOICE, log entry 9) -/
def DrupeEngine.reset : DrupeEngine := { phase := 2, readBytes := 0, scaleBank := 0, scaleLayer := none }

/-- The engine starts its first row of a layer: the banks of scale registers flip, and the one now in use holds the layer's scales
(R163). -/
def DrupeEngine.beginLayer (v : DrupeEngine) (m l : Nat) : DrupeEngine :=
  if v.scaleLayer = some (m, l) then v
  else { v with scaleBank := if v.scaleLayer.isNone then v.scaleBank else 1 - v.scaleBank, scaleLayer := some (m, l) }

/-- The Drupe block (R172, R216). -/
structure Drupe where
  drupeLimit : Nat
  pipLimit : Nat
  rate : Nat
  skewExpected : Nat
  skewFound : Nat
  skewEngine : Nat
  skewCount : Nat
  skewMatrix : Nat
  skewLayer : Nat
  force : Nat
  defaultLimit : Nat
  reruns : Nat
  kvSat : Nat
  clipCause : Nat
  clipPoint : Nat
  clipModel : Nat
  clipLayer : Nat
  engines : Table DrupeEngine
  deriving DecidableEq, Repr

/-- The Drupe block at reset. -/
def Drupe.reset : Drupe :=
  { drupeLimit := 16, pipLimit := 8, rate := 22, skewExpected := 0, skewFound := 0, skewEngine := 0, skewCount := 0,
    skewMatrix := 0, skewLayer := 0, force := 0, defaultLimit := 50, reruns := 0, kvSat := 0, clipCause := 0,
    clipPoint := 0, clipModel := 0, clipLayer := 0, engines := [] }

/-- A Press instruction (R179). -/
structure PressInstr where
  op : Nat
  group : Nat
  tile : Nat
  count : Nat
  rows : Nat
  fmt : Nat
  lenLog2 : Nat
  mat : Nat
  col : Nat
  wsrc : Nat
  addr : Nat
  /-- New symbol errors that the reads of a PASS meet. -/
  errs : List SymErr
  /-- What its reads of lane words and Orchard SRAM meet (R177, R371). -/
  own : OwnReads
  deriving DecidableEq, Repr

/-- An accumulation group (R180): its tiles, its position counter and its lane words, lane l of array column j of token row q
at (q · 256 + j) · 8 + l; its spill pairs stand beside them (R183). -/
structure PressGroup where
  tile : Nat
  count : Nat
  rows : Nat
  lenLog2 : Nat
  mat : Nat
  col : Nat
  spillAddr : Nat
  /-- The model whose weights its passes read; 16 before the first (R180). -/
  model : Nat
  pos : Nat
  lanes : Table LaneAcc
  deriving DecidableEq, Repr

/-- A Press engine (R173 to R184, R196). -/
structure PressEngine where
  phase : Nat
  spills : Nat
  /-- Issue queue of 64 entries, head first. -/
  queue : List PressInstr
  /-- Open groups by number. -/
  groups : List (Nat × PressGroup)
  /-- Latched instruction of DBG_PRS_INSTR (R447), as 32 bytes. -/
  latch : List Byte
  deriving DecidableEq, Repr

/-- A Press engine at reset. (DESIGN CHOICE, log entry 9) -/
def PressEngine.reset : PressEngine :=
  { phase := 2, spills := 0, queue := [], groups := [], latch := List.replicate 32 0 }

/-- The Press block (R196). saved holds the contexts that SAVE wrote, by Orchard address (R192). -/
structure Press where
  lenLog2 : Nat
  key : Nat
  en : Bool
  faultCount : Nat
  faultLayer : Nat
  faultEngine : Nat
  faultTile : Nat
  faultGroup : Nat
  faultKind : Nat
  engines : Table PressEngine
  saved : List (Nat × PressGroup)
  deriving DecidableEq, Repr

/-- The Press block at reset. -/
def Press.reset : Press :=
  { lenLog2 := 12, key := 0, en := false, faultCount := 0, faultLayer := 0, faultEngine := 0, faultTile := 0,
    faultGroup := 0, faultKind := 0, engines := [], saved := [] }

/-- One bank of the Zest sections (R230): loaded table slots with their images and loaded program slots with their words. -/
structure ZestBank where
  tables : List (Nat × List Byte)
  programs : List (Nat × List U64)
  deriving DecidableEq, Repr

/-- A job of a section (R219, R226): its program slot and bank, its program counter, the registers of the element in flight, the
inputs, and its result once END is reached. -/
structure ZestJob where
  bank : Nat
  slot : Nat
  pc : Nat
  regs : Table F32
  result : Option F32
  deriving DecidableEq, Repr

/-- The Zest sections (R219, R230 to R233, R241). -/
structure Zest where
  current : Nat
  bank0 : ZestBank
  bank1 : ZestBank
  swaps : Nat
  /-- The TABLE_SWAP that has made the shadow bank current and waits for jobs on the old bank (R232). -/
  swapping : Option (Nat × Nat)
  /-- The job of each section. -/
  jobs : Table (Option ZestJob)
  nanOut : Nat
  infOut : Nat
  faultCount : Nat
  faultSection : Nat
  faultBank : Nat
  faultKind : Nat
  faultSlot : Nat
  faultCorr : Nat
  deriving DecidableEq, Repr

/-- An empty bank. -/
def ZestBank.empty : ZestBank := { tables := [], programs := [] }

/-- The Zest sections at power-up. -/
def Zest.reset : Zest :=
  { current := 0, bank0 := ZestBank.empty, bank1 := ZestBank.empty, swaps := 0, swapping := none, jobs := [], nanOut := 0,
    infOut := 0, faultCount := 0, faultSection := 0, faultBank := 0, faultKind := 0, faultSlot := 0, faultCorr := 0 }

/-- A layer's descriptor (R171). -/
structure LayerDesc where
  bsnFirst : List Nat
  attnScale : F32
  normEps : F32
  actFn : Nat
  clipLimit : Nat
  deriving DecidableEq, Repr

/-- Channel scales, input channels and gains of a model: what differs from the values at creation is listed (R212, R239). Scales
are keyed by (layer · 8 + matrix) · 2^20 + row, channels by (layer · 4 + point) · 2^20 + column, gains by index · 2^20 + column.
(DEDUCED, log entry 29) -/
structure ScaleSet where
  scales : Table F32
  channels : Table Channel
  gains : Table F32
  /-- Normalisation indices whose CENTRE bit is 0. -/
  plain : List Nat
  /-- How often each target has been written: matrices at layer · 8 + matrix, points from 2^16 on at layer · 4 + point, gains from
  2^17 on. A FORMED step that captured the number before the present one holds the other copy. -/
  vers : Table Nat
  deriving DecidableEq, Repr

/-- The values at creation. -/
def ScaleSet.initial : ScaleSet := { scales := [], channels := [], gains := [], plain := [], vers := [] }

/-- A model (R169 to R171, R212, R239). -/
structure Model where
  /-- 0 none, 1 PLACED, 2 READY. -/
  state : Nat
  tenant : Nat
  layers : Nat
  hidden : Nat
  ffn : Nat
  vocab : Nat
  qHeads : Nat
  kvHeads : Nat
  headDim : Nat
  wFormat : Nat
  kvFormat : Nat
  placeMode : Nat
  map : List MapEntry
  /-- Pages of weights, then of the scale area and the gain area. -/
  pages : List Nat
  descs : Table (Option LayerDesc)
  /-- The current copy of the scales and gains. -/
  scaleSet : ScaleSet
  deriving DecidableEq, Repr

/-- No model. -/
def Model.none : Model :=
  { state := 0, tenant := 0, layers := 0, hidden := 0, ffn := 0, vocab := 0, qHeads := 0, kvHeads := 0, headDim := 0,
    wFormat := 0, kvFormat := 0, placeMode := 0, map := [], pages := [], descs := [], scaleSet := ScaleSet.initial }

end Sys2Proof.Machine
end

