-- ==== Sys2Proof/Machine/StateSeq.lean ====
section
/-! DEFINITION. State of sequences, pages, the bramble index, steps, chunks, variants, masks, budgets and engine phases (spec 01,
11, 12, 13). -/

namespace Sys2Proof.Machine

/-- Sampler settings (R276). -/
structure Sampler where
  temp : F32
  topK : Nat
  topP : F32
  minP : F32
  repPen : F32
  presPen : F32
  penWindow : Nat
  seed : Nat
  drawCtr : Nat
  mask : Option Nat
  deriving DecidableEq, Repr

/-- The settings that SEQ_OPEN sets (R276). -/
def Sampler.initial : Sampler :=
  { temp := f32One, topK := 0, topP := f32One, minP := 0, repPen := f32One, presPen := 0, penWindow := 0, seed := 0,
    drawCtr := 0, mask := none }

/-- Stop settings (R278): 16 stop tokens, 0xFFFFFFFF for none; the stop sequences; MAX_NEW. -/
structure Stops where
  tokens : List Nat
  seqs : List (List Nat)
  maxNew : Nat
  deriving DecidableEq, Repr

/-- The stop settings that SEQ_OPEN sets (R278). -/
def Stops.initial : Stops := { tokens := List.replicate 16 0xFFFFFFFF, seqs := [], maxNew := 0 }

/-- One page of a page list (R245, R248): its number and its SHARED mark. -/
structure PageRef where
  page : Nat
  shared : Bool
  deriving DecidableEq, Repr

/-- An append taken and not completed (R251, R252, R460). -/
structure Append where
  w : Nat
  n : Nat
  tokens : List Nat
  /-- Steps that named the sequence and were not BOUNDED at taking. -/
  waits : List Nat
  /-- Pages reserved, by their place in the page list (R460). -/
  reserved : List (Nat × Nat)
  /-- Set when the fill begins: the LEN and pending token it met, the tokens whose entries it writes, in order of position. -/
  begun : Bool
  len0 : Nat
  pending0 : Option Nat
  stopped0 : Bool
  rows : List Nat
  /-- Rows given to chunks so far, and rows whose chunks have completed. -/
  given : Nat
  done : Nat
  /-- Pages that the append took from the pool; those that its fill keeps are counted in RESULT TAKEN. -/
  took : List Nat
  /-- Places of the page list whose shared page its fill has copied into the page reserved there (R249). -/
  copied : List Nat
  deriving DecidableEq, Repr

/-- A sequence table entry (R242). -/
structure SeqEntry where
  /-- 0 FREE, 1 READY, 2 FILLING, 3 PARKING, 4 RESUMING, 5 CANCELLED, 6 CLOSING. -/
  state : Nat
  tenant : Nat
  model : Nat
  variant : Nat
  customer : Nat
  outWindow : Nat
  maxLen : Nat
  len : Nat
  pending : Option Nat
  pages : List PageRef
  listPage : Option Nat
  stopped : Bool
  faulted : Bool
  faultPos : Nat
  sampler : Sampler
  stops : Stops
  newCnt : Nat
  /-- Token history (R272): the tokens at positions up to LEN, the pending token last when there is one. -/
  history : List Nat
  appends : List Append
  /-- Counts the openings of the entry, so that a step knows the conversation it was given (R289). -/
  gen : Nat
  deriving DecidableEq, Repr

/-- A FREE entry (R242, R266). -/
def SeqEntry.free : SeqEntry :=
  { state := 0, tenant := 0, model := 0, variant := 0, customer := 0, outWindow := 0, maxLen := 0, len := 0,
    pending := none, pages := [], listPage := none, stopped := false, faulted := false, faultPos := 0xFFFFFFFF,
    sampler := Sampler.initial, stops := Stops.initial, newCnt := 0, history := [], appends := [], gen := 0 }

/-- What a record does at its effect boundary (R37, R254, R276, R278, R283). -/
inductive BoundaryEffect where
  | cancel (q : Nat)
  | trim (q : Nat) (len token : Nat)
  | close (q : Nat)
  /-- SEQ_PARK stops the sequence (R262), and its release after the reply. -/
  | parkStart (q : Nat)
  | parkEnd (q : Nat)
  | sampler (q : Nat) (v : Sampler)
  | stops (q : Nat) (v : Stops)
  | budgetSet (first count tokens : Nat)
  | budgetWindow (en : Bool) (windowMs origin : Nat)
  /-- A model that a CXL Reset drops once the steps that it found FORMED have passed (R73). -/
  | dropModel (m : Nat)
  deriving DecidableEq, Repr

/-- A pending effect: its record, and the step whose boundary is its effect boundary; none: the module's next boundary (R254). -/
structure Pending where
  w : Nat
  n : Nat
  reply : Bool
  at_ : Option Nat
  eff : BoundaryEffect
  deriving DecidableEq, Repr

/-- A pool page in use (R245, R248): 1 KV, 2 MODEL, 3 FIRMWARE. -/
structure PoolPage where
  use : Nat
  refs : Nat
  /-- Marked for release at the next step boundary. -/
  marked : Bool
  deriving DecidableEq, Repr

/-- A free page. -/
def PoolPage.free : PoolPage := { use := 0, refs := 0, marked := false }

/-- A node of the bramble index (R259): the root it stands under, its path of tokens from the root, its page references (place in
the page list, page) and its pin count. The scope is a tenant, or none for global. -/
structure BrambleNode where
  model : Nat
  variant : Nat
  scope : Option Nat
  path : List Nat
  pages : List (Nat × Nat)
  pins : Nat
  deriving DecidableEq, Repr

/-- One slot of a FORMED step (R287, R291): what the formation captured, and the values the layers have left. -/
structure StepSlot where
  q : Nat
  gen : Nat
  outcome : Nat
  len : Nat
  token : Nat
  variant : Nat
  seed : Nat
  sampler : Sampler
  hidden : List F32
  logits : List F32
  deriving DecidableEq, Repr

/-- The settings that a step or a chunk captures when it forms or starts (R41, R166, R171, R191, R196, R212, R216). -/
structure Captured where
  descs : Table (Option LayerDesc)
  scaleSet : ScaleSet
  lenLog2 : Nat
  srEn : Bool
  srKey : Nat
  force : Nat
  defaultLimit : Nat
  pipLimit : Nat
  drupeLimit : Nat
  /-- Delivery mode PER_STEP (R279). -/
  perStep : Bool
  /-- Mask copies by slot: BITS and the image. -/
  maskVers : List (Nat × Nat)
  deriving DecidableEq, Repr

/-- No settings captured yet. -/
def Captured.none : Captured :=
  { descs := [], scaleSet := ScaleSet.initial, lenLog2 := 12, srEn := false, srKey := 0, force := 0, defaultLimit := 50,
    pipLimit := 8, drupeLimit := 16, perStep := false, maskVers := [] }

/-- A step that is not BOUNDED (R23, R286 to R294). -/
structure Step where
  id : Nat
  w : Nat
  n : Nat
  group : Nat
  model : Nat
  dest : Nat
  /-- 0 QUEUED, 1 HEADING, 2 FORMED. -/
  state : Nat
  slots : List StepSlot
  cap : Captured
  batch : Nat
  /-- Next layer to run; LAYERS is the head; LAYERS + 1 when all are done. -/
  layer : Nat
  started : Bool
  /-- Status and DETAIL of the fault that ends the step in a null boundary (R32). -/
  fault : Option (Nat × Nat)
  /-- The quarantined block the step holds for, and the layer (R375). -/
  hold : Option (Nat × Nat)
  wideLayers : Nat
  customer : Nat
  /-- What the sampling member has reported (R354). -/
  toks : Option (List SlotToken)
  deriving DecidableEq, Repr

/-- A prompt chunk in flight (R194): its token rows, each at its position with its token; a row whose outcome is no longer 13 is
carried to the end and its results discarded (R462). -/
structure Chunk where
  id : Nat
  model : Nat
  rows : List StepSlot
  cap : Captured
  /-- Next layer to run; LAYERS when all are done. -/
  layer : Nat
  /-- The quarantined block the chunk holds for, and the layer index. -/
  hold : Option (Nat × Nat)
  deriving DecidableEq, Repr

/-- One delta block of a variant (R296): its place in the weights and its 256 values. -/
structure DeltaBlock where
  layer : Nat
  mat : Nat
  row : Nat
  block : Nat
  values : List BF16
  deriving DecidableEq, Repr

/-- A resident variant (R295). (DEDUCED, log entry 29) -/
structure Variant where
  model : Nat
  tenant : Nat
  /-- Global scope. -/
  isGlobal : Bool
  pages : List Nat
  granules : List Nat
  blocks : List DeltaBlock
  deriving DecidableEq, Repr

/-- No such variant. -/
def Variant.none : Variant :=
  { model := 16, tenant := 0, isGlobal := false, pages := [], granules := [], blocks := [] }

/-- A mask slot (R275): its owner, its current copy and how often it was written. -/
structure MaskSlot where
  owner : Option Nat
  nbits : Nat
  image : List Byte
  vers : Nat
  /-- The other copy, which FORMED steps may hold. -/
  oldBits : Nat
  oldImage : List Byte
  deriving DecidableEq, Repr

/-- A slot without an owner. -/
def MaskSlot.free : MaskSlot := { owner := none, nbits := 0, image := [], vers := 0, oldBits := 0, oldImage := [] }

/-- A customer (R281). -/
structure Customer where
  budget : Nat
  spent : Nat
  window : Int
  deriving DecidableEq, Repr

/-- A customer at release: unlimited (R281). -/
def Customer.initial : Customer := { budget := 0xFFFFFFFF, spent := 0, window := 0 }

/-- Sequences, steps and what belongs to them. -/
structure Seqs where
  entries : Table SeqEntry
  effects : List Pending
  pages : Table PoolPage
  bramble : List BrambleNode
  attached : Nat
  steps : List Step
  chunks : List Chunk
  nextId : Nat
  boundaryCnt : Nat
  models : Table Model
  variants : Table Variant
  /-- Granules of dropped variants that return at the next step boundary (R299). -/
  returning : List Nat
  masks : Table MaskSlot
  customers : Table Customer
  budgetEn : Bool
  windowMs : Nat
  origin : Nat
  groupSize : Nat
  stopNoToken : Nat
  stopLength : Nat
  stopSequence : Nat
  stopToken : Nat
  heldCount : Nat
  heldCustomer : Nat
  prefetchEn : Bool
  maxInflight : Nat
  pinEn : Bool
  drupePrompt : Nat
  pressPrompt : Nat
  maxMs : Nat
  quota : Nat
  /-- The settings of MOD_ENG_BAL in force since the last edge (R305). -/
  balInForce : List Nat
  /-- A write of the pin fields makes the next step boundary an edge (R305). -/
  edgeDue : Bool
  edges : Nat
  early : Nat
  windowBoundaries : Nat
  windowStart : Nat
  deriving DecidableEq, Repr

/-- Sequences and steps at power-up. -/
def Seqs.reset : Seqs :=
  { entries := [], effects := [], pages := [], bramble := [], attached := 0, steps := [], chunks := [], nextId := 0,
    boundaryCnt := 0, models := [], variants := [], returning := [], masks := [], customers := [], budgetEn := false, windowMs := 1000,
    origin := 0, groupSize := 1, stopNoToken := 0, stopLength := 0, stopSequence := 0, stopToken := 0,
    heldCount := 0, heldCustomer := 0, prefetchEn := true, maxInflight := 2, pinEn := false, drupePrompt := 0,
    pressPrompt := 2, maxMs := 50, quota := 8, balInForce := [0, 0, 2, 50, 8], edgeDue := false, edges := 0, early := 0,
    windowBoundaries := 0, windowStart := 0 }

end Sys2Proof.Machine
end

