-- ==== Sys2Proof/Machine/StateIo.lean ====
section
/-! DEFINITION. State of the Raisin codecs, the key slots, the punnet ports and parks, and the Vine links and cascade group (spec
14, 15, 16). -/

namespace Sys2Proof.Machine

/-- One bank of a codec table slot (R314, R315): the 256 code lengths (none: empty), its generation and its references. -/
structure CodecBank where
  lens : List Nat
  gen : Nat
  refs : Nat
  deriving DecidableEq, Repr

/-- A codec table slot (R314). lastGen is the slot's last generation. -/
structure CodecSlot where
  current : Nat
  bank0 : CodecBank
  bank1 : CodecBank
  lastGen : Nat
  deriving DecidableEq, Repr

/-- A slot at release (R314). -/
def CodecSlot.reset : CodecSlot :=
  { current := 0, bank0 := { lens := [], gen := 0, refs := 0 }, bank1 := { lens := [], gen := 0, refs := 0 }, lastGen := 0 }

/-- A stream queued for a codec (R308, R315): a source to encode, or a stored block to decode. -/
structure CodecStream where
  encode : Bool
  handle : Nat
  idx : Nat
  src : List Byte
  declLen : Nat
  mode : Nat
  elem : Nat
  /-- The table slot and bank the stream is bound to. -/
  bind : Option (Nat × Nat)
  deriving DecidableEq, Repr

/-- The Raisin codecs and the encryption state (R314 to R319). -/
structure Codec where
  compressEn : Bool
  kvSlot : Nat
  declPct : Nat
  raw : Nat
  corrupt : Nat
  faultStream : Nat
  faultSlot : Nat
  faultCodec : Nat
  faultKind : Nat
  slots : Table CodecSlot
  /-- Streams waiting at each codec, first in first out. -/
  queues : Table (List CodecStream)
  /-- Key slots 1 to 1,023: tenant + 1, 0 when free (R317). -/
  keySlots : Table Nat
  /-- How often each tenant's key slot has been assigned since bring-up (R402). -/
  keyEpochs : Table Nat
  deriving DecidableEq, Repr

/-- The codecs at power-up (R319). -/
def Codec.reset : Codec :=
  { compressEn := true, kvSlot := 31, declPct := 80, raw := 0, corrupt := 0, faultStream := 0, faultSlot := 0,
    faultCodec := 0, faultKind := 0, slots := [], queues := [], keySlots := [], keyEpochs := [] }

/-- An NVMe command outstanding on a port (R320, R331): Write 1, Read 2, Flush 0, Dataset Management 9. -/
structure NvmeCmd where
  cid : Nat
  opcode : Nat
  handle : Nat
  idx : Nat
  lba : Nat
  lbas : Nat
  issued : Nat
  /-- The tick at which it was aborted (R331). -/
  aborted : Option Nat
  deriving DecidableEq, Repr

/-- A punnet port (R320 to R335). -/
structure PunPort where
  state : Nat
  width : Nat
  rate : Nat
  wear : Nat
  fingerprint : Nat
  /-- WRITTEN at the last SMART read, and the bytes written since (R329). -/
  writtenRead : Nat
  writtenSince : Nat
  rated : Nat
  /-- LBAs of namespace 1 of the bound punnet, and the most that one command may carry; 0 for no limit (R321). -/
  lbas : Nat
  mdts : Nat
  /-- The tick of the last SMART read (R329). -/
  polledAt : Nat
  /-- Stored blocks on the punnet by their first LBA. -/
  flash : Table (List Byte)
  errCount : Nat
  errStatus : Nat
  errKind : Nat
  cmds : List NvmeCmd
  nextCid : Nat
  /-- Tick of the controller's reset (R331) while it has not become ready. -/
  resetAt : Option Nat
  /-- PUNNET_RETIRE records waiting for the port, and the parks each has ended so far. -/
  retiring : List (Nat × Nat × Nat)
  deriving DecidableEq, Repr

/-- A port with no punnet (R335). -/
def PunPort.reset : PunPort :=
  { state := 0, width := 0, rate := 0, wear := 0, fingerprint := 0, writtenRead := 0, writtenSince := 0, rated := 0,
    lbas := 0, mdts := 0, polledAt := 0, flash := [], errCount := 0, errStatus := 0, errKind := 0, cmds := [], nextCid := 0, resetAt := none,
    retiring := [] }

/-- One stored block of a park (R326): its place, its size and the table bank that its header names. -/
structure ParkBlock where
  idx : Nat
  bytes : List Byte
  lba : Option Nat
  lbas : Nat
  bind : Option (Nat × Nat)
  raw : Bool
  acked : Bool
  deriving DecidableEq, Repr

/-- A directory entry (R326). saved is what the state stream holds (R262): the entry's settings and token history. -/
structure Park where
  handle : Nat
  tenant : Nat
  port : Nat
  lba : Nat
  lbas : Nat
  streams : Nat
  blocks : List ParkBlock
  deadline : Nat
  /-- 0 reserved, 1 being written, 2 Flush issued, 3 Flush complete, 4 live. -/
  state : Nat
  q : Nat
  w : Nat
  n : Nat
  ttl : Nat
  saved : SeqEntry
  /-- The sequence entry that reads the park back, if one does. -/
  reader : Option Nat
  deriving DecidableEq, Repr

/-- A resume in progress (R263): the streams decoded so far. -/
structure Resume where
  q : Nat
  handle : Nat
  w : Nat
  n : Nat
  got : List (Nat × List Byte)
  failed : Bool
  deriving DecidableEq, Repr

/-- The punnet tier (R320 to R335, R262 to R264). -/
structure Punnets where
  ports : Table PunPort
  parks : List Park
  resumes : List Resume
  nextHandle : Nat
  /-- Handles of parks that ended without a resume, answered EXPIRED (R263, R332). -/
  ended : List (Nat × Nat)
  expired : Nat
  lastScan : Nat
  deriving DecidableEq, Repr

/-- The punnet tier at power-up. -/
def Punnets.reset : Punnets :=
  { ports := [], parks := [], resumes := [], nextHandle := 1, ended := [], expired := 0, lastScan := 0 }

/-- A Vine port (R336 to R341). -/
structure VinePort where
  /-- 0 DOWN, 1 TRAINING, 2 UP, 3 DEGRADED, 4 LOOPBACK. -/
  state : Nat
  width : Nat
  peer : Option Nat
  replays : Nat
  fecCorr : Nat
  /-- FSEQ of the last frame received in order, and the next FSEQ to send. -/
  rxSeq : Nat
  txSeq : Nat
  /-- Frames sent and not acknowledged (replay buffer). -/
  unacked : Nat
  nakSent : Bool
  /-- NAKs received with no frame acknowledged between: the first starts a replay, and each later one says that it failed (R340). -/
  replayFails : Nat
  /-- Send credits and waiting frames by virtual channel (R341). -/
  credits : Table Nat
  waiting : Table Nat
  /-- Tick of the last credit by virtual channel, and of the last frame with correctable codewords. -/
  creditAt : Table Nat
  heardAt : Nat
  /-- Frames since the last IDLE frame sent (R338). -/
  sinceIdle : Nat
  /-- Tick at which a DOWN port last tried to train. -/
  triedAt : Nat
  deriving DecidableEq, Repr

/-- A Vine port at power-up (R365). -/
def VinePort.reset : VinePort :=
  { state := 0, width := 0, peer := none, replays := 0, fecCorr := 0, rxSeq := 4095, txSeq := 0, unacked := 0,
    nakSent := false, replayFails := 0, credits := [], waiting := [], creditAt := [], heardAt := 0, sinceIdle := 0,
    triedAt := 0 }

/-- A hand-off that the module sends (R344 to R346): one message for each segment, numbered by its counter. args and data are
the content that R346 names for the kind. -/
structure VineTx where
  kind : Nat
  hops : Nat
  dst : Nat
  src : Nat
  epoch : Nat
  groupId : Nat
  ctr : Nat
  seg : Nat
  last : Bool
  /-- Port it leaves by; 12 for none. -/
  port : Nat
  /-- How its block is coded: 0 RAW, 1 ZRUN at ELEM 2 (R346). -/
  mode : Nat
  args : List Nat
  data : List Byte
  deriving DecidableEq, Repr

/-- A COLLECT in progress at the stem or a member (R357). -/
structure Collect where
  w : Nat
  n : Nat
  /-- The record that it answers, at the stem. -/
  answer : Nat × Nat
  op : Nat
  members : List Nat
  root : Nat
  src : Nat
  dst : Nat
  len : Nat
  coding : Nat
  /-- This module has sent a block of it raw (R312). -/
  raw : Bool
  got : List (Nat × List Byte)
  done : List Nat
  stopped : Option Nat
  deriving DecidableEq, Repr

/-- A cascade fence at the stem (R355): who asked, and the members that have not answered. -/
structure GroupFence where
  id : Nat
  from_ : Nat
  fid : Nat
  waits : List Nat
  deriving DecidableEq, Repr

/-- A fence request at a member: answered when the records taken before it have completed. -/
structure FenceWait where
  fence : Nat
  ordinals : List (Nat × Nat)
  answered : Bool
  deriving DecidableEq, Repr

/-- A partly received hand-off (R345), with the port it comes by. -/
structure Partial where
  src : Nat
  port : Nat
  kind : Nat
  seg : Nat
  /-- The step or chunk, or the COLLECT, that it belongs to, and the layer it names. -/
  id : Nat
  layer : Nat
  data : List Byte
  deriving DecidableEq, Repr

/-- This member's share of a step or of a prompt chunk of its replica (R354), and how far its stage has come. -/
structure Share where
  id : Nat
  model : Nat
  chunk : Bool
  /-- The PLAN has arrived; hand-offs of other channels may come before it. -/
  planned : Bool
  /-- Slot numbers of the step, and what each slot brings. -/
  nums : List Nat
  slots : List StepSlot
  /-- The hidden vectors that the stage before has sent. -/
  input : Option (List (List F32))
  cap : Captured
  /-- Next layer of the stage; fin: the stage is done. -/
  layer : Nat
  fin : Bool
  wide : Nat
  /-- The present layer runs again in wide form (R215). -/
  rerun : Bool
  /-- PART hand-offs received: layer, matrix, rank and sums, in order of arrival. -/
  parts : List (Nat × Nat × Nat × List F32)
  /-- PART hand-offs sent: layer, matrix, and whether for the wide form. -/
  sent : List (Nat × Nat × Bool)
  hold : Option (Nat × Nat)
  deriving DecidableEq, Repr

/-- A PLAN that waits until the module is in ACTIVE or TRIM again (R410). -/
structure HeldPlan where
  id : Nat
  model : Nat
  chunk : Bool
  pairs : List (Nat × Nat)
  record : List Byte
  srEn : Bool
  srKey : Nat
  force : Nat
  limit : Nat
  deriving DecidableEq, Repr

/-- The cascade group and its elections (R348 to R365). -/
structure Vine where
  en : Bool
  zrunEn : Bool
  dead10us : Nat
  electMs : Nat
  leaseMs : Nat
  groupId : Nat
  /-- 0 NONE, 1 JOINING, 2 MEMBER, 3 STEM, 4 DEMOTED, 5 LEAVING. -/
  state : Nat
  wLog2 : Nat
  dM1 : Nat
  rM1 : Nat
  member : Nat
  prio : Nat
  model : Nat
  firstLayer : Nat
  layerCount : Nat
  routes : Table Nat
  epoch : Nat
  size : Nat
  elections : Nat
  stem : Nat
  errCount : Nat
  errKind : Nat
  errPort : Nat
  errMember : Nat
  ports : Table VinePort
  out : List VineTx
  msgCtr : Nat
  /-- Highest epoch seen, and the claims collected for the election in progress: member, priority, serial. -/
  seen : Nat
  electing : Option Nat
  claims : List (Nat × Nat × Nat)
  electAt : Nat
  /-- The candidate's CONFIRM: its epoch, the tick it was sent and the members that have answered. -/
  confirmAt : Option Nat
  acks : List Nat
  /-- The highest epoch whose CONFIRM this module has answered, with the members and the size that it named. -/
  acked : Nat
  /-- The candidate that was answered. -/
  ackedTo : Nat
  named : List Nat
  namedSize : Nat
  members : List Nat
  secret : List Byte
  joining : Option (Nat × Nat × Nat)
  leaving : Option (Nat × Nat)
  /-- Tick at which each member was last heard, by member id. -/
  heard : Table Nat
  stemHeard : Nat
  /-- Tick of the last LIVE sent. -/
  liveAt : Nat
  /-- Members held for a HOT stack, with the stack (R358). -/
  held : List (Nat × Nat)
  hotSent : List Nat
  coolDue : Bool
  floods : List (Nat × Nat)
  collects : List Collect
  fences : List GroupFence
  fenceWaits : List FenceWait
  partials : List Partial
  steps : List Share
  plans : List HeldPlan
  ordinal : Nat
  /-- Sequences whose next page a member could not reserve (R353). -/
  lacking : List Nat
  deriving DecidableEq, Repr

/-- The Vine links at power-up (R365). -/
def Vine.reset : Vine :=
  { en := true, zrunEn := true, dead10us := 10, electMs := 5, leaseMs := 20, groupId := 0, state := 0, wLog2 := 0, dM1 := 0,
    rM1 := 0, member := 0, prio := 0, model := 0, firstLayer := 0, layerCount := 0, routes := [], epoch := 0, size := 1,
    elections := 0, stem := 0, errCount := 0, errKind := 0, errPort := 0, errMember := 0, ports := [], out := [],
    msgCtr := 0, seen := 0, electing := none, claims := [], electAt := 0, confirmAt := none, acks := [], acked := 0, ackedTo := 0,
    named := [], namedSize := 0, members := [], secret := [], joining := none, leaving := none, heard := [], stemHeard := 0, liveAt := 0,
    held := [], hotSent := [],
    coolDue := false, floods := [], collects := [], fences := [], fenceWaits := [], partials := [], steps := [],
    plans := [], ordinal := 0, lacking := [] }

end Sys2Proof.Machine
end

