-- ==== Sys2Proof/Machine/StateMem.lean ====
section
/-! DEFINITION. State of device memory: the sixteen HBM4 stacks, their contents, symbol code, regions, ledger, mirrors and the
quarantine table (spec 05, 17, R316, R417, R418). -/

namespace Sys2Proof.Machine

/-- A module or host write that waits in a STOPPED stack's controller (R418). -/
structure WaitingWrite where
  dpa : Nat
  data : List Byte
  poison : Bool
  deriving DecidableEq, Repr

/-- One HBM4 stack (R99, R120 to R123, R130, R150, R417). -/
structure Stack where
  temp : Nat
  /-- 0 ×1, 1 ×2, 2 ×4, 3 forced self-refresh. -/
  refresh : Nat
  /-- Bit c: channel c is mapped out. -/
  chMap : Nat
  /-- Spare lanes in use on channel c, 15 mapped out (four bits each). -/
  spares : Nat
  capMib : Nat
  corr : Nat
  uncorr : Nat
  /-- 0 UNTRAINED, 1 READY, 2 DEGRADED, 3 SELF_REFRESH, 4 FAILED. -/
  state : Nat
  /-- Thermal row: 0 COOL, 1 HOT from 85 °C, 2 HOT from 90 °C, 3 HOT from 93 °C (pip stacks), 4 STOPPED. -/
  thermal : Nat
  /-- By thermal row and by refresh row: the tick since which the temperature has been 3 °C below the row's threshold. -/
  cool : Table (Option Nat)
  refreshCool : Table (Option Nat)
  /-- The highest row of a rise that waits for the next slice (R150). -/
  riseTo : Nat
  /-- The temperature at which a pip stack became HOT, until the module's next step boundary reports it (R151). -/
  hotDue : Option Nat
  /-- Channels that failed whole in service (R122). -/
  failedCh : Nat
  /-- The stack's sensors answer. -/
  sensors : Bool
  /-- In self-refresh for a power state (R418). -/
  powerSr : Bool
  waiting : List WaitingWrite
  deriving DecidableEq, Repr

/-- A stack at power-up (R130). -/
def Stack.reset : Stack :=
  { temp := 0, refresh := 0, chMap := 0, spares := 0, capMib := 0, corr := 0, uncorr := 0, state := 0, thermal := 0,
    cool := [], refreshCool := [], riseTo := 0, hotDue := none, failedCh := 0, sensors := false, powerSr := false, waiting := [] }

/-- Since when the temperature has been 3 °C below the present thermal row's threshold (R150, R417). -/
def Stack.coolSince (v : Stack) : Option Nat := tget none v.cool v.thermal

/-- Since when the temperature has been 3 °C below the present refresh row's threshold (R123). -/
def Stack.refreshSince (v : Stack) : Option Nat := tget none v.refreshCool v.refresh

/-- The weight-ledger entry of one 4 KiB block of a compute granule (R111, R112). -/
structure LedgerEntry where
  isOpen : Bool
  crc : BitVec 32
  deriving DecidableEq, Repr

/-- The entry of a block that was never made compute. -/
def LedgerEntry.none : LedgerEntry := { isOpen := false, crc := 0 }

/-- A weight-mirror pair (R125). -/
structure MirrorPair where
  primary : Nat
  length : Nat
  mirror : Nat
  deriving DecidableEq, Repr

/-- The state of a quarantined block (R377): 1 MIRROR_REPAIR, 2 AWAITING_HOST, 3 VERIFYING. -/
structure QuarEntry where
  dpa : Nat
  /-- Bit i: line i rewritten since quarantine. -/
  lines : Nat
  stamp : Nat
  detail : Nat
  variant : Nat
  state : Nat
  deriving DecidableEq, Repr

/-- A free slot of the quarantine table. -/
def QuarEntry.free : QuarEntry := { dpa := 0, lines := 0, stamp := 0, detail := 0, variant := 0, state := 0 }

/-- Device memory. -/
structure Mem where
  hbm : Table Stack
  /-- Bytes by DPA, as plaintext under the key of wkey; a byte that is not listed is 0. -/
  cells : Table Byte
  /-- Key under which each burst (DPA / 32) was last written: 0 the module key, t + 1 the key of tenant t (R316). -/
  wkey : Table Nat
  /-- The key map: the key of each pool page, by its number (R245, R316). -/
  pageKey : Table Nat
  /-- Symbols in error of stored bursts: xor patterns of lanes 0 to 35; not listed: none (R103, R104). -/
  errs : Table (List Byte)
  /-- Bursts stored as poison markers (R107). -/
  poison : List Nat
  /-- Bursts of compute granules whose last completed write by other than a pip stands in the controller's write queue, with what the arrays
  still hold (R65, R70). -/
  unlanded : Table (List Byte)
  /-- Region granules (DPA / 65,536) that are compute (R108); their fence bits are clear (R110). -/
  compute : List Nat
  /-- Ledger entry of each 4 KiB block (DPA / 4,096). -/
  ledger : Table LedgerEntry
  /-- The last 64 checked blocks of each stack controller, newest first (R113). -/
  checked : Table (List Nat)
  mirrors : List MirrorPair
  quarantine : Table QuarEntry
  suspect : Nat
  repaired : Nat
  scrubMin : Nat
  scrubSec : Nat
  scrubEn : Bool
  passes : Nat
  ledgerFail : Nat
  plainSize : Nat
  poolTotal : Nat
  xtsEn : Bool
  deriving DecidableEq, Repr

/-- Device memory at power-up: nothing is listed (R130, R319). -/
def Mem.reset : Mem :=
  { hbm := [], cells := [], wkey := [], pageKey := [], errs := [], poison := [], unlanded := [], compute := [], ledger := [], checked := [],
    mirrors := [], quarantine := [], suspect := 0, repaired := 0, scrubMin := 60, scrubSec := 60, scrubEn := true,
    passes := 0, ledgerFail := 0, plainSize := 0, poolTotal := 0, xtsEn := true }

end Sys2Proof.Machine
end

