-- ==== Sys2Proof/Machine/StatePip.lean ====
section
/-! DEFINITION. State of the pip stacks (spec 06, R213). -/

namespace Sys2Proof.Machine

/-- One pip (R132). -/
structure Pip where
  /-- Instruction store: 256 words of 64 bits. -/
  store : Table Nat
  pc : Nat
  /-- Plot rows of the current instruction that are done (R132, R140), and those that a GEMV has read. -/
  row : Nat
  buf : List Byte
  /-- The slice in which it last did plot rows, and how many (R140). -/
  slice : Nat
  used : Nat
  /-- Instructions done in this run (R144). -/
  done : Nat
  /-- A0 to A7. -/
  a : Table Nat
  l : Nat
  /-- Lane accumulators: sequence s, octet lane j at 8 · s + j. -/
  acc : Table F32
  /-- Statistics registers of octet lane j: count, mean and M2. -/
  cnt : Table F32
  mean : Table F32
  m2 : Table F32
  /-- The merged mean and variance. -/
  rowMean : F32
  rowVar : F32
  /-- Block sequence number expected next by its GEMV (R134, R205). -/
  bsn : Nat
  /-- The octet lanes of the current output row: first lane, how many (0 before a GEMV), and its sequences. -/
  laneFirst : Nat
  lanes : Nat
  nseq : Nat
  /-- Raised at END (R143). -/
  ready : Bool
  deriving DecidableEq, Repr

/-- A pip at power-up. (DESIGN CHOICE, log entry 9) -/
def Pip.reset : Pip :=
  { store := [], pc := 0, row := 0, buf := [], slice := 0, used := 0, done := 0, a := [], l := 0, acc := [],
    cnt := [], mean := [], m2 := [], rowMean := 0, rowVar := 0,
    bsn := 0, laneFirst := 0, lanes := 0, nseq := 0, ready := false }

/-- A run slot of a pip stack (R143, R147, R152). -/
structure Run where
  /-- 0 FREE, 1 HELD, 2 RUNNING, 3 REBUILD, 4 COMPLETE. -/
  state : Nat
  pipFirst : Nat
  pipCount : Nat
  entry : Nat
  aInit : Nat
  wrowFirst : Nat
  wrowCount : Nat
  gatherSlots : Nat
  sliceLimit : Nat
  outBase : Nat
  outRows : Nat
  actSrc : Nat
  actBytes : Nat
  tenant : Nat
  /-- The record that started the run; none for a firmware run. -/
  origin : Option (Nat × Nat)
  /-- Order of taking among the runs of the stack (R144). -/
  order : Nat
  faults : Nat
  faultPip : Nat
  slices : Nat
  fenceCount : Nat
  rowsOut : Nat
  replied : Bool
  deriving DecidableEq, Repr

/-- A free run slot. -/
def Run.free : Run :=
  { state := 0, pipFirst := 0, pipCount := 0, entry := 0, aInit := 0, wrowFirst := 0, wrowCount := 0, gatherSlots := 0,
    sliceLimit := 0, outBase := 0, outRows := 0, actSrc := 0, actBytes := 0, tenant := 0, origin := none, order := 0,
    faults := 0, faultPip := 0, slices := 0, fenceCount := 0, rowsOut := 0, replied := false }

/-- A row slot of the stack gatherer (R136): its run and tag, and the lane sums present, lane j of sequence s at 8 · s + j. -/
structure GatherSlot where
  run : Nat
  tag : Nat
  sums : List (Nat × F32)
  deriving DecidableEq, Repr

/-- One pip stack (R132 to R152). -/
structure PipStack where
  sliceCyc : Nat
  stepRatio : Nat
  limit : Nat
  hotCnt : Nat
  fenceCount : Nat
  fenceKind : Bool
  fenceOutside : Bool
  fencePip : Nat
  fenceRow : Nat
  rowsRc : Nat
  runs : Table Run
  /-- Runs in HELD, in the order in which their records were taken, each with its run slot. -/
  held : List (Nat × Run)
  pips : Table Pip
  /-- Activation stage, 128 KiB, and the run it belongs to (R133). -/
  stage : Table Byte
  stageOwner : Option Nat
  /-- Input column table of the current input: scale and offset of each column (R213). -/
  colScale : Table F32
  colOffset : Table F32
  gather : List GatherSlot
  /-- Step layers that have run in pips since a host run was last admitted (R144). -/
  stepRuns : Nat
  /-- A slice is in progress (R140). -/
  inSlice : Bool
  /-- Slices started, and what the present one was started with: its plot rows, and the credit (R140, R150). -/
  sliceNo : Nat
  sliceRows : Nat
  credit : Nat
  /-- Refreshes that fell due during the slice (R124). -/
  refreshDue : Nat
  deriving DecidableEq, Repr

/-- A pip stack at power-up (R152). (DESIGN CHOICE, log entry 9) -/
def PipStack.reset : PipStack :=
  { sliceCyc := 6240, stepRatio := 4, limit := 512, hotCnt := 0, fenceCount := 0, fenceKind := false,
    fenceOutside := false, fencePip := 0, fenceRow := 0, rowsRc := 0, runs := [], held := [], pips := [], stage := [],
    stageOwner := none, colScale := [], colOffset := [], gather := [], stepRuns := 0, inSlice := false, sliceNo := 0,
    sliceRows := 0, credit := 0,
    refreshDue := 0 }

/-- What run slot i shows: a run that holds the slot, or one HELD for it while the slot is FREE or COMPLETE (R143, R147). -/
def PipStack.runAt (v : PipStack) (i : Nat) : Run :=
  let r := tget Run.free v.runs i
  if r.state = 2 || r.state = 3 then r
  else match v.held.find? (fun h => h.1 == i) with
    | some h => h.2
    | none => r

/-- RESULT of PIP_RUN and PIP_STATUS (R147). (DESIGN CHOICE, log entry 51) -/
def runResult (r : Run) : List Byte :=
  natLe 1 r.state ++ natLe 1 r.faults ++ natLe 2 (if bits r.faults 0 2 = 0 && !bit r.faults 4 then 0xFFFF else r.faultPip) ++
    natLe 4 r.slices ++ natLe 4 r.fenceCount ++ natLe 4 r.rowsOut

end Sys2Proof.Machine
end

