-- ==== Sys2Proof/Machine/StateSys.lean ====
section
/-! DEFINITION. State of identity and firmware, power and heat, bring-up, the pins and the boundary-scan port (spec 02, 18, 19,
20, 23). -/

namespace Sys2Proof.Machine

/-- What a flash slot holds (R397): what the module met there at power-up, nothing after an erase, or a staged image. -/
inductive FlashSlot where
  | asFound
  | erased
  | image (bytes : List Byte)
  deriving DecidableEq, Repr

/-- A selector record (R397). -/
structure Selector where
  counter : Nat
  boot : Nat
  trial : Bool
  fallback : Option Nat
  crcOk : Bool
  deriving DecidableEq, Repr

/-- Identity, firmware and attestation (R389 to R405). -/
structure Sec where
  fusedSvn : Nat
  imageSvn : Nat
  otherState : Nat
  trial : Bool
  slot : Nat
  stageBytes : Nat
  stageVerify : Bool
  failCount : Nat
  failCode : Nat
  slotA : FlashSlot
  slotB : FlashSlot
  sel0 : Selector
  sel1 : Selector
  /-- Trial kept in the Husk core's memory for one bring-up (R400). -/
  trialSlot : Option Nat
  /-- Bring-ups so far: the boot secret (R318) and the draws of the random source depend on it. -/
  boots : Nat
  /-- The restart that FW_COMMIT SELECT in RECOVERY starts, ten milliseconds after its reply (R428). -/
  restartAt : Option Nat
  deriving DecidableEq, Repr

/-- Identity and firmware at power-up (R405). -/
def Sec.reset : Sec :=
  { fusedSvn := 0, imageSvn := 0, otherState := 0, trial := false, slot := 0, stageBytes := 0, stageVerify := false,
    failCount := 0, failCode := 0, slotA := FlashSlot.asFound, slotB := FlashSlot.asFound,
    sel0 := { counter := 1, boot := 0, trial := false, fallback := none, crcOk := true },
    sel1 := { counter := 0, boot := 0, trial := false, fallback := none, crcOk := false }, trialSlot := none, boots := 0,
    restartAt := none }

/-- Heat and voltage of one wedge (R412, R416, R419). -/
structure WedgePower where
  temp : Nat
  dieState : Nat
  thermalMv : Nat
  lowMs : Nat
  /-- Ticks since which the temperature has been 3 °C below the present row's threshold. -/
  cool : Table (Option Nat)
  /-- Tick of the thermal level's last step. -/
  steppedAt : Option Nat
  deriving DecidableEq, Repr

/-- A wedge at power-up (R419). -/
def WedgePower.reset : WedgePower :=
  { temp := 0, dieState := 0, thermalMv := 850, lowMs := 0, cool := [], steppedAt := none }

/-- Since when the hottest sensor has been 3 °C below the present die state's threshold (R416). -/
def WedgePower.coolSince (v : WedgePower) : Option Nat := tget none v.cool v.dieState


/-- Power states, the cap and the stage monitors (R46, R406 to R419). -/
structure Power where
  state : Nat
  sub : Nat
  transit : Bool
  target : Nat
  targetSub : Nat
  vset : Nat
  watts : Nat
  unmet : Bool
  capMv : Nat
  capSteppedAt : Option Nat
  /-- Since when the average has been below 95 % of WATTS. -/
  lowSince : Option Nat
  peakW : Nat
  /-- The samples of the last millisecond, newest first. -/
  samples : List Nat
  /-- Energy since release in units of 10 µW·s. -/
  energy : Nat
  wedges : Table WedgePower
  maxPs : Nat
  curPs : Nat
  /-- The POWER_SET in progress, with the tick at which it was taken. -/
  record : Option (Nat × Nat)
  takenAt : Nat
  nextEventUs : Nat
  /-- The module leaves the target on its own at this tick (R407). -/
  wakeAt : Option Nat
  /-- The descent has begun: the waits of R408 are over. -/
  descending : Bool
  deriving DecidableEq, Repr

/-- Power at power-up (R419). -/
def Power.reset : Power :=
  { state := 0, sub := 0, transit := false, target := 0, targetSub := 0, vset := 750, watts := 3200,
    unmet := false, capMv := 850, capSteppedAt := none, lowSince := none, peakW := 0, samples := [],
    energy := 0, wedges := [], maxPs := 0, curPs := 0, record := none, takenAt := 0, nextEventUs := 0, wakeAt := none,
    descending := false }

/-- The TAP instructions (R457). -/
inductive TapInstr where
  | bypass | extest | intest | clamp
  deriving DecidableEq, Repr

/-- Bring-up, the pins and the boundary-scan port (R420 to R433, R452, R457). -/
structure Boot where
  /-- MOD_STATUS.STAGE: 1 RAILS … 7 READY, 8 RECOVERY, 9 HALTED, 10 FATAL. -/
  stage : Nat
  fail : Nat
  degraded : Bool
  releaseUs : Nat
  /-- Microseconds spent in the stage that failed. -/
  stageUs : Nat
  /-- The tick at which the present stage began. -/
  stageAt : Nat
  /-- LINKS has ended, and release follows. -/
  linksDone : Bool
  pwrEn : Bool
  /-- MOD_RST_N is low: bring-up waits at the start of FUSES (R453). -/
  rstLow : Bool
  pg : Bool
  /-- The RAILS stage has started (R421). -/
  railsUp : Bool
  tap : TapInstr
  bypassBit : Bool
  tdo : Bool
  /-- Punnet ports whose PRSNT_N is low: a punnet is seated (R450). Whether PUN_w_CLK runs follows from the port's state. -/
  present : List Nat
  /-- FUSES found REFCLK_B valid (R423). -/
  clockOk : Bool
  deriving DecidableEq, Repr

/-- The pins at power-up (R433, R452). (DESIGN CHOICE, log entry 8) -/
def Boot.reset : Boot :=
  { stage := 1, fail := 0, degraded := false, releaseUs := 0, stageUs := 0, stageAt := 0, linksDone := false,
    pwrEn := false, rstLow := false, pg := false,
    railsUp := false, tap := .bypass, bypassBit := false, tdo := false, present := [], clockOk := false }

end Sys2Proof.Machine
end

