-- ==== Sys2Proof/Machine/State.lean ====
section
/-! DEFINITION. The state of the whole block as plain data, and its state at power-up. -/

namespace Sys2Proof.Machine

/-- Why the machine stops with a fault. The spec gives every command of the block an effect, in every state: there is none. -/
inductive Fault where
  deriving DecidableEq, Repr

/-- Why a command has no meaning. -/
inductive Refusal where
  /-- Raised by an arm of exec whose command has no meaning in the model yet. Safe: nothing can be proved of what follows. -/
  | notModelled (mnemonic : String)
  deriving DecidableEq, Repr

/-- The state of the block. (DESIGN CHOICE, log entry 12) -/
structure State where
  /-- Commands that wait, first in, first out. -/
  pending : List Instr
  /-- The model's own count of the free values used so far (log entry 3); no state of the spec. -/
  freeCtr : Nat
  ctl : Control
  boot : Boot
  host : HostPort
  wins : Table Window
  /-- The window served last by the round robin (R83). -/
  lastWin : Nat
  /-- The last bytes written to the command windows' apertures (R55, R56), by BAR2 offset. -/
  bar2 : Table Byte
  log : ErrLog
  mem : Mem
  pips : Table PipStack
  drupe : Drupe
  press : Press
  zest : Zest
  /-- Orchard SRAM, by address. -/
  orchard : Table Byte
  seqs : Seqs
  codec : Codec
  pun : Punnets
  vine : Vine
  sec : Sec
  pwr : Power
  deriving DecidableEq, Repr

/-- The block at power-up (R441): every register at its reset value, nothing queued, bring-up not yet started.
(DESIGN CHOICE, log entry 4, DESIGN CHOICE, log entry 7) -/
def State.reset : State :=
  { pending := [], freeCtr := 0, ctl := Control.reset, boot := Boot.reset, host := HostPort.reset, wins := [], lastWin := 15,
    bar2 := [], log := ErrLog.reset, mem := Mem.reset, pips := [], drupe := Drupe.reset, press := Press.reset,
    zest := Zest.reset, orchard := [], seqs := Seqs.reset, codec := Codec.reset, pun := Punnets.reset, vine := Vine.reset,
    sec := Sec.reset, pwr := Power.reset }

end Sys2Proof.Machine
end

