-- ==== Sys2Proof/Machine/Ops.lean ====
section
/-! DEFINITION. The shared operations on the block's state: time, the host port, the error log, the windows and their rings, replies,
and the life of a taken record (spec 03, 04, 17). -/

namespace Sys2Proof.Machine

/-! ## Parts of the state -/

/-- The state with another ctl part. -/
def State.setCtl (s : State) (v : Control) : State := { s with ctl := v }

/-- The state with another boot part. -/
def State.setBoot (s : State) (v : Boot) : State := { s with boot := v }

/-- The state with another host part. -/
def State.setHost (s : State) (v : HostPort) : State := { s with host := v }

/-- The state with another log part. -/
def State.setLog (s : State) (v : ErrLog) : State := { s with log := v }

/-- The state with another mem part. -/
def State.setMem (s : State) (v : Mem) : State := { s with mem := v }

/-- The state with another drupe part. -/
def State.setDrupe (s : State) (v : Drupe) : State := { s with drupe := v }

/-- The state with another press part. -/
def State.setPress (s : State) (v : Press) : State := { s with press := v }

/-- The state with another zest part. -/
def State.setZest (s : State) (v : Zest) : State := { s with zest := v }

/-- The state with another seqs part. -/
def State.setSeqs (s : State) (v : Seqs) : State := { s with seqs := v }

/-- The state with another codec part. -/
def State.setCodec (s : State) (v : Codec) : State := { s with codec := v }

/-- The state with another pun part. -/
def State.setPun (s : State) (v : Punnets) : State := { s with pun := v }

/-- The state with another vine part. -/
def State.setVine (s : State) (v : Vine) : State := { s with vine := v }

/-- The state with another sec part. -/
def State.setSec (s : State) (v : Sec) : State := { s with sec := v }

/-- The state with another pwr part. -/
def State.setPwr (s : State) (v : Power) : State := { s with pwr := v }

/-- Window w; an unlisted one is at its reset values. -/
def State.win (s : State) (w : Nat) : Window := tget (Window.reset w) s.wins w

/-- Window w replaced. -/
def State.setWin (s : State) (w : Nat) (v : Window) : State := { s with wins := tset (Window.reset w) s.wins w v }

/-- Window w changed by f; there are sixteen. -/
def State.modWin (s : State) (w : Nat) (f : Window → Window) : State :=
  if w < 16 then s.setWin w (f (s.win w)) else s

/-- HBM4 stack s. -/
def State.stack (s : State) (i : Nat) : Stack := tget Stack.reset s.mem.hbm i

/-- Stack i changed by f. -/
def State.modStack (s : State) (i : Nat) (f : Stack → Stack) : State :=
  s.setMem { s.mem with hbm := tmod Stack.reset s.mem.hbm i f }

/-- Pip stack k. -/
def State.pip (s : State) (k : Nat) : PipStack := tget PipStack.reset s.pips k

/-- Pip stack k changed by f. -/
def State.modPip (s : State) (k : Nat) (f : PipStack → PipStack) : State :=
  { s with pips := tmod PipStack.reset s.pips k f }

/-- Sequence entry q. -/
def State.seq (s : State) (q : Nat) : SeqEntry := tget SeqEntry.free s.seqs.entries q

/-- Sequence entry q changed by f. -/
def State.modSeq (s : State) (q : Nat) (f : SeqEntry → SeqEntry) : State :=
  s.setSeqs { s.seqs with entries := tmod SeqEntry.free s.seqs.entries q f }

/-- Model m. -/
def State.model (s : State) (m : Nat) : Model := tget Model.none s.seqs.models m

/-- Model m changed by f. -/
def State.modModel (s : State) (m : Nat) (f : Model → Model) : State :=
  s.setSeqs { s.seqs with models := tmod Model.none s.seqs.models m f }

/-- Punnet port p. -/
def State.punPort (s : State) (p : Nat) : PunPort := tget PunPort.reset s.pun.ports p

/-- Punnet port p changed by f. -/
def State.modPun (s : State) (p : Nat) (f : PunPort → PunPort) : State :=
  { s with pun := { s.pun with ports := tmod PunPort.reset s.pun.ports p f } }

/-- Vine port p. -/
def State.vinePort (s : State) (p : Nat) : VinePort := tget VinePort.reset s.vine.ports p

/-- Vine port p changed by f. -/
def State.modVinePort (s : State) (p : Nat) (f : VinePort → VinePort) : State :=
  { s with vine := { s.vine with ports := tmod VinePort.reset s.vine.ports p f } }

/-- Stone core c. -/
def State.core (s : State) (c : Nat) : StoneCore := tget StoneCore.reset s.ctl.cores c

/-- Stone core c changed by f. -/
def State.modCore (s : State) (c : Nat) (f : StoneCore → StoneCore) : State :=
  s.setCtl { s.ctl with cores := tmod StoneCore.reset s.ctl.cores c f }

/-- Wedge w's heat and voltage. -/
def State.wedge (s : State) (w : Nat) : WedgePower := tget WedgePower.reset s.pwr.wedges w

/-- Wedge w's heat and voltage changed by f. -/
def State.modWedge (s : State) (w : Nat) (f : WedgePower → WedgePower) : State :=
  { s with pwr := { s.pwr with wedges := tmod WedgePower.reset s.pwr.wedges w f } }

/-! ## Power (R406, R412) -/

/-- Entry and wake time of a sub-state in µs (R406). -/
def entryWake (state sub : Nat) : Nat × Nat :=
  match state, sub with
  | 0, _ => (0, 0)
  | 1, _ => (20, 20)
  | 2, 0 => (20, 20)
  | 2, 1 => (120, 200)
  | 2, _ => (320, 1000)
  | 3, 0 => (1320, 2000)
  | 3, _ => (3320, 10000)
  | _, _ => (3320, 10000)

/-- The level of a wedge (R412). -/
def State.level (s : State) (w : Nat) : Nat := max 650 (min (min s.pwr.vset s.pwr.capMv) (s.wedge w).thermalMv)

/-- The core rail target of a wedge in mV (R406, R412, R419, R421): 0 before the rails are up. -/
def State.railMv (s : State) (w : Nat) : Nat :=
  if !s.boot.pg then 0
  else if s.boot.stage ≠ 7 then 750
  else if s.pwr.state = 0 then s.level w
  else if s.pwr.state ≤ 2 || w = 0 then 650
  else 550

/-- Depth of a sub-state: A0, T0, D0, D1, D2, S0, S1, O0. -/
def depth (state sub : Nat) : Nat :=
  match state with
  | 0 => 0
  | 1 => 1
  | 2 => 2 + min sub 2
  | 3 => 5 + min sub 1
  | _ => 7

/-- Depth of the present sub-state and of the target. -/
def Power.depthNow (v : Power) : Nat := depth v.state v.sub
/-- Depth of the target. -/
def Power.depthTarget (v : Power) : Nat := depth v.target v.targetSub

/-- The Drupe and Press engines, the Zest sections and the Pick units have power: above D1 (R406), where every core rail stands at 650 mV or
more (R45, R46). -/
def State.enginesOn (s : State) : Bool := decide (s.boot.stage = 7) && decide (s.pwr.depthNow < 3)

/-- LOW_MS of every wedge after ms more milliseconds: those in ACTIVE with the rail below the setpoint (R419). -/
def countLow (ms : Nat) (s : State) : State :=
  (List.range 4).foldl (fun s w =>
    if s.pwr.state = 0 && decide (s.boot.stage = 7) && decide (s.railMv w < s.pwr.vset) then
      s.modWedge w (fun v => { v with lowMs := satAdd 16 v.lowMs ms })
    else s) s

/-! ## Time (R6, R47, R446) -/

/-- The interval counters' count. -/
def State.now (s : State) : Nat := s.ctl.ticks

/-- Time passes until the counters stand at t, if they run and have not passed it.
(DESIGN CHOICE, log entry 1, DESIGN CHOICE, log entry 15) -/
def State.advanceTo (s : State) (t : Nat) : State :=
  if s.ctl.running && decide (s.ctl.ticks < t) then
    let ms := t / 100000 - s.ctl.ticks / 100000
    let s := s.setCtl { s.ctl with ticks := t }
    if ms = 0 then s else countLow ms s
  else s

/-- d ticks pass, if the counters run. (DESIGN CHOICE, log entry 1) -/
def State.tick (s : State) (d : Nat) : State := s.advanceTo (s.now + d)

/-- Ticks of d microseconds. -/
def usTicks (d : Nat) : Nat := 100 * d

/-- Ticks of d milliseconds. -/
def msTicks (d : Nat) : Nat := 100000 * d

/-! ## Whether the block works -/

/-- The block is released and not FATAL or HALTED (R382, R427, R432). (DEDUCED, log entry 11) -/
def State.released (s : State) : Bool := decide (s.boot.stage = 7)

/-- The block is in RECOVERY (R428). -/
def State.recovery (s : State) : Bool := decide (s.boot.stage = 8)

/-- Records are taken and run: released, or RECOVERY. (DEDUCED, log entry 11) -/
def State.live (s : State) : Bool := s.released || s.recovery

/-- A command of the block's own units: it has its effect only after release (R382, R427).
(DESIGN CHOICE, log entry 10, DEDUCED, log entry 11) -/
def whenReleased (f : State → State) (s : State) : State := if s.released then f s else s

/-- A command of the engines: as one of the block's own units, and only while they have power (R46, R406). -/
def whenPowered (f : State → State) (s : State) : State := if s.enginesOn then f s else s

/-- A free value: the state and the value. (DESIGN CHOICE, log entry 3) -/
def State.free (s : State) : Nat × State := (Config.freeValue s.freeCtr, { s with freeCtr := s.freeCtr + 1 })

/-- A draw of the Husk core's random source. -/
def State.draw (s : State) : List Byte × State :=
  (natLe 32 (Config.randomDraw s.freeCtr).toNat, { s with freeCtr := s.freeCtr + 1 })

/-! ## The host port -/

/-- Host writes leave the module: the link is up and Bus Master Enable is set (R74), and the module is not FATAL (R382). -/
def State.hostWritable (s : State) : Bool := s.host.busMaster && decide (s.host.proto ≠ 0) && decide (s.boot.stage ≠ 10)

/-- Sends t to the host. -/
def send (t : HostTx) (s : State) : State := s.setHost { s.host with out := s.host.out ++ [t] }

/-- MSI-X vector v (R57): a posted write, discarded as R74 states. (DEDUCED, log entry 33, DESIGN CHOICE, log entry 44) -/
def msix (v : Nat) (s : State) : State := if s.hostWritable then send (.msix v) s else s

/-- Whether entry e of the log, the newest, takes the event up (R368). (DEDUCED, log entry 34) -/
def coalesces (l : ErrLog) (now code kind idx addr : Nat) : Bool :=
  let e := tget ErrEntry.none l.ring ((l.tail + 1023) % 1024)
  decide (0 < l.tail) && decide (l.head < l.tail) && e.code == code && e.unitKind == kind && e.unitIndex == idx &&
    e.addr == addr && decide (now < e.stamp + 100000)

/-- MOD_FAULT_STAT with the bit of a severity set (R388). (DEDUCED, log entry 34) -/
def markSeverity (sev : Nat) (l : ErrLog) : ErrLog :=
  { l with statFatal := l.statFatal || sev == 4, statUnit := l.statUnit || sev == 3,
           statContained := l.statContained || sev == 2, statNotice := l.statNotice || sev == 1 }

/-- An event with its code, unit kind and index, ADDR and DETAIL enters the error log (R366 to R369). (DEDUCED, log entry 34) -/
def logErr (code kind idx addr detail : Nat) (s : State) : State :=
  let sev := severityOf code detail
  let l := markSeverity sev s.log
  if coalesces l s.now code kind idx addr then
    let i := (l.tail + 1023) % 1024
    { s with log := { l with
        ring := tmod ErrEntry.none l.ring i (fun e => { e with count := min 255 (e.count + 1) }),
        coalesced := satAdd 32 l.coalesced 1 } }
  else
    let e : ErrEntry :=
      { seq := l.tail % 2 ^ 32, code := code, severity := sev, unitKind := kind, stamp := s.now, addr := addr % 2 ^ 64,
        detail := detail % 2 ^ 32, unitIndex := idx % 256, count := 1 }
    let lost := if 1024 ≤ l.tail && decide (l.head ≤ l.tail - 1024) then satAdd 32 l.lost 1 else l.lost
    msix 16 { s with log := { l with ring := tset ErrEntry.none l.ring (l.tail % 1024) e, tail := l.tail + 1, lost := lost } }

/-- A host register write with a value out of range or not allowed is ignored and logged (R369). (DEDUCED, log entry 48) -/
def logInvalid (off v : Nat) (s : State) : State := logErr 2 0 0 off (v % 2 ^ 32) s

/-- A write to host memory (R69), or its discard while the link is down or Bus Master Enable is clear (R74). -/
def hostWrite (addr : Nat) (data : List Byte) (s : State) : State :=
  if s.hostWritable then send (.write addr data) s
  else if s.boot.stage = 10 then s else logErr 6 10 0 addr 0 s

/-! ## Windows, rings and interrupts -/

/-- Whether a window's rings are well placed (R98). -/
def Window.configOk (v : Window) : Bool :=
  inRange v.replyLog2 6 16 && v.replyBase % (64 * 2 ^ v.replyLog2) == 0 &&
  inRange v.outLog2 7 20 && v.outBase % (32 * 2 ^ v.outLog2) == 0

/-- Records of a window taken and not completed (WIN_STATUS.INFLIGHT). -/
def Window.inflight (v : Window) : Nat := v.taken.length

/-- Reply entries written and not yet consumed. -/
def Window.replyUsed (v : Window) : Nat := v.replyTail - v.replyHead

/-- A free reply entry beyond those reserved for records taken (R80, R81). -/
def Window.replyRoom (v : Window) : Bool := decide (v.replyUsed + v.inflight < 2 ^ v.replyLog2)

/-- Free output entries beyond those reserved (R80, R81). -/
def Window.outRoom (v : Window) : Nat := 2 ^ v.outLog2 - (v.outTail - v.outHead) - v.outReserved

/-- Free-running counts: the count that a written 32-bit value names, at most the tail; none when it is above the tail. Once the counts have
wrapped, a value less than 2^31 behind the tail is at or below it, and any other above it. (DESIGN CHOICE, log entry 53) -/
def headCount (tail v : Nat) : Option Nat :=
  if tail < 2 ^ 32 then (if v ≤ tail then some v else none)
  else
    let d := (tail + 2 ^ 32 - v % 2 ^ 32) % 2 ^ 32
    if d < 2 ^ 31 then some (tail - d) else none

/-- The phase of entry n of a ring (R89, R92). -/
def ringPhase (n lg : Nat) : Nat := 1 - n / 2 ^ lg % 2

/-- An entry of one of window w's rings has been written: the vector is due by COUNT, or its delay starts (R93). An entry counts by its
ring's enable as it stands when the entry is written. (DESIGN CHOICE, log entry 53) -/
def ringEntry (w : Nat) (counts : Bool) (s : State) : State :=
  let v := s.win w
  if !counts then s else
  if v.irqCount ≤ v.irqPending + 1 then msix w (s.setWin w { v with irqPending := 0, irqFirst := none })
  else s.setWin w { v with irqPending := v.irqPending + 1, irqFirst := some (v.irqFirst.getD s.now) }

/-- The 64 bytes of reply n of a window (R88, R89). -/
def replyBytes (t : Taken) (void : Bool) (lg n ordinal stamp : Nat) (a : Answer) : List Byte :=
  let ph := BitVec.ofNat 8 (ringPhase n lg)
  bytesAt t.bytes 0x08 8 ++ natLe 4 t.n ++ [if void then 0xFF#8 else (t.bytes.headD 0), ph] ++ natLe 2 a.status ++
    natLe 4 a.flags ++ natLe 4 a.detail ++ natLe 8 ordinal ++ natLe 8 stamp ++ padTo 20 a.result ++ [0, 0, 0, ph]

/-- Writes the reply of a taken record with the given ordinal and stamp, and gives its reservations back (R81, R88, R90). -/
def writeReply (w : Nat) (t : Taken) (ordinal stamp : Nat) (a : Answer) (s : State) : State :=
  let v := s.win w
  let void := decide (a.flags / 8 % 2 = 1)
  let s := hostWrite (v.replyBase + 64 * (v.replyTail % 2 ^ v.replyLog2)) (replyBytes t void v.replyLog2 v.replyTail ordinal stamp a) s
  let s := s.modWin w (fun v => { v with replyTail := v.replyTail + 1 })
  ringEntry w v.replyEn s

/-- The record of window w with count n, if it is taken and not completed. Window 32 + w stands for the records of window w that outlived a
reset of the host port, and window 16 for no window. -/
def State.record (s : State) (w n : Nat) : Option Taken :=
  if w < 16 then (s.win w).taken.find? (fun t => t.n == n)
  else if w < 32 then none else (s.win (w - 32)).orphans.find? (fun t => t.n == n)

/-- The records of window w, as State.record names windows, replaced by f of them. -/
def State.modTaken (s : State) (w : Nat) (f : List Taken → List Taken) : State :=
  if w < 32 then s.modWin w (fun v => { v with taken := f v.taken })
  else s.modWin (w - 32) (fun v => { v with orphans := f v.orphans })

/-- Every record taken and not completed, with the window that names it. -/
def State.records (s : State) : List (Nat × Taken) :=
  (List.range 16).flatMap (fun w => (s.win w).orphans.map (fun t => (32 + w, t)) ++ (s.win w).taken.map (fun t => (w, t)))

/-- The record that a command for count n of window w is about, and its window: the first that outlived a reset of the host port, or the
window's own. -/
def State.called (s : State) (w n : Nat) (p : Taken → Bool) : Option (Nat × Taken) :=
  match (s.win w).orphans.find? (fun t => fld t.bytes 4 4 == n && p t) with
  | some t => some (32 + w, t)
  | none => match s.record w n with
    | some t => if p t then some (w, t) else none
    | none => none

/-- The first record for which p holds is taken out of a list. -/
def dropFirst (p : Taken → Bool) : List Taken → List Taken
  | [] => []
  | t :: ts => if p t then ts else t :: dropFirst p ts

/-- Output reservations of a record given back (R81). -/
def releaseOutput (rs : List (Nat × Nat)) (s : State) : State :=
  rs.foldl (fun s r => s.modWin r.1 (fun v => { v with outReserved := v.outReserved - r.2 })) s

/-- A fence flag or FENCE record that held its window no longer does once its record has completed (R94). -/
def dropFenceAfter (w n : Nat) (s : State) : State :=
  s.modWin w (fun v => if v.fenceAfter = some n then { v with fenceAfter := none } else v)

/-- The record (w, n) completes with an answer, ordinal and stamp as given. For one that outlived a reset of the host port nothing is
written (R73). -/
def completeAt (w n ordinal stamp : Nat) (a : Answer) (s : State) : State :=
  match s.record w n with
  | none => s
  | some t =>
    let s := s.modTaken w (dropFirst (fun u => u == t))
    let s := if t.orphan then s else releaseOutput t.reserved s
    let s := dropFenceAfter w n s
    if t.orphan then s else writeReply w t ordinal stamp a s

/-- The record (w, n) completes; ORDINAL and STAMP are those captured when it was taken (R88). A STEP that reaches no boundary, because it is
void, rejected or withdrawn, carries these too. (DESIGN CHOICE, log entry 53) -/
def complete (w n : Nat) (a : Answer) (s : State) : State :=
  match s.record w n with
  | none => s
  | some t => completeAt w n t.ordinal t.stamp a s

/-- The record's entry in its window changed by f. -/
def modRecord (w n : Nat) (f : Taken → Taken) (s : State) : State :=
  match s.record w n with
  | none => s
  | some t => s.modTaken w (mapIf (fun u => u == t) f)

/-- One 32-byte entry into window w's output ring: 31 bytes and the phase (R92). -/
def outEntry (w : Nat) (data : List Byte) (s : State) : State :=
  if 16 ≤ w then s else
  let v := s.win w
  let s := hostWrite (v.outBase + 32 * (v.outTail % 2 ^ v.outLog2))
    (padTo 31 data ++ [BitVec.ofNat 8 (ringPhase v.outTail v.outLog2)]) s
  let s := s.modWin w (fun v => { v with outTail := v.outTail + 1 })
  ringEntry w v.outEn s

/-! ## The life of a record -/

/-- OPCODE of a record. -/
def Taken.opcode (t : Taken) : Nat := fld t.bytes 0 1

/-- TENANT of a record. -/
def Taken.tenant (t : Taken) : Nat := fld t.bytes 0x10 2

/-- The field of a record at an offset. -/
def Taken.at (t : Taken) (off size : Nat) : Nat := fld t.bytes off size

/-- Records of the control family and QUERY run in every power state; every other record waits until the module is in ACTIVE or
TRIM (R408). SEQ_TRIM is taken to its boundary in every state (R437, C13). -/
def State.recordRuns (s : State) (op : Nat) : Bool := decide (op ≤ 7) || decide (s.pwr.state ≤ 1) || op == 0x36

/-- A unit of a kind is not in reset (R383). -/
def State.unitUp (s : State) (kind index : Nat) : Bool := !s.ctl.unitResets.any (fun r => r.kind == kind && r.index == index)

/-- No unit of the kinds is in reset. -/
def State.kindsUp (s : State) (kinds : List Nat) : Bool := !s.ctl.unitResets.any (fun r => kinds.contains r.kind)

/-- New work starts: no descent has been commanded (R408). -/
def State.workStarts (s : State) : Bool := s.released && decide (s.pwr.state ≤ 1) && decide (s.pwr.target ≤ 1)

/-- Runs the meaning of a record's command: the record (w, n) must be taken, not yet started and of the opcode; f receives the
record and the window number under which it replies. A command whose record is not there has no effect. -/
def onRecord (op w n : Nat) (p : Taken → Bool) (f : Nat → Taken → State → State) (s : State) : State :=
  if !(s.live && s.recordRuns op) then s else
  match s.called w n (fun t => t.opcode == op && !t.started && p t) with
  | none => s
  | some (w, t) => f w t s

/-- As onRecord, for a record without a further condition. -/
def onOp (op w n : Nat) (f : Nat → Taken → State → State) (s : State) : State := onRecord op w n (fun _ => true) f s

/-- Marks a record as being worked on. -/
def startRecord (w n : Nat) (s : State) : State := modRecord w n (fun t => { t with started := true }) s

/-- Answers by the first check that fails; f runs when none does (order 10 of R85). -/
def firstFail (checks : List (Bool × Answer)) : Option Answer :=
  match checks.find? (fun c => !c.1) with
  | some c => some c.2
  | none => none

/-- Completes with the first failing check's answer, or goes on. -/
def checked (w n : Nat) (checks : List (Bool × Answer)) (go : State → State) (s : State) : State :=
  match firstFail checks with
  | some a => complete w n a s
  | none => go s

end Sys2Proof.Machine
end

