-- ==== Sys2Proof/Machine/Report.lean ====
section
/-! DEFINITION. What an attestation report measures: fuses, the running image, the Zest and codec banks, the windows' tenants, and the
report itself (R402, R403). -/

namespace Sys2Proof.Machine

/-! ## Flash and image (R394, R397) -/

/-- The four words of MOD_ID (R445). -/
def modIdWord (i : Nat) : Nat :=
  match i with
  | 0 => 0xB000001600
  | 1 => Config.serial.toNat
  | 2 => Config.options.toNat
  | _ => 0

/-- The image digest: SHA-512 of header bytes 0x000 to 0xFBF (R394). -/
def imageDigest (im : List Byte) : List Byte := sha512 (im.take 0xFC0)

/-- What a flash slot holds. -/
def State.flash (s : State) (slot : Nat) : List Byte :=
  match if slot = 0 then s.sec.slotA else s.sec.slotB with
  | .asFound => Config.flashFound slot
  | .erased => []
  | .image b => b

/-- The image in a slot: the LENGTH bytes that its header gives. -/
def State.imageIn (s : State) (slot : Nat) : List Byte := (s.flash slot).take (fld (s.flash slot) 8 4)

/-- The image of the running slot. -/
def State.runningImage (s : State) : List Byte := s.imageIn s.sec.slot

/-! ## Banks, windows and key slots (R230, R317, R402) -/

/-- Bank b of the Zest sections. -/
def State.zbank (s : State) (b : Nat) : ZestBank := if b = 0 then s.zest.bank0 else s.zest.bank1

/-- Codec table slot i. -/
def State.codecSlot (s : State) (i : Nat) : CodecSlot := tget CodecSlot.reset s.codec.slots i

/-- Bank b of a codec table slot. -/
def CodecSlot.bank (c : CodecSlot) (b : Nat) : CodecBank := if b = 0 then c.bank0 else c.bank1

/-- The key of tenant tn in the key map. (DESIGN CHOICE, log entry 30) -/
def tenantKey (tn : Nat) : Nat := tn + 1

/-- WIN_TENANT of a window (R98). -/
def Window.tenantWord (v : Window) : Nat := packed [(31, 1, b2n v.priv), (0, 16, v.tenant)]

/-- Bytes over which ZEST_DIGEST is taken: 16 table slots and 32 program slots of the current bank (R230). -/
def State.zestBytes (s : State) : List Byte :=
  let b := s.zbank s.zest.current
  (List.range 16).flatMap (fun i => padTo 3136 (((b.tables.find? (fun t => t.1 == i)).map (·.2)).getD [])) ++
  (List.range 32).flatMap (fun i =>
    padTo 256 ((((b.programs.find? (fun t => t.1 == i)).map (·.2)).getD []).flatMap (fun x => natLe 8 x.toNat)))

/-- Bytes over which CODEC_DIGEST is taken: the current banks of slots 0 to 15. -/
def State.codecBytes (s : State) : List Byte :=
  (List.range 16).flatMap (fun i =>
    let b := (s.codecSlot i).bank (s.codecSlot i).current
    if b.lens.isEmpty then natLe 258 0 else natLe 2 b.gen ++ padTo 256 (b.lens.map (fun l => BitVec.ofNat 8 l)))

/-- Bytes over which WINDOW_DIGEST is taken: WIN_TENANT of every window. -/
def State.tenantBytes (s : State) : List Byte :=
  (List.range 16).flatMap (fun w => natLe 4 (s.win w).tenantWord)

/-- Bytes over which FUSE_DIGEST is taken: SERIAL, ROOT_HASH, SVN and OPTIONS fuses. -/
def State.fuseBytes (s : State) : List Byte :=
  natLe 8 Config.serial.toNat ++ natLe 64 Config.rootHash.toNat ++ natLe 8 (2 ^ s.sec.fusedSvn - 1) ++ natLe 8 Config.options.toNat

/-- The key slot that a tenant holds, or 0 (R402). -/
def State.keySlotOf (s : State) (tn : Nat) : Nat :=
  ((s.codec.keySlots.find? (fun e => e.2 == tenantKey tn)).map (·.1)).getD 0

/-- The report that the ATTEST record of the given bytes asks for, without its signature, as the state stands when the record is taken
(R402, R403). -/
def State.report (s : State) (b : List Byte) : List Byte :=
  let tn := fld b 0x10 2
  natLe 2 0x4154 ++ natLe 1 1 ++ natLe 1 (fld b 0x20 1) ++ natLe 2 tn ++
  natLe 2 (b2n (s.host.proto == 1) + 2 * b2n s.sec.trial + 4 * b2n s.mem.xtsEn) ++
  natLe 8 Config.serial.toNat ++ natLe 4 (modIdWord 0 % 2 ^ 32) ++ natLe 1 0xB0 ++ natLe 1 s.sec.fusedSvn ++
  natLe 1 s.sec.imageSvn ++ natLe 1 s.sec.slot ++ natLe 8 s.seqs.boundaryCnt ++ natLe 8 s.now ++
  natLe 4 (tget 0 s.codec.keyEpochs tn) ++ natLe 2 (s.keySlotOf tn) ++ natLe 2 0 ++ bytesAt b 0x28 32 ++
  sha512 s.fuseBytes ++ imageDigest s.runningImage ++ sha512 s.zestBytes ++ sha512 s.codecBytes ++ sha512 s.tenantBytes ++
  natLe 48 0

end Sys2Proof.Machine
end

