-- ==== Sys2Proof/Machine/Memory.lean ====
section
/-! DEFINITION. Device memory: the address fold, the read paths with the symbol code and the weight ledger, writes with their
mirrors and rewrite marks, poison, and the quarantine of model blocks (spec 05, 14, 17). -/

namespace Sys2Proof.Machine

/-! ## The address fold (R59, R100 to R102) -/

/-- In-service channels of plain stack j. -/
def State.plainChannels (s : State) (j : Nat) : Nat := 32 - popCount 32 (s.stack (stackOfPlain j)).chMap

/-- Granules of 4 KiB of each plain stack (R100). -/
def State.plainCaps (s : State) : List Nat := (List.range 8).map (fun j => s.plainChannels j * 1048576)

/-- The zones of R100: granule g, the first granule of the zone, the granules per stack used by earlier zones. -/
def foldZones (cap : List Nat) (g : Nat) : Nat → Nat → Nat → Option (Nat × Nat)
  | 0, _, _ => none
  | n + 1, base, used =>
    let js := (List.range 8).filter (fun j => decide (used < (cap[j]?).getD 0))
    match js with
    | [] => none
    | j0 :: _ =>
      let lvl := js.foldl (fun m j => min m ((cap[j]?).getD 0)) ((cap[j0]?).getD 0)
      let span := js.length * (lvl - used)
      if g < base + span then
        some ((js[(g - base) % js.length]?).getD 0, used + (g - base) / js.length)
      else foldZones cap g n (base + span) lvl

/-- The first granule of the zone that holds granule g (R100). -/
def zoneBase (cap : List Nat) (g : Nat) : Nat → Nat → Nat → Nat
  | 0, base, _ => base
  | n + 1, base, used =>
    let js := (List.range 8).filter (fun j => decide (used < (cap[j]?).getD 0))
    match js with
    | [] => base
    | j0 :: _ =>
      let lvl := js.foldl (fun m j => min m ((cap[j]?).getD 0)) ((cap[j0]?).getD 0)
      let span := js.length * (lvl - used)
      if g < base + span then base else zoneBase cap g n (base + span) lvl

/-- The zone of the plain fold that holds a DPA. -/
def State.zoneOf (s : State) (dpa : Nat) : Nat := zoneBase s.plainCaps (dpa / 4096) 9 0 0

/-- The t-th channel in service of a stack, ascending. -/
def nthChannel (map t : Nat) : Nat := (((List.range 32).filter (fun c => !bit map c))[t]?).getD 0

/-- Where a burst lies in its stack: in a plain stack by R101, in a pip stack by R102. -/
inductive Place where
  /-- Channel, pseudo-channel half, bank group, bank, row and column of a plain stack's burst. -/
  | plain (stack channel half group bank row column : Nat)
  /-- Pip stack, pip, core die, channel, half, bank pair of that half on that die, plot row, bank of the pair and column. -/
  | pip (k pip die channel half pair prow side column : Nat)
  deriving DecidableEq, Repr

/-- The stack of a place. -/
def Place.stack : Place → Nat
  | .plain s _ _ _ _ _ _ => s
  | .pip k _ _ _ _ _ _ _ _ => stackOfPip k

/-- The channel of a place. -/
def Place.channel : Place → Nat
  | .plain _ c _ _ _ _ _ => c
  | .pip _ _ _ c _ _ _ _ _ => c

/-- The pseudo-channel of a place within its stack: 2 · c + h (R99). -/
def Place.pseudoChannel : Place → Nat
  | .plain _ c h _ _ _ _ => 2 * c + h
  | .pip _ _ _ c h _ _ _ _ => 2 * c + h

/-- The place of stack-local address l in plain stack j (R101). -/
def State.plainPlace (s : State) (j l : Nat) : Place :=
  let n := s.plainChannels j
  let x := l / 256
  let b := l / 32 % 8
  let a := x / n * 128 + b / 2 * 32 + l % 32
  .plain (stackOfPlain j) (nthChannel (s.stack (stackOfPlain j)).chMap (x % n)) (b % 2) (a / 1024 % 4) (a / 4096 % 4) (a / 16384)
    (a / 32 % 32)

/-- The place of offset w in the slot of pip stack k (R102). -/
def pipPlace (k w : Nat) : Place :=
  let p := w / 2 ^ 26
  let e := p % 128
  let r := w % 2 ^ 26
  .pip k p (p / 128) (e / 4) (e / 2 % 2) (e % 2) (r / 2048) (r / 1024 % 2) (r / 32 % 32)

/-- The place that holds a DPA; none for a hole. -/
def State.place (s : State) (dpa : Nat) : Option Place :=
  if dpa < 0x10000000000 then (foldZones s.plainCaps (dpa / 4096) 9 0 0).map (fun z => s.plainPlace z.1 (z.2 * 4096 + dpa % 4096))
  else if dpa < 0x20000000000 then
    let o := dpa - 0x10000000000
    let k := o / 2 ^ 37
    let w := o % 2 ^ 37
    let p := pipPlace k w
    if 0x1800000000 ≤ w || bit (s.stack (stackOfPip k)).chMap p.channel then none else some p
  else none

/-- The stack and channel that hold a DPA; none for a hole. -/
def State.fold (s : State) (dpa : Nat) : Option (Nat × Nat) := (s.place dpa).map (fun p => (p.stack, p.channel))

/-- The inverse of the zones: the granule of the plain range that granule q of plain stack j holds. -/
def unfoldZones (cap : List Nat) (j q : Nat) : Nat → Nat → Nat → Nat
  | 0, base, _ => base
  | n + 1, base, used =>
    let js := (List.range 8).filter (fun i => decide (used < (cap[i]?).getD 0))
    match js with
    | [] => base
    | j0 :: _ =>
      let lvl := js.foldl (fun m i => min m ((cap[i]?).getD 0)) ((cap[j0]?).getD 0)
      if q < lvl then base + (q - used) * js.length + js.idxOf j
      else unfoldZones cap j q n (base + js.length * (lvl - used)) lvl

/-- The pool page that holds a DPA of the plain range (R245). -/
def State.poolPage (s : State) (dpa : Nat) : Option Nat :=
  if dpa < 0x10000000000 then (foldZones s.plainCaps (dpa / 4096) 9 0 0).map (fun p => p.1 * 65536 + p.2 / 512) else none

/-- The DPA of byte x of pool page p (R245). -/
def State.pageDpa (s : State) (p x : Nat) : Nat :=
  4096 * unfoldZones s.plainCaps (p / 65536) (512 * (p % 65536) + x / 4096) 9 0 0 + x % 4096

/-- Whether a DPA holds no memory. -/
def State.hole (s : State) (dpa : Nat) : Bool := (s.fold dpa).isNone

/-- Whether a range holds memory throughout, judged at its 4 KiB granules and its ends. -/
def State.solid (s : State) (a n : Nat) : Bool :=
  (List.range (ceilDiv (a % 4096 + n) 4096)).all (fun i => !s.hole ((a / 4096 + i) * 4096))

/-- The stack number of a DPA; 0 in a hole. -/
def State.stackOf (s : State) (dpa : Nat) : Nat := ((s.fold dpa).map (·.1)).getD 0

/-- Whether an address lies in a compute granule (R108). -/
def State.isCompute (s : State) (dpa : Nat) : Bool := s.mem.compute.contains (dpa / 65536)

/-- Whether the stack of an address is in forced self-refresh (R418). -/
def State.stopped (s : State) (dpa : Nat) : Bool := (s.stack (s.stackOf dpa)).thermal == 4

/-! ## Bank pairs closed by a slice (R142, R144) -/

/-- The DPA of plot row r of pip p of pip stack k: rows are counted modulo 32,768. -/
def plotRow (k p r : Nat) : Nat := pipBase k + p * 0x4000000 + r % 32768 * 2048

/-- Pip p of pip stack k. -/
def State.pipUnit (s : State) (k p : Nat) : Pip := tget Pip.reset (s.pip k).pips p

/-- The RUNNING run of pip p (R145: runs never share a pip). -/
def PipStack.runOf (v : PipStack) (p : Nat) : Option (Nat × Run) :=
  v.runs.find? (fun e => e.2.state == 2 && decide (e.2.pipFirst ≤ p) && decide (p < e.2.pipFirst + e.2.pipCount))

/-- Pips that the RUNNING runs of a stack hold. -/
def PipStack.pipsHeld (v : PipStack) : Nat := ((v.runs.filter (fun e => e.2.state == 2)).map (·.2.pipCount)).sum

/-- The pips of RUNNING runs below pip p. -/
def PipStack.pipsBelow (v : PipStack) (p : Nat) : Nat :=
  ((v.runs.filter (fun e => e.2.state == 2)).map (fun e => min e.2.pipCount (p - e.2.pipFirst))).sum

/-- A pip of a RUNNING run is active in the present slice (R144): every one is while the credit that the slice started with covers them
all; after a cut they run in groups of the allowed size in ascending pip order, one group a slice. (DESIGN CHOICE, log entry 51) -/
def PipStack.active (v : PipStack) (p : Nat) : Bool :=
  if v.pipsHeld ≤ v.credit then true
  else if v.credit = 0 then false
  else v.pipsBelow p / v.credit == v.sliceNo % ceilDiv v.pipsHeld v.credit

/-- The bank pair of pip p of stack k is closed to every other access: the pip computes in the slice in progress (R142). -/
def State.pipClosed (s : State) (k p : Nat) : Bool :=
  let v := s.pip k
  s.released && v.inSlice && (v.runOf p).isSome && v.active p && !(s.pipUnit k p).ready

/-- The bank pair that holds a DPA is closed. -/
def State.closedAt (s : State) (dpa : Nat) : Bool :=
  match s.place dpa with
  | some (.pip k p _ _ _ _ _ _ _) => s.pipClosed k p
  | _ => false

/-- A bank pair that a range touches is closed. -/
def State.closedIn (s : State) (a n : Nat) : Bool :=
  (List.range 8).any (fun k => (s.pip k).inSlice && (s.pip k).runs.any (fun e => e.2.state == 2 &&
    (List.range e.2.pipCount).any (fun j =>
      overlaps (plotRow k (e.2.pipFirst + j) 0) 0x4000000 a n && s.pipClosed k (e.2.pipFirst + j))))

/-- A slice is in progress on some stack. -/
def State.slicing (s : State) : Bool := (List.range 8).any (fun k => (s.pip k).inSlice)

/-! ## Shapes (spec 07, R209) -/

/-- Rows and columns of matrix mat. -/
def Model.matRows (m : Model) (mat : Nat) : Nat :=
  match mat with
  | 0 => m.qHeads * m.headDim
  | 1 | 2 => m.kvHeads * m.headDim
  | 3 | 6 => m.hidden
  | 4 | 5 => m.ffn
  | _ => m.vocab

/-- Columns of matrix mat. -/
def Model.matCols (m : Model) (mat : Nat) : Nat :=
  match mat with
  | 3 => m.qHeads * m.headDim
  | 6 => m.ffn
  | _ => m.hidden

/-- Width of a narrowing point. -/
def Model.pointWidth (m : Model) (p : Nat) : Nat :=
  match p with
  | 1 => m.qHeads * m.headDim
  | 3 => m.ffn
  | _ => m.hidden

/-- Pages of the scale area of a model whose map is given (R212). -/
def Model.scalePageCount (m : Model) : Nat :=
  let rows := (m.map.map (·.rowCount)).sum
  let widths := m.layers * ((List.range 4).map m.pointWidth).sum + m.pointWidth 0
  ceilDiv (2 * (4 * rows + 12 * widths)) 2097152

/-- Pages of the gain area of a model (R239). -/
def Model.gainPageCount (m : Model) : Nat := ceilDiv (8 * (2 * m.layers + 1) * m.hidden) 2097152

/-- Pages of the gain area, the last of a model's pages, and those of the scale area before them. -/
def Model.gainPages (m : Model) : List Nat := m.pages.drop (m.pages.length - m.gainPageCount)

/-- Pages of the scale area. -/
def Model.scalePages (m : Model) : List Nat :=
  (m.pages.drop (m.pages.length - m.gainPageCount - m.scalePageCount)).take m.scalePageCount

/-! ## Model blocks (R372, R369) -/

/-- Rows of piece i of a map entry lie at codeDpa + i · pieceStride; the bytes of its codes and of its records. -/
def mapHolds (e : MapEntry) (a : Nat) : Option Nat :=
  if e.codeDpa ≤ a && decide (a < e.codeDpa + e.rowCount * max e.rowStride e.pieceStride) then some 0
  else if e.recDpa ≤ a && decide (a < e.recDpa + e.rowCount * max e.recStride e.recPieceStride) then some 1 else none

/-- The address in the primary that an address of a mirror stands for; any other address itself (R125). -/
def State.primaryOf (s : State) (a : Nat) : Nat :=
  match s.mem.mirrors.find? (fun p => decide (p.mirror ≤ a) && decide (a < p.mirror + p.length)) with
  | some p => p.primary + (a - p.mirror)
  | none => a

/-- The model block that holds an address (in a mirror: the block that it mirrors): the model-block encoding of R369 and the variant; none for other data. -/
def State.modelBlock (s : State) (a : Nat) : Option (Nat × Nat) :=
  let a := s.primaryOf a
  let enc := fun layer kind mat m => layer * 65536 + kind * 4096 + mat * 256 + m
  let page := s.poolPage a
  let inPages := fun (l : List Nat) => match page with | some p => l.contains p | none => false
  let inMap := (s.seqs.models.filterMap (fun p =>
    if p.2.state = 0 then none else
    p.2.map.findSome? (fun e => (mapHolds e (a / 4096 * 4096)).orElse (fun _ => mapHolds e a) |>.map (fun k => (enc e.layer k e.mat p.1, 0)))))
  let inVar := s.seqs.variants.filterMap (fun p =>
    if inPages p.2.pages || p.2.granules.contains (a / 65536)
    then some (enc ((p.2.blocks.head?.map (·.layer)).getD 0) 4 ((p.2.blocks.head?.map (·.mat)).getD 0) p.2.model, p.1) else none)
  let inArea := s.seqs.models.filterMap (fun p =>
    if inPages p.2.scalePages then some (enc 0 2 0 p.1, 0)
    else if inPages p.2.gainPages then some (enc 0 3 0 p.1, 0) else none)
  match inMap ++ inVar ++ inArea with
  | x :: _ => some x
  | [] => none

/-- The quarantine slot of a block, if it is quarantined. -/
def State.quarSlot (s : State) (block : Nat) : Option (Nat × QuarEntry) :=
  s.mem.quarantine.find? (fun e => e.2.dpa == block * 4096 && e.2.state != 0)

/-- Slot i of the quarantine table replaced. -/
def State.setQuar (s : State) (i : Nat) (e : QuarEntry) : State :=
  s.setMem { s.mem with quarantine := tset QuarEntry.free s.mem.quarantine i e }

/-- The ledger entry of a block. -/
def State.entryOf (s : State) (block : Nat) : LedgerEntry := tget LedgerEntry.none s.mem.ledger block

/-- The ledger entry of a block replaced. -/
def State.setEntry (s : State) (block : Nat) (e : LedgerEntry) : State :=
  s.setMem { s.mem with ledger := tset LedgerEntry.none s.mem.ledger block e }

/-- The mirror pair whose primary holds an address. -/
def State.mirrorPair (s : State) (a : Nat) : Option MirrorPair :=
  s.mem.mirrors.find? (fun p => decide (p.primary ≤ a) && decide (a < p.primary + p.length))

/-- Whether an address lies in a mirror. -/
def State.inMirror (s : State) (a : Nat) : Bool :=
  s.mem.mirrors.any (fun p => decide (p.mirror ≤ a) && decide (a < p.mirror + p.length))

/-- A model block is quarantined, or its model becomes suspect when the table is full (R372, R376). -/
def quarantine (block : Nat) (s : State) : State :=
  match s.modelBlock (block * 4096) with
  | none => s
  | some (detail, variant) =>
    if (s.quarSlot block).isSome then s else
    let st := s.stackOf (block * 4096)
    match findBelow 4096 (fun i => (tget QuarEntry.free s.mem.quarantine i).state == 0) with
    | none =>
      let m := detail % 16
      if bit s.mem.suspect m then s
      else logErr 0x24 9 st (block * 4096) m
        (s.setMem { s.mem with suspect := setBit s.mem.suspect m true })
    | some i =>
      let mirrored := (s.mirrorPair (block * 4096)).isSome
      let e : QuarEntry :=
        { dpa := block * 4096, lines := 0, stamp := s.now, detail := detail, variant := variant,
          state := if mirrored then 1 else 2 }
      let s := s.setQuar i e
      let s := logErr 0x20 9 st (block * 4096) detail s
      if mirrored then s else logErr 0x21 9 st (block * 4096) detail s

/-- A block's quarantine ends; how is the DETAIL of QUARANTINE_CLEAR (R369). -/
def clearQuarantine (block how : Nat) (s : State) : State :=
  match s.quarSlot block with
  | none => s
  | some (i, _) =>
    logErr 0x22 9 (s.stackOf (block * 4096)) (block * 4096) how
      ((s.setQuar i QuarEntry.free).setMem { (s.setQuar i QuarEntry.free).mem with repaired := satAdd 16 s.mem.repaired 1 })

/-! ## Reading -/

/-- The stored error pattern of a burst. (DESIGN CHOICE, log entry 44) -/
def State.errsOf (s : State) (b : Nat) : List Byte := tget [] s.mem.errs b

/-- New physical errors on stored bursts (R104). (DESIGN CHOICE, log entry 44) -/
def addErrs (errs : List SymErr) (s : State) : State :=
  errs.foldl (fun s e =>
    let p := padTo 36 (s.errsOf e.burst)
    let p := lset p e.lane (((p[e.lane]?).getD 0) ^^^ e.pattern)
    let p := if p.all (· == 0) then [] else p
    s.setMem { s.mem with errs := tset [] s.mem.errs e.burst p }) s

/-- The key under which protected memory at an address is read and written (R316): 0 the module key, t + 1 tenant t's. -/
def State.keyAt (s : State) (dpa : Nat) : Nat :=
  match s.poolPage dpa with
  | some p => tget 0 s.mem.pageKey p
  | none => 0

/-- The 32 bytes of a burst as last written. -/
def State.rawBurst (s : State) (b : Nat) : List Byte := tslice 0 s.mem.cells (32 * b) 32

/-- The plaintext of a burst without errors: under its present key (R316). (PRESUMED, log entry 6) -/
def State.plainBurst (s : State) (b : Nat) : List Byte :=
  let d := s.rawBurst b
  let wk := tget 0 s.mem.wkey b
  let rk := s.keyAt (32 * b)
  if !s.mem.xtsEn || s.isCompute (32 * b) || wk = rk then d
  else (List.range 32).map (fun i => Config.unrelatedByte s.sec.boots wk rk b d i)

/-- A pattern of symbol errors after the decoder has corrected toward another codeword of so many symbols: one symbol changes further. -/
def miscorrected (lanes b : Nat) (p : List Byte) : List Byte :=
  let x := Config.miscorrect b p
  let i := x / 256 % lanes
  lset p i (((p[i]?).getD 0) ^^^ BitVec.ofNat 8 x)

/-- The bytes that a burst changed by a pattern gives when it passes the decoder: those stored where no data lane has changed. -/
def State.alteredBurst (s : State) (b : Nat) (p : List Byte) : List Byte :=
  let d := s.plainBurst b
  if (p.take 32).all (· == 0) then d
  else if !s.mem.xtsEn then xorOver d p
  else (List.range 32).map (fun i => Config.alteredByte s.sec.boots (tget 0 s.mem.wkey b) b d p i)
where
  /-- The data lanes of a pattern applied. -/
  xorOver (d p : List Byte) : List Byte := List.zipWith (· ^^^ ·) d (padTo 32 p)

/-- Who reads: its unit kind (for the log), whether the ledger path serves it (R109), and whether a poison marker met in a
model block quarantines it, as for a step, a prompt chunk or the scrubber (R372). -/
structure ReadBy where
  unit : Nat
  ledger : Bool
  markers : Bool
  deriving DecidableEq, Repr

/-- An uncorrectable burst: UNCORR, the log entry, and the quarantine of a model block (R105, R372). -/
def uncorrectable (r : ReadBy) (b : Nat) (s : State) : State :=
  let st := s.stackOf (32 * b)
  let s := s.modStack st (fun v => { v with uncorr := satAdd 32 v.uncorr 1 })
  quarantine (b / 128) (logErr 0x10 9 st (32 * b) r.unit s)

/-- A burst's data replaced by 32 bytes and its errors cleared. -/
def storeBurst (b : Nat) (d : List Byte) (s : State) : State :=
  s.setMem { s.mem with
      cells := tsets 0 s.mem.cells (32 * b) (padTo 32 d), errs := terase b s.mem.errs,
      wkey := tset 0 s.mem.wkey b (s.keyAt (32 * b)), poison := serase b s.mem.poison,
      unlanded := terase b s.mem.unlanded }

/-- A symbol-path read of one burst (R103, R105 to R107, R109): the data, or none for poison. (DESIGN CHOICE, log entry 44) -/
def symRead (r : ReadBy) (b : Nat) (s : State) : Option (List Byte) × State :=
  match s.fold (32 * b) with
  | none => (none, s)
  | some (st, ch) =>
    let p := s.errsOf b
    let bad := (p.filter (· != 0)).length
    let marker := s.mem.poison.contains b
    if bit (s.stack st).failedCh ch then (none, uncorrectable r b s)
    else if s.isCompute (32 * b) then (none, s)
    else if marker && bad = 0 then (none, if r.markers then quarantine (b / 128) s else s)
    else if bad = 0 then (some (s.plainBurst b), s)
    else if bad = 1 && !marker then
      let s1 := s.setMem { s.mem with errs := terase b s.mem.errs }
      (some (s.plainBurst b), s1.modStack st (fun v => { v with corr := satAdd 32 v.corr 1 }))
    else if (bad ≤ 3 && !marker) || bad = 1 then (none, uncorrectable r b s)
    else if Config.wideDecode b p = 0 then (none, uncorrectable r b s)
    else if Config.wideDecode b p = 1 then
      let d := s.alteredBurst b (miscorrected 36 b (padTo 36 p))
      (some d, (storeBurst b d s).modStack st (fun v => { v with corr := satAdd 32 v.corr 1 }))
    else (some (s.alteredBurst b p), s)

/-- The bytes that a burst's data lanes give. -/
def State.laneBurst (s : State) (b : Nat) : List Byte := List.zipWith (· ^^^ ·) (s.rawBurst b) (padTo 32 (s.errsOf b))

/-- The 4 KiB of a block as its data lanes hold them. -/
def State.blockData (s : State) (block : Nat) : List Byte := (List.range 128).flatMap (fun i => s.laneBurst (128 * block + i))

/-- The changes of a block's ledger entry, symbol by symbol: the check lanes of its first three bursts (R111). -/
def State.entryPattern (s : State) (block : Nat) : List Byte :=
  (List.range 3).flatMap (fun i => (padTo 36 (s.errsOf (128 * block + i))).drop 32)

/-- Symbols in error of a block's ledger entry. -/
def State.entryErrs (s : State) (block : Nat) : Nat := ((s.entryPattern block).filter (· != 0)).length

/-- The channel that holds an address has failed whole in service (R122). -/
def State.channelDead (s : State) (dpa : Nat) : Bool :=
  match s.fold dpa with
  | some (st, ch) => bit (s.stack st).failedCh ch
  | none => false

/-- A block's ledger entry written afresh: its twelve symbols hold the codeword of the new entry (R111). -/
def writeEntry (block : Nat) (e : LedgerEntry) (s : State) : State :=
  ((List.range 3).foldl (fun (s : State) i =>
    let p := (padTo 36 (s.errsOf (128 * block + i))).take 32
    s.setMem { s.mem with
      errs := tset [] s.mem.errs (128 * block + i) (if p.all (· == 0) then [] else padTo 36 p) }) s).setEntry block e

/-- The entry that a pattern of changes makes of a stored one: the CRC in its first four symbols, the state in the fifth (R111). -/
def alteredEntry (block : Nat) (e : LedgerEntry) (p : List Byte) : LedgerEntry :=
  { isOpen := if (p[4]?).getD 0 = 0 then e.isOpen else Config.entryOpen block p
    crc := e.crc ^^^ BitVec.ofNat 32 (leNat (p.take 4)) }

/-- A block's ledger entry as the shortened code gives it: none where it finds it uncorrectable. A corrected entry is written back and
counted, as a corrected burst is (R103, R106, R111). (DEDUCED, log entry 50) -/
def readEntry (block : Nat) (s : State) : Option LedgerEntry × State :=
  let e := s.entryOf block
  let p := s.entryPattern block
  let bad := s.entryErrs block
  let fixed := fun (e : LedgerEntry) => (some e, (writeEntry block e s).modStack (s.stackOf (block * 4096)) (fun v =>
    { v with corr := satAdd 32 v.corr 1 }))
  if bad = 0 then (some e, s)
  else if bad = 1 then fixed e
  else if bad ≤ 3 || Config.wideDecode (128 * block) p = 0 then (none, s)
  else if Config.wideDecode (128 * block) p = 1 then fixed (alteredEntry block e (miscorrected 12 (128 * block) p))
  else (some (alteredEntry block e p), s)

/-- A checked block enters the stack controller's 64 (R113). -/
def noteChecked (st block : Nat) (s : State) : State :=
  s.setMem { s.mem with checked := tmod [] s.mem.checked st (fun l => (block :: serase block l).take 64) }

/-- A block leaves the 64 checked ones. -/
def forgetChecked (block : Nat) (s : State) : State :=
  s.setMem { s.mem with checked := tmod [] s.mem.checked (s.stackOf (block * 4096)) (serase block) }

/-- A ledger failure: counted as uncorrectable, logged, and the block quarantined (R113, R369, R130). -/
def ledgerFail (block how : Nat) (s : State) : State :=
  let st := s.stackOf (block * 4096)
  let s := s.modStack st (fun v => { v with uncorr := satAdd 32 v.uncorr 1 })
  quarantine block (logErr 0x11 9 st (block * 4096) how s)

/-- A burst of a block is a poison marker (R107). A compute granule has no check symbols to hold the marker pattern: it stands beside
the block, and every ledger read of the block meets it. (DESIGN CHOICE, log entry 50) -/
def State.blockMarked (s : State) (block : Nat) : Bool := (List.range 128).any (fun i => s.mem.poison.contains (128 * block + i))

/-- Checks a compute block through its ledger entry (R113); how is DETAIL of LEDGER_MISMATCH. True when its data may be used. -/
def ledgerCheck (how block : Nat) (s : State) : Bool × State :=
  let st := s.stackOf (block * 4096)
  if s.channelDead (block * 4096) then (false, ledgerFail block how s)
  else if s.blockMarked block then (false, s)
  else if (tget [] s.mem.checked st).contains block && !(s.entryOf block).isOpen then (true, s)
  else
    match readEntry block s with
    | (none, s) => (false, ledgerFail block how s)
    | (some e, s) =>
      if e.isOpen then (false, s)
      else if crc32c (s.blockData block) = e.crc then (true, noteChecked st block s)
      else (false, ledgerFail block how s)

/-- A ledger-path read of one burst: what its data lanes give. A step's or chunk's read that meets poison quarantines the block (R105,
R372). (DEDUCED, log entry 50) -/
def ledgerRead (r : ReadBy) (b : Nat) (s : State) : Option (List Byte) × State :=
  if s.hole (32 * b) then (none, s) else
  match ledgerCheck 0 (b / 128) s with
  | (true, s) => (some (s.laneBurst b), s)
  | (false, s) => (none, if r.markers then quarantine (b / 128) s else s)

/-- A read by the path of the burst's own kind (R109). -/
def readOnce (r : ReadBy) (b : Nat) (s : State) : Option (List Byte) × State :=
  if r.ledger && s.isCompute (32 * b) then ledgerRead r b s else symRead r b s

/-- Whether a read of a burst is served from its mirror (R127): quarantined, or its stack in forced self-refresh. -/
def State.diverted (s : State) (b : Nat) : Bool :=
  (s.mirrorPair (32 * b)).isSome && ((s.quarSlot (b / 128)).isSome || s.stopped (32 * b))

/-- The mirror's burst of a primary burst. -/
def State.mirrorBurst (s : State) (b : Nat) : Nat :=
  match s.mirrorPair (32 * b) with
  | some p => (p.mirror + (32 * b - p.primary)) / 32
  | none => b

/-- A 4 KiB granule in host bias is recalled before the module touches it (R63). -/
def recallGranule (g : Nat) (s : State) : State :=
  if s.host.hostBias.contains g then
    let s := (List.range 64).foldl (fun s i => send (.rdOwn (4096 * g + 64 * i)) s) s
    { s with host := { s.host with hostBias := serase g s.host.hostBias } }
  else s

/-- Every granule of a range is recalled. -/
def recallRange (a n : Nat) (s : State) : State :=
  (s.host.hostBias.filter (fun g => overlaps (4096 * g) 4096 a n)).foldl (fun s g => recallGranule g s) s

/-- A read of the mirror of a burst; a mirror block that is quarantined itself gives nothing (R373); host copies of the mirror are recalled
(R63). -/
def readMirror (r : ReadBy) (b : Nat) (s : State) : Option (List Byte) × State :=
  let m := s.mirrorBurst b
  if (s.quarSlot (m / 128)).isSome || s.stopped (32 * m) then (none, s) else readOnce r m (recallGranule (m / 128) s)

/-- A read of one burst of device memory: from the mirror where R127 says so, poison from an unmirrored quarantined block or a
stopped stack, and otherwise through its own path; a mirrored block that fails now is read from its mirror (R372). -/
def readBurst (r : ReadBy) (b : Nat) (s : State) : Option (List Byte) × State :=
  if s.diverted b then readMirror r b s
  else if (s.quarSlot (b / 128)).isSome || s.stopped (32 * b) then (none, s)
  else
    match readOnce r b s with
    | (some d, s) => (some d, s)
    | (none, s) => if s.diverted b then readMirror r b s else (none, s)

/-- What a longer read gave: its bytes (zeros where poisoned), and the first poisoned burst. -/
structure ReadOut where
  bytes : List Byte
  bad : Option Nat
  deriving DecidableEq, Repr

/-- A read followed by another: the bytes of both, and the first poisoned burst. -/
def ReadOut.andThen (o : ReadOut) (p : ReadOut × State) : ReadOut × State :=
  ({ bytes := o.bytes ++ p.1.bytes, bad := o.bad.orElse (fun _ => p.1.bad) }, p.2)

/-- n bursts from burst b on. -/
def readBursts (r : ReadBy) (b : Nat) : Nat → State → ReadOut × State
  | 0, s => ({ bytes := [], bad := none }, s)
  | n + 1, s =>
    let (d, s) := readBurst r b s
    let (rest, s) := readBursts r (b + 1) n s
    ({ bytes := d.getD (List.replicate 32 0) ++ rest.bytes,
       bad := if d.isNone then some b else rest.bad }, s)

/-- n bytes from DPA a on. -/
def readMem (r : ReadBy) (a n : Nat) (s : State) : ReadOut × State :=
  let (o, s) := readBursts r (a / 32) (ceilDiv (a % 32 + n) 32) s
  ({ o with bytes := (o.bytes.drop (a % 32)).take n }, s)

/-- The reader that R109 calls every other unit. -/
def plainReader (unit : Nat) : ReadBy := { unit := unit, ledger := false, markers := false }

/-- A reader served by the ledger path as well. -/
def ledgerReader (unit : Nat) : ReadBy := { unit := unit, ledger := true, markers := false }

/-- A step's or prompt chunk's reader. -/
def stepReader (unit : Nat) : ReadBy := { unit := unit, ledger := true, markers := true }

/-! ## Writing -/

/-- The CRC-32C of a block after bytes old at an offset become new, by its linearity (R112). -/
def crcFold (crc : BitVec 32) (off : Nat) (old new : List Byte) : BitVec 32 :=
  let d := List.replicate off 0 ++ List.zipWith (· ^^^ ·) old new
  crc ^^^ (crc32c (padTo 4096 d) ^^^ crc32c (List.replicate 4096 0))

/-- A write's difference folded into a LIVE ledger entry (R112): one that reads clean or is corrected is written afresh; one that does not
keeps its errors. -/
def foldEntry (b : Nat) (d : List Byte) (s : State) : State :=
  let block := b / 128
  let e := s.entryOf block
  if e.isOpen then s else
  let e := { e with crc := crcFold e.crc (32 * (b % 128)) (s.laneBurst b) d }
  if s.entryErrs block ≤ 1 then writeEntry block e s else s.setEntry block e

/-- The data of a burst is stored (R75, R103, R112): fresh check symbols, or the difference folded into the ledger entry, whose check lanes
the write leaves. -/
def landBurst (b : Nat) (d : List Byte) (poison : Bool) (s : State) : State :=
  let s1 := if s.isCompute (32 * b) then foldEntry b d s else s
  let keep := if s.isCompute (32 * b) then (padTo 36 (s1.errsOf b)).drop 32 else []
  let s2 := storeBurst b d s1
  let s3 := if keep.any (· != 0) then s2.setMem { s2.mem with
      errs := tset [] s2.mem.errs b (List.replicate 32 0 ++ keep) } else s2
  if poison then s3.setMem { s3.mem with poison := sinsert b s3.mem.poison } else s3

/-- What the arrays hold of a burst: what stood before a write that has not landed, and its data lanes otherwise (R70). -/
def State.arrayBurst (s : State) (b : Nat) : List Byte :=
  let o := tget [] s.mem.unlanded b
  if o.isEmpty then s.laneBurst b else o

/-- A completed write to a compute granule stands in the controller's write queue: the arrays still hold what they held (R65, R70). -/
def queueBurst (b : Nat) (old : List Byte) (s : State) : State :=
  if s.isCompute (32 * b) then s.setMem { s.mem with unlanded := tset [] s.mem.unlanded b old } else s

/-- The verifying read of a quarantined block whose 64 lines have been rewritten (R374). -/
def verifyBlock (block : Nat) (s : State) : State :=
  match s.quarSlot block with
  | none => s
  | some (i, q) =>
    let a := block * 4096
    let (ok, s) :=
      if s.isCompute a then
        let s := writeEntry block { isOpen := false, crc := crc32c (s.blockData block) } s
        ledgerCheck 0 block (forgetChecked block s)
      else
        let bad := (List.range 128).any (fun i =>
          let b := 128 * block + i
          decide (2 ≤ ((s.errsOf b).filter (· != 0)).length) || s.mem.poison.contains b || s.hole (32 * b) || s.channelDead (32 * b))
        (!bad, s)
    if ok then clearQuarantine block 1 s
    else logErr 0x23 9 (s.stackOf a) a q.detail (s.setQuar i { q with lines := 0, state := 2 })

/-- A non-pip write to a line of a quarantined unmirrored block marks the line (R374). -/
def markRewrite (b : Nat) (s : State) : State :=
  let block := b / 128
  match s.quarSlot block with
  | none => s
  | some (i, q) =>
    if q.state = 1 then s else
    let lines := setBit q.lines (b % 128 / 2) true
    let s := s.setQuar i { q with lines := lines }
    if lines = 2 ^ 64 - 1 && b % 2 = 1 then verifyBlock block s else s

/-- The first write to a quarantined block of a compute granule sets its entry OPEN (R374). -/
def openOnRewrite (b : Nat) (s : State) : State :=
  match s.quarSlot (b / 128) with
  | some (_, q) =>
    if q.state ≠ 1 && s.isCompute (32 * b) then
      forgetChecked (b / 128) (writeEntry (b / 128) { s.entryOf (b / 128) with isOpen := true } s)
    else s
  | none => s

/-- A write of one burst that reaches its stack, or waits in the controller while the stack is STOPPED (R418). False when the 32
write entries are full: nothing is written. -/
def putBurst (b : Nat) (d : List Byte) (poison : Bool) (s : State) : Bool × State :=
  let st := s.stackOf (32 * b)
  if s.hole (32 * b) then (true, s)
  else if (s.stack st).thermal = 4 then
    if (s.stack st).waiting.length < 32 then
      (true, s.modStack st (fun v => { v with waiting := v.waiting ++ [{ dpa := 32 * b, data := d, poison := poison }] }))
    else (false, s)
  else
    let old := s.arrayBurst b
    (true, markRewrite b (queueBurst b old (landBurst b d poison (openOnRewrite b s))))

/-- A non-pip write of one burst by a unit (R126): to the mirror as well, and dropped where it is aimed at a mirror. -/
def writeBurst (unit b : Nat) (d : List Byte) (poison : Bool) (s : State) : Bool × State :=
  if s.inMirror (32 * b) then (true, logErr 5 9 (s.stackOf (32 * b)) (32 * b) unit s)
  else
    let (ok, s1) := putBurst b d poison s
    if (s.mirrorPair (32 * b)).isSome && ok then
      let (ok2, s2) := putBurst (s.mirrorBurst b) d poison (recallGranule (s.mirrorBurst b / 128) s1)
      if ok2 then (true, s2) else (false, s)
    else (ok, s1)

/-- Writes a list of bursts from burst b on, until one finds a stopped stack's entries full; the number written. -/
def writeBursts (unit b : Nat) : List (List Byte) → State → Nat × State
  | [], s => (0, s)
  | d :: ds, s =>
    match writeBurst unit b d false s with
    | (true, s) => let (k, s) := writeBursts unit (b + 1) ds s; (k + 1, s)
    | (false, s) => (0, s)

/-- A module write of bytes at DPA a (a burst written in part keeps its other bytes); true when all of it landed or waits. -/
def writeMem (unit a : Nat) (data : List Byte) (s : State) : Bool × State :=
  if data.isEmpty then (true, s) else
  let s := recallRange a data.length s
  let head := (s.plainBurst (a / 32)).take (a % 32)
  let e := a + data.length
  let tail := if e % 32 = 0 then [] else (s.plainBurst (e / 32)).drop (e % 32)
  let bs := chunksOf 32 (head ++ data ++ tail)
  let (k, s) := writeBursts unit (a / 32) bs s
  (k == bs.length, s)

/-- A module read of n bytes at DPA a by a reader: bias is recalled first (R63). -/
def moduleRead (r : ReadBy) (a n : Nat) (s : State) : ReadOut × State := readMem r a n (recallRange a n s)

/-- Writes to a range reach the arrays (R66). -/
def landRange (a n : Nat) (s : State) : State :=
  s.setMem { s.mem with unlanded := tclear s.mem.unlanded (a / 32) (ceilDiv (a + n) 32) }

/-- Writes that waited in a stack's controller land when it leaves STOPPED (R418). -/
def landWaiting (st : Nat) (s : State) : State :=
  let ws := (s.stack st).waiting
  let s := s.modStack st (fun v => { v with waiting := [] })
  ws.foldl (fun s w => markRewrite (w.dpa / 32) (landBurst (w.dpa / 32) w.data w.poison (openOnRewrite (w.dpa / 32) s))) s

/-! ## A record's source (R67, R88, R459) -/

/-- What reading a record's source gave: its bytes, the answer for poison, or not yet answered by the host. -/
inductive SrcOut where
  | bytes (data : List Byte)
  | poison (a : Answer)
  | waiting
  deriving DecidableEq, Repr

/-- The shared reads (RdShared) of the lines of host memory that hold n bytes at an address, over CXL.cache (R67). -/
def hostRead (addr n : Nat) (s : State) : State :=
  if 2 ≤ s.host.proto && s.host.cacheEn then send (.rdShared (addr / 64 * 64) (ceilDiv (addr % 64 + n) 64)) s else s

/-- Reads n source bytes: from device memory at addr, once no slice keeps a bank pair of it closed (R142), or the host's answer. -/
def readSource (fromHost : Bool) (addr n : Nat) (src : Src) (s : State) : SrcOut × State :=
  if fromHost then
    match src.host with
    | .poison => (.poison (eccUncorrected 0xFFFFFFFF), hostRead addr n s)
    | .bytes d => if d.length < n then (.waiting, s) else (.bytes (d.take n), hostRead addr n s)
  else if s.closedIn addr n then (.waiting, s)
  else
    let (o, s) := moduleRead (plainReader 1) addr n (addErrs src.errs s)
    match o.bad with
    | some b => (.poison (eccUncorrected (s.stackOf (32 * b))), s)
    | none => (.bytes o.bytes, s)

/-! ## The canonical form -/

/-- The contents of memory are in canonical form: bytes, symbol errors, keys and ledger entries by strictly rising places, none of
them what an unlisted place reads as. (DESIGN CHOICE, log entry 2) -/
def Mem.wf (m : Mem) : Bool :=
  twf 0 m.cells && twf [] m.errs && twf [] m.unlanded && twf 0 m.wkey && twf 0 m.pageKey && twf LedgerEntry.none m.ledger

end Sys2Proof.Machine
end

