-- ==== Sys2Proof/Machine/Operands.lean ====
section
/-! DEFINITION. The operand forms of command records: which parameter bytes each opcode defines, the field checks of order 9, the
authority checks of order 7 (R76, R85, R96), and what a record names. Field offsets are those of the opcode's parameter table. -/

namespace Sys2Proof.Machine

/-- Opcodes of the index (R96). -/
def opcodes : List Nat :=
  [0, 1, 2, 3, 4, 5, 6, 7, 0x10, 0x11, 0x12, 0x13, 0x14, 0x15, 0x20, 0x21, 0x22, 0x23, 0x24, 0x25, 0x26, 0x27] ++
  [0x30, 0x31, 0x32, 0x33, 0x34, 0x35, 0x36, 0x37, 0x38, 0x39, 0x40, 0x41, 0x42, 0x43, 0x50, 0x51, 0x52] ++
  [0x60, 0x61, 0x62, 0x63, 0x70, 0x71, 0x72]

/-- Privileged opcodes (R96). -/
def privilegedOps : List Nat :=
  [3, 4, 6, 7, 0x10, 0x11, 0x12, 0x13, 0x14, 0x20, 0x21, 0x22, 0x25, 0x26, 0x27, 0x38, 0x40, 0x50, 0x51] ++
  [0x60, 0x61, 0x62, 0x63, 0x70, 0x72]

/-- The parameter bytes that an opcode's layout defines, as offsets and sizes; every other parameter byte is reserved (R76). -/
def definedBytes (t : Taken) : List (Nat × Nat) :=
  let inl := fun (room : Nat) (each : Nat) => min room (each * t.at 0x24 (if each = 2 then 2 else 4))
  match t.opcode with
  | 0x01 => [(0x20, 1)]
  | 0x02 => [(0x20, 2), (0x28, 12)]
  | 0x03 => [(0x20, 1), (0x24, 4)]
  | 0x04 => [(0x20, 2)]
  | 0x05 => [(0x20, 1), (0x28, 40)]
  | 0x06 => [(0x20, 2), (0x28, 12)]
  | 0x07 => [(0x20, 2)]
  | 0x10 => [(0x20, 25)]
  | 0x11 => [(0x20, 24)]
  | 0x12 => [(0x20, 17), (0x38, 8)]
  | 0x13 => [(0x20, 16)]
  | 0x14 => [(0x20, 16)]
  | 0x15 => [(0x20, 16)]
  | 0x20 => [(0x20, 23), (0x38, 2), (0x3C, 16)]
  | 0x21 => [(0x20, 1), (0x22, 30)]
  | 0x22 => [(0x20, 7), (0x28, 16)]
  | 0x23 => [(0x20, 5), (0x28, 20)]
  | 0x24 => [(0x20, 2)]
  | 0x25 => [(0x20, 16)]
  | 0x27 => [(0x20, 3), (0x28, 8)]
  | 0x30 => [(0x20, 12)]
  | 0x31 => [(0x20, 3), (0x24, 12)] ++ (if t.at 0x22 1 = 0 then [(0x30, inl 192 4)] else [])
  | 0x32 => [(0x20, 6), (0x28, 16)] ++ (if t.at 0x23 1 = 0 then [(0x38, inl 192 2)] else [])
  | 0x33 => [(0x20, 2)]
  | 0x34 => [(0x20, 3), (0x24, 4)]
  | 0x35 => [(0x20, 4), (0x28, 8)]
  | 0x36 => [(0x20, 2), (0x24, 8)]
  | 0x37 => [(0x20, 16)]
  | 0x38 => [(0x20, 17), (0x32, 2)]
  | 0x39 => [(0x20, 2)]
  | 0x40 => [(0x20, 6), (0x28, 16)]
  | 0x41 => [(0x20, 40)]
  | 0x42 => [(0x20, 80)]
  | 0x43 => [(0x20, 16)]
  | 0x50 => [(0x20, 1), (0x22, 5), (0x28, 3), (0x30, 8)]
  | 0x51 => [(0x20, 7), (0x28, 14), (0x38, 4), (0x40, 12), (0x50, 12)]
  | 0x52 => [(0x20, 2)]
  | 0x60 => [(0x20, 21), (0x38, 8)]
  | 0x61 => [(0x20, 2)]
  | 0x62 => [(0x20, 33)]
  | 0x63 => [(0x20, 1)]
  | 0x70 => [(0x20, 1), (0x28, 8)]
  | 0x71 => [(0x20, 1)]
  | 0x72 => [(0x20, 2)]
  | _ => []

/-- The lowest reserved byte that is not 0 (order 8): the header's reserved bits and bytes, then the parameter area. -/
def reservedFault (t : Taken) : Option Nat :=
  let d := definedBytes t
  let isDefined := fun o => d.any (fun f => decide (f.1 ≤ o) && decide (o < f.1 + f.2))
  if 4 ≤ t.at 1 1 then some 1
  else if t.at 3 1 ≠ 0 then some 3
  else ((List.range 14).map (· + 0x12) ++ ((List.range 216).map (· + 0x20)).filter (fun o => !isDefined o)).find?
    (fun o => t.at o 1 ≠ 0)

/-- Checks of a record's SRC for a source space: known, and a multiple of 64. -/
def srcChecks (t : Taken) (spaceOff srcOff : Nat) (spaces : List Nat) : List (Nat × Bool) :=
  [(spaceOff, spaces.contains (t.at spaceOff 1)), (srcOff, t.at srcOff 8 % 64 == 0)]

/-- A field that must be 0. -/
def zeroField (t : Taken) (off size : Nat) : Nat × Bool := (off, t.at off size == 0)

/-- A field within bounds. -/
def within (t : Taken) (off size lo hi : Nat) : Nat × Bool := (off, inRange (t.at off size) lo hi)

/-- A memory range given by a base and a length: aligned, non-zero, without holes; the fault lies at the base when the base itself
holds no memory, and at the length when the range runs into a hole (as R66 gives them). -/
def rangeChecks (s : State) (t : Taken) (baseOff lenOff align : Nat) (inPips : Bool) : List (Nat × Bool) :=
  let a := t.at baseOff 8
  let n := t.at lenOff 8
  [(baseOff, a % align == 0 && !s.hole a && (!inPips || decide (0x10000000000 ≤ a))),
   (lenOff, n != 0 && n % align == 0 && decide (a + n ≤ 0x20000000000) && s.solid a n)]

/-- A QUERY page that a chapter defines (R95, R266, R284, R377, R392). -/
def queryPage (p : Nat) : Bool :=
  p == 0 || inRange p 0x200 0x2FF || p == 0x300 || p == 0x400 || p == 0x401 || p == 0x500

/-- FP32 bits of a field. -/
def Taken.f32 (t : Taken) (off : Nat) : F32 := BitVec.ofNat 32 (t.at off 4)

/-- The fields' values lie in range (order 9): each field's offset with whether it is in range, by rising offset. -/
def fieldChecks (s : State) (t : Taken) : List (Nat × Bool) :=
  let w := within t
  let z := zeroField t
  let op := t.at 0x20 1
  match t.opcode with
  | 0x01 => [w 0x20 1 0 2]
  | 0x02 => [(0x20, queryPage (t.at 0x20 2)), (0x28, t.at 0x28 8 % 64 == 0),
             (0x30, inRange (t.at 0x30 4) 64 65536 && t.at 0x30 4 % 64 == 0)]
  | 0x03 => [w 0x20 1 0 4]
  | 0x04 => [w 0x20 1 1 8,
             (0x21, decide (t.at 0x21 1 < ((([8, 24, 8, 4, 8, 8, 12, 4] : List Nat)[t.at 0x20 1 - 1]?).getD 0)))]
  | 0x05 => [w 0x20 1 0 4, (0x48, t.at 0x48 8 % 64 == 0)]
  | 0x06 =>
    if op = 0 then srcChecks t 0x21 0x28 [0, 1] ++
      [(0x30, t.at 0x30 4 % 4096 == 0 && inRange (t.at 0x30 4) 8192 67108864)]
    else [w 0x20 1 0 1, z 0x21 1, z 0x28 8, z 0x30 4]
  | 0x07 => [w 0x20 1 0 2, (0x21, decide (t.at 0x21 1 ≤ (if op = 1 then 1 else 0)))]
  | 0x10 =>
    let src := t.at 0x20 8
    let dst := t.at 0x28 8
    let n := t.at 0x30 8
    let dev := t.at 0x38 1 == 0
    [(0x20, src % 64 == 0 && (!dev || !s.hole src)),
     (0x28, dst % 64 == 0 && !s.hole dst && !(dev && overlaps src n dst n)),
     (0x30, n % 64 == 0 && inRange n 64 (2 ^ 36) && s.solid dst n && (!dev || s.solid src n)), w 0x38 1 0 1]
  | 0x11 =>
    let dst := t.at 0x20 8
    let n := t.at 0x28 8
    [(0x20, dst % 64 == 0 && !s.hole dst), (0x28, n % 64 == 0 && inRange n 64 (2 ^ 36) && s.solid dst n)]
  | 0x12 =>
    rangeChecks s t 0x20 0x28 65536 (t.at 0x30 1 == 0) ++
    [w 0x30 1 0 2, (0x38, if t.at 0x30 1 = 1 then t.at 0x38 8 % 65536 == 0 else t.at 0x38 8 == 0)]
  | 0x13 => rangeChecks s t 0x20 0x28 65536 true
  | 0x14 => rangeChecks s t 0x20 0x28 4096 false
  | 0x15 =>
    let a := t.at 0x20 8
    let n := t.at 0x28 8
    let inR := fun x => decide (x < s.mem.plainSize) || inRange x 0x10000000000 0x1FFFFFFFFFF
    [(0x20, a % 4096 == 0 && inR a),
     (0x28, n != 0 && n % 4096 == 0 && decide (a + n ≤ 0x20000000000) &&
       (decide (0x10000000000 ≤ a) || decide (a + n ≤ s.mem.plainSize) || s.mem.plainSize == 0x10000000000))]
  | 0x20 =>
    if op = 0 then
      [w 0x21 1 0 15, w 0x22 2 1 255, (0x24, t.at 0x24 4 % 256 == 0 && inRange (t.at 0x24 4) 256 32768),
       (0x28, t.at 0x28 4 % 256 == 0 && inRange (t.at 0x28 4) 256 131072), w 0x2C 4 1 262144, w 0x30 1 1 255,
       (0x31, inRange (t.at 0x31 1) 1 255 && t.at 0x30 1 % max 1 (t.at 0x31 1) == 0),
       (0x32, t.at 0x32 2 % 8 == 0 && inRange (t.at 0x32 2) 8 256),
       (0x34, [0, 2, 3, 4, 5, 6].contains (t.at 0x34 1)), (0x35, [0, 5, 6].contains (t.at 0x35 1)), w 0x36 1 0 2,
       w 0x38 2 1 256, w 0x3C 4 1 1048576, (0x40, t.at 0x40 8 % 64 == 0),
       (0x48, t.at 0x48 4 % 48 == 0 && decide (t.at 0x48 4 ≤ 2 ^ 28))]
    else [w 0x20 1 0 1, w 0x21 1 0 15, z 0x22 2]
  | 0x21 =>
    [w 0x20 1 0 15, (0x34, f32Finite (t.f32 0x34) && !f32IsZero (t.f32 0x34)),
     (0x38, f32Finite (t.f32 0x38) && (f32IsZero (t.f32 0x38) || !f32Sign (t.f32 0x38))),
     (0x3C, decide (t.at 0x3C 2 ≤ 2) || inRange (t.at 0x3C 2) 0x100 0x11F), w 0x3E 2 0 10000]
  | 0x22 =>
    [w 0x20 1 0 2, w 0x21 1 0 15, (0x24, decide (t.at 0x24 1 < (if op = 0 then 8 else 4))), w 0x25 1 0 2] ++
    srcChecks t 0x26 0x28 [0, 1] ++ [w 0x34 4 1 262144]
  | 0x23 =>
    [w 0x20 2 1 65535, w 0x22 1 0 15, w 0x23 1 0 1] ++ srcChecks t 0x24 0x28 [0, 1] ++
    [(0x30, t.at 0x30 8 % 64 == 0 && inRange (t.at 0x30 8) 64 (2 ^ 36)), w 0x38 4 1 2048]
  | 0x24 => [w 0x20 2 1 65535]
  | 0x25 =>
    [w 0x20 1 0 2, (0x21, decide (t.at 0x21 1 < (if op = 1 then 32 else 16))),
     (0x22, op == 2 || t.at 0x22 2 == 0), (0x24, decide (t.at 0x24 1 ≤ 1)),
     (0x25, decide (t.at 0x25 1 ≤ (if op = 2 then 1 else 0))),
     (0x26, if op = 1 then inRange (t.at 0x26 2) 1 32 else t.at 0x26 2 == 0), (0x28, t.at 0x28 8 % 64 == 0)]
  | 0x27 =>
    if op = 0 then [w 0x21 1 0 15] ++ srcChecks t 0x22 0x28 [0, 1]
    else [w 0x20 1 0 1, w 0x21 1 0 15, z 0x22 1, z 0x28 8]
  | 0x30 => [w 0x20 2 0 4095, w 0x22 1 0 15, w 0x23 1 0 15, w 0x26 2 0 1023, w 0x28 4 1 1048576]
  | 0x31 =>
    let inl := t.at 0x22 1 == 0
    [w 0x20 2 0 4095, w 0x22 1 0 2, (0x24, inRange (t.at 0x24 4) 1 (if inl then 48 else 65536)),
     (0x28, if inl then t.at 0x28 8 == 0 else t.at 0x28 8 % 64 == 0)]
  | 0x32 =>
    let inl := t.at 0x23 1 == 0
    [w 0x20 2 0 1023, w 0x22 1 0 15, w 0x23 1 0 2, (0x24, inRange (t.at 0x24 2) 1 (if inl then 96 else 256)),
     (0x28, if inl then t.at 0x28 8 == 0 else t.at 0x28 8 % 64 == 0), (0x30, t.at 0x30 8 % 64 == 0)]
  | 0x33 => [w 0x20 2 0 4095]
  | 0x34 => [w 0x20 2 0 4095, (0x22, decide (t.at 0x22 1 ≤ 3) || t.at 0x22 1 == 0xFF), w 0x24 4 1 2592000]
  | 0x35 =>
    [w 0x20 1 0 1, (0x21, decide (t.at 0x21 1 ≤ (if op = 0 then 15 else 0))),
     (0x22, decide (t.at 0x22 2 ≤ (if op = 0 then 4095 else 0)))]
  | 0x36 => [w 0x20 2 0 4095]
  | 0x37 => [w 0x20 2 0 4095, w 0x22 1 1 2, w 0x23 1 0 1, w 0x24 4 2 1048576, (0x28, t.at 0x28 8 % 64 == 0)]
  | 0x38 =>
    [w 0x20 1 0 1, w 0x21 1 0 1, (0x22, decide (t.at 0x22 2 ≤ (if op = 0 then 4095 else 0))),
     (0x24, t.at 0x24 4 != 0 && t.at 0x24 4 % 16 == 0), (0x28, t.at 0x28 8 % 64 == 0),
     (0x30, decide (t.at 0x30 1 ≤ (if op = 0 then 0 else 15))), (0x32, op == 1 || t.at 0x32 2 == 0)]
  | 0x39 => [w 0x20 2 0 4095]
  | 0x40 =>
    if op = 0 then [z 0x21 1, w 0x22 2 0 1023, (0x24, t.at 0x24 2 != 0 && decide (t.at 0x22 2 + t.at 0x24 2 ≤ 1024)),
      z 0x2C 4, z 0x30 8]
    else [w 0x20 1 0 1, w 0x21 1 0 1, z 0x22 2, z 0x24 2, z 0x28 4, w 0x2C 4 10 60000]
  | 0x41 =>
    let x := t.f32
    let pos := fun o => !f32Sign (x o) || f32IsZero (x o)
    [w 0x20 2 0 4095, (0x22, decide (t.at 0x22 2 ≤ 1023) || t.at 0x22 2 == 0xFFFF),
     (0x24, f32Finite (x 0x24) && (f32IsZero (x 0x24) || (f32Le 0x37800000 (x 0x24) && f32Le (x 0x24) 0x47800000))),
     w 0x28 2 0 256, w 0x2A 2 0 256, (0x2C, f32Lt 0 (x 0x2C) && f32Le (x 0x2C) f32One),
     (0x30, f32Finite (x 0x30) && pos 0x30 && f32Lt (x 0x30) f32One),
     (0x34, f32Finite (x 0x34) && f32Le f32One (x 0x34)), (0x38, f32Finite (x 0x38))]
  | 0x42 =>
    [w 0x20 2 0 4095, w 0x22 1 0 8, w 0x23 1 0 1,
     (0x68, if t.at 0x22 1 = 0 then t.at 0x68 8 == 0 else t.at 0x68 8 % 64 == 0)]
  | 0x43 =>
    if op = 0 then [(0x21, decide (t.at 0x21 1 ≤ 1)), w 0x22 2 0 1023, w 0x24 4 1 262144, (0x28, t.at 0x28 8 % 64 == 0)]
    else [w 0x20 1 0 1, z 0x21 1, w 0x22 2 0 1023, z 0x24 4, z 0x28 8]
  | 0x50 =>
    [w 0x20 1 0 7, w 0x22 2 0 1535, (0x24, t.at 0x24 2 != 0 && decide (t.at 0x22 2 + t.at 0x24 2 ≤ 1536)), w 0x26 1 64 255,
     (0x28, inRange (t.at 0x28 2) 1 192 && decide (t.at 0x26 1 + t.at 0x28 2 ≤ 256)), w 0x2A 1 0 1,
     (0x30, t.at 0x30 8 % 8 == 0)]
  | 0x51 =>
    let noGather := t.at 0x34 2 == 0
    [w 0x20 1 0 7, w 0x21 1 0 11, w 0x22 2 0 1535,
     (0x24, inRange (t.at 0x24 2) 1 512 && decide (t.at 0x22 2 + t.at 0x24 2 ≤ 1536)), w 0x26 1 64 255,
     (0x28, (List.range 4).all (fun i => decide (t.at (0x28 + 2 * i) 2 < 0x8000))), (0x30, t.at 0x30 2 % 32 == 0),
     (0x32, t.at 0x32 2 % 32 == 0 && decide (t.at 0x30 2 + t.at 0x32 2 ≤ 32768)), w 0x34 2 0 4096, w 0x38 4 1 1000000,
     (0x40, t.at 0x40 8 % 32 == 0 && (!noGather || t.at 0x40 8 == 0) && (noGather || t.at 0x48 4 == 0 || !s.hole (t.at 0x40 8))),
     (0x48, (!noGather || t.at 0x48 4 == 0) && (noGather || s.solid (t.at 0x40 8) (32 * t.at 0x48 4))),
     (0x50, t.at 0x50 8 % 64 == 0 && (t.at 0x58 4 != 0 || t.at 0x50 8 == 0)),
     (0x58, t.at 0x58 4 % 64 == 0 && decide (t.at 0x58 4 ≤ 131072))]
  | 0x52 => [w 0x20 1 0 7, w 0x21 1 0 15]
  | 0x60 =>
    let size := 2 ^ t.at 0x2A 1 * t.at 0x2B 1 * t.at 0x2C 2
    [(0x20, t.at 0x20 8 != 0), (0x28, decide (t.at 0x28 2 ≤ 4095) && decide (t.at 0x28 2 < size)), w 0x2A 1 0 4,
     w 0x2B 1 1 64, (0x2C, inRange (t.at 0x2C 2) 1 4096 && decide (size ≤ 4096)), w 0x2F 1 0 15,
     (0x32, t.at 0x32 2 != 0), w 0x34 1 0 1, (0x38, t.at 0x38 8 % 64 == 0)]
  | 0x61 => [w 0x20 1 0 1]
  | 0x62 =>
    let n := t.at 0x38 8
    [w 0x20 1 0 4, w 0x21 1 0 3, (0x22, t.at 0x21 1 != 0 || t.at 0x22 2 == 0), (0x24, t.at 0x21 1 == 2 || t.at 0x24 1 == 0),
     (0x25, t.at 0x21 1 == 3 || t.at 0x25 1 == 0), (0x26, op == 0 || t.at 0x26 2 == 0),
     (0x28, t.at 0x28 8 % 64 == 0), (0x30, t.at 0x30 8 % 64 == 0), (0x38, n % 64 == 0 && inRange n 64 (2 ^ 36)),
     w 0x40 1 0 1]
  | 0x63 => [w 0x20 1 0 1]
  | 0x70 => [w 0x20 1 0 3]
  | 0x71 => [w 0x20 1 0 3]
  | 0x72 => [w 0x20 1 0 3, w 0x21 1 0 1]
  | _ => []

/-- The window acts with privilege: PRIV, or window 0 in RECOVERY (R428). -/
def State.winPriv (s : State) (w : Nat) : Bool := (s.win w).priv || (s.recovery && w == 0)

/-- A window that a record of tenant tn in window w may name as OUT_WINDOW (R265). -/
def State.outWindowOk (s : State) (w tn o : Nat) : Bool :=
  s.winPriv w || o == w || ((s.win o).tenant == tn && !(s.win o).priv)

/-- Entry q is FREE or belongs to tenant tn (R242). -/
def State.seqOwned (s : State) (tn q : Nat) : Bool := (s.seq q).state == 0 || (s.seq q).tenant == tn

/-- The tenant whose mask slots the sequence may name (R275): its own, or the record's for a FREE entry. -/
def State.maskTenant (s : State) (tn q : Nat) : Nat := if (s.seq q).state = 0 then tn else (s.seq q).tenant

/-- Mask slot m has no owner or belongs to tenant tn. -/
def State.maskOwned (s : State) (tn m : Nat) : Bool :=
  match (tget MaskSlot.free s.seqs.masks m).owner with
  | none => true
  | some o => o == tn

/-- Variant v may be named by tenant tn: variant 0, not resident, global, or of the tenant (R295). -/
def State.variantOwned (s : State) (tn v : Nat) : Bool :=
  let x := tget Variant.none s.seqs.variants v
  v == 0 || x.model == 16 || x.isGlobal || x.tenant == tn

/-- Model m does not exist or was created under tenant tn (R96). -/
def State.modelOwned (s : State) (tn m : Nat) : Bool := (s.model m).state == 0 || (s.model m).tenant == tn

/-- The park with a handle. -/
def State.park (s : State) (h : Nat) : Option Park := s.pun.parks.find? (fun p => p.handle == h)

/-- Order 7: the offsets of the fields that fail the authority check. list is a STEP's sequence list. R85 has every object belong to TENANT,
R96 speaks of windows without PRIV: a window with PRIV may name the sequences, models, variants and runs of every tenant, and mask slots and
the park of a resume must belong to the record's tenant (R263, R275, R276). (DESIGN CHOICE, log entry 53) -/
def authorityFaults (s : State) (w : Nat) (t : Taken) (list : List Nat) : List Nat :=
  let tn := t.tenant
  let pv := s.winPriv w
  let op := t.opcode
  let opOk := pv || !privilegedOps.contains op
  let f := fun (off : Nat) (ok : Bool) => if ok then [] else [off]
  let seqF := fun off => f off (pv || s.seqOwned tn (t.at off 2))
  f 0 opOk ++ (if opOk then f 0x10 (pv || tn == (s.win w).tenant) else []) ++
  match op with
  | 0x02 => f 0x20 (pv || !([0x300, 0x400, 0x401].contains (t.at 0x20 2)))
  | 0x23 => f 0x22 (pv || s.modelOwned tn (t.at 0x22 1)) ++ f 0x23 (pv || t.at 0x23 1 != 1)
  | 0x24 =>
    let x := tget Variant.none s.seqs.variants (t.at 0x20 2)
    f 0x20 (pv || x.model == 16 || (!x.isGlobal && x.tenant == tn))
  | 0x30 => seqF 0x20 ++ f 0x22 (pv || s.modelOwned tn (t.at 0x22 1)) ++ f 0x23 (s.outWindowOk w tn (t.at 0x23 1)) ++
      f 0x24 (s.variantOwned tn (t.at 0x24 2))
  | 0x32 =>
    f 0x22 (pv || s.modelOwned tn (t.at 0x22 1)) ++
    f (if t.at 0x23 1 = 0 then 0x38 else 0x28) (list.all (fun q => pv || s.seqOwned tn q))
  | 0x35 =>
    (if t.at 0x20 1 = 0 then f 0x21 (s.outWindowOk w tn (t.at 0x21 1)) ++ seqF 0x22 else []) ++
    f 0x28 (match s.park (t.at 0x28 8) with | some p => (pv && t.at 0x20 1 == 1) || p.tenant == tn | none => true)
  | 0x31 | 0x33 | 0x34 | 0x36 | 0x37 | 0x39 | 0x42 => seqF 0x20
  | 0x41 => seqF 0x20 ++
      f 0x22 (t.at 0x22 2 == 0xFFFF || s.maskOwned (s.maskTenant tn (t.at 0x20 2)) (t.at 0x22 2))
  | 0x43 => f 0x22 (s.maskOwned tn (t.at 0x22 2))
  | 0x52 =>
    let r := (s.pip (t.at 0x20 1)).runAt (t.at 0x21 1)
    f 0x21 (pv || r.state == 0 || r.tenant == tn)
  | _ => []

/-- The lowest of some offsets. (DEDUCED, log entry 17) -/
def lowest (l : List Nat) : Option Nat :=
  match l with
  | [] => none
  | a :: as => some (as.foldl min a)

/-- The sequences that a record names. -/
def recordSeqs (t : Taken) : List Nat :=
  match t.opcode with
  | 0x32 => t.list
  | 0x35 => if t.at 0x20 1 = 0 then [t.at 0x22 2] else []
  | 0x38 => if t.at 0x20 1 = 0 then [t.at 0x22 2] else []
  | 0x30 | 0x31 | 0x33 | 0x34 | 0x36 | 0x37 | 0x39 | 0x41 | 0x42 => [t.at 0x20 2]
  | _ => []

/-- What a record has others follow in the order in which they were taken (R253, R275, R286, R315, R328, R401): sequences, handles, codec
slots, mask slots that it loads, step groups and the flash. Nothing else but a fence orders records (R68). -/
def recordKeys (t : Taken) : List (Nat × Nat) :=
  (recordSeqs t).map (fun q => (0, q)) ++
  match t.opcode with
  | 0x35 => [(1, t.at 0x28 8)]
  | 0x27 => [(2, t.at 0x21 1)]
  | 0x06 | 0x07 => [(3, 0)]
  | 0x43 => if t.at 0x20 1 = 0 then [(5, t.at 0x22 2)] else []
  | 0x32 => [(8, t.at 0x20 2)]
  | _ => []

/-- What a record follows: earlier records with its keys, and a MASK_LOAD FREE the loads of its slot; loads of one slot have no order. -/
def followKeys (t : Taken) : List (Nat × Nat) :=
  if t.opcode = 0x43 then (if t.at 0x20 1 = 1 then [(5, t.at 0x22 2)] else []) else recordKeys t

/-- No record taken earlier, and not yet begun, stands before this one. -/
def State.inTurn (s : State) (t : Taken) : Bool :=
  let ks := followKeys t
  s.records.all (fun r => r.2.started || decide (t.order ≤ r.2.order) || !(recordKeys r.2).any (fun k => ks.contains k))

/-- Runs a record's meaning in its turn (see onRecord). (DESIGN CHOICE, log entry 10) -/
def inOrder (op w n : Nat) (p : Taken → Bool) (f : Nat → Taken → State → State) (s : State) : State :=
  onRecord op w n p (fun w t s => if s.inTurn t then f w t s else s) s

end Sys2Proof.Machine
end

