-- ==== Sys2Proof/Machine/VineSend.lean ====
section
/-! DEFINITION. What the cascade firmware sends: the shape of the group, routes, hand-offs and the last Vine error (spec 16). -/

namespace Sys2Proof.Machine

/-- Entry m of the route table (R343): a port, 0xE the module itself, 0xF unreachable. -/
def State.route (s : State) (m : Nat) : Nat := tget 0xF s.vine.routes m

/-- The module belongs to a group (VINE_MEMBER.STATE is not NONE). -/
def State.inGroup (s : State) : Bool := decide (s.vine.state ≠ 0)

/-- The module serves a group: it has been confirmed into one. A module in JOINING still works alone. -/
def State.inCascade (s : State) : Bool := decide (2 ≤ s.vine.state)

/-- W of the shape (R348). -/
def State.shapeW (s : State) : Nat := 2 ^ s.vine.wLog2

/-- D of the shape. -/
def State.shapeD (s : State) : Nat := s.vine.dM1 + 1

/-- R of the shape. -/
def State.shapeR (s : State) : Nat := s.vine.rM1 + 1

/-- Widen rank, stage and replica of a member (R348). -/
def State.rankOf (s : State) (m : Nat) : Nat := m % s.shapeW
/-- Stage of a member. -/
def State.stageOf (s : State) (m : Nat) : Nat := m / s.shapeW % s.shapeD
/-- Replica of a member. -/
def State.replicaOf (s : State) (m : Nat) : Nat := m / s.shapeW / s.shapeD

/-- The member of a replica, stage and rank. -/
def State.memberAt (s : State) (r d k : Nat) : Nat := (r * s.shapeD + d) * s.shapeW + k

/-- Every member of a replica. -/
def State.replicaMembers (s : State) (r : Nat) : List Nat :=
  (List.range (s.shapeW * s.shapeD)).map (fun i => r * (s.shapeW * s.shapeD) + i)

/-- Sequence q lies on this module: it works alone, or q belongs to its replica (R348). -/
def State.holdsSeq (s : State) (q : Nat) : Bool := !s.inCascade || q % s.shapeR == s.replicaOf s.vine.member

/-- The sampling member of a replica (R348). -/
def State.samplingMember (s : State) (r : Nat) : Nat := s.memberAt r (s.shapeD - 1) 0

/-- The last Vine error, counted and logged (R365, R369): kind, port (15: none) and member. Entry into DOWN and the loss of members
signal vector 19 (R340, R361). -/
def vineError (kind port member : Nat) (s : State) : State :=
  let s := s.setVine { s.vine with
    errCount := satAdd 16 s.vine.errCount 1, errKind := kind, errPort := port, errMember := member }
  logErr 0x60 7 (if port < 12 then port else 0) 0 kind s

/-- The ports that are up. -/
def State.portsUp (s : State) : List Nat :=
  (List.range 12).filter (fun p => (s.vinePort p).state == 2 || (s.vinePort p).state == 3)

/-- Virtual channel of a message kind (R341). -/
def vcOf (kind : Nat) : Nat := if kind = 0x11 || kind = 0x12 then 1 else if kind = 0x40 then 2 else 0

/-- The body of a message's stored block before it is sealed (R344, R346). What stands in one without data the spec does not lay out: its
numbers, in 8 bytes each. (DESIGN CHOICE, log entry 37) -/
def VineTx.body (t : VineTx) : List Byte :=
  if t.data.isEmpty then t.args.flatMap (natLe 8) else if t.mode = 1 then zrunBody 2 t.data else t.data

/-- Bytes of the stored block of a message that travel: its header and its body (R344). -/
def VineTx.blockBytes (t : VineTx) : Nat := 64 + t.body.length

/-- The 32-byte message header (R344), little-endian (R8). -/
def VineTx.header (t : VineTx) : List Byte :=
  natLe 1 t.kind ++ natLe 1 t.hops ++ natLe 1 (b2n t.last) ++ natLe 1 0 ++ natLe 2 t.dst ++ natLe 2 t.src ++ natLe 4 t.epoch ++
  natLe 4 t.blockBytes ++ natLe 8 t.groupId ++ natLe 6 t.ctr ++ natLe 2 t.seg

/-- Frames of a message: its header, the block header and the body (R337, R344). -/
def VineTx.frames (t : VineTx) : Nat := ceilDiv (t.header.length + t.blockBytes) 256

/-- The 8-byte header of a frame (R337), little-endian (R8). -/
def frameHeader (f : VineFrame) : List Byte :=
  natLe 8 (packed [(0, 12, f.fseq), (12, 12, f.ack), (24, 1, b2n f.nak), (25, 2, f.vc), (27, 1, b2n f.idle), (32, 10, f.credits),
    (42, 2, f.creditVc)])

/-- Frames that wait on a channel go out as far as its credits and the replay buffer allow (R339, R341). -/
def VinePort.drain (vc : Nat) (v : VinePort) : VinePort :=
  let k := min (min (tget 0 v.waiting vc) (tget 0 v.credits vc)) (2048 - v.unacked)
  { v with
    waiting := tmod 0 v.waiting vc (· - k), credits := tmod 0 v.credits vc (· - k), unacked := v.unacked + k,
    txSeq := (v.txSeq + k) % 4096, sinceIdle := (v.sinceIdle + k) % 4096 }

/-- Frames of a message reach a port. The wait for credits is timed from when frames begin to wait (R341). -/
def VinePort.enqueue (vc frames now : Nat) (v : VinePort) : VinePort :=
  let at_ := if tget 0 v.waiting vc = 0 then tset 0 v.creditAt vc now else v.creditAt
  VinePort.drain vc { v with waiting := tmod 0 v.waiting vc (· + frames), creditAt := at_ }

/-- A message leaves by a port. -/
def vineOut (t : VineTx) (p : Nat) (s : State) : State :=
  let s := s.setVine { s.vine with out := s.vine.out ++ [{ t with port := p }] }
  if p < 12 then s.modVinePort p (fun v => v.enqueue (vcOf t.kind) t.frames s.now) else s

/-- One message on its way: by the port of its route, or an error where no port leads to its member (R343). A flood leaves by every
port that is up but the one it came by. -/
def vinePost (t : VineTx) (s : State) : State :=
  if t.dst = 0xFFFF then (s.portsUp.filter (fun p => p ≠ t.port)).foldl (fun s p => vineOut t p s) s
  else
    let r := s.route t.dst
    if r = 14 then vineOut t 12 s
    else if s.portsUp.contains r then vineOut t r s
    else vineError 4 15 t.dst s

/-- A Vine port without a link: its replay buffer and credits are lost. -/
def VinePort.down (v : VinePort) (now : Nat) : VinePort :=
  { VinePort.reset with replays := v.replays, fecCorr := v.fecCorr, triedAt := now }

/-- A port enters DOWN for a kind of error (R340): messages partly received by it are lost, and vector 19 signals it. -/
def portDown (p kind : Nat) (s : State) : State :=
  let peer := (s.vinePort p).peer.getD 0
  let s := s.modVinePort p (fun v => v.down s.now)
  let s := s.setVine { s.vine with partials := s.vine.partials.filter (fun x => x.port != p) }
  msix 19 (vineError kind p peer s)

/-- The bytes of one segment of a hand-off (R345). -/
def segmentBytes : Nat := 1048576

/-- The bytes of one slot's token in TOKENS and COMMIT (R346). -/
def slotTokenBytes (t : SlotToken) : List Byte :=
  natLe 2 t.slot ++ natLe 4 t.token.toNat ++ natLe 4 t.logprob.toNat ++ natLe 1 (t.stopReason + 16 * t.stopIndex)

/-- How the block of a message is coded (R311, R346): ACT and PART may be coded in ZRUN while VINE_CTL.ZRUN_EN is 1, and the BULK of a
COLLECT whose record allows it; what ZRUN does not make shorter is stored raw. -/
def State.vineMode (s : State) (kind : Nat) (args : List Nat) (data : List Byte) : Nat :=
  let may := (kind == 0x11 || kind == 0x12) && s.vine.zrunEn ||
    kind == 0x40 && s.vine.collects.any (fun c => c.w == args.getD 0 0 && c.n == args.getD 1 0 && c.coding == 1)
  if may && s.codec.compressEn && data.length % 4 = 0 && (zrunBody 2 data).length < data.length then 1 else 0

/-- Sends a hand-off of a kind to a member under an epoch, cut into segments (R344, R345): MSG_CTR rises by one with every message. -/
def vineSendIn (epoch kind dst : Nat) (args : List Nat) (data : List Byte) (s : State) : State :=
  if s.vine.state = 0 then s else
  let parts := if data.isEmpty then [[]] else chunksOf segmentBytes data
  parts.zipIdx.foldl (fun s p =>
    let t : VineTx :=
      { kind := kind, hops := 32, dst := dst, src := s.vine.member, epoch := epoch, groupId := s.vine.groupId, ctr := s.vine.msgCtr,
        seg := p.2, last := decide (p.2 + 1 = parts.length), port := 12, mode := s.vineMode kind args p.1, args := args, data := p.1 }
    vinePost t (s.setVine { s.vine with msgCtr := s.vine.msgCtr + 1 })) s

/-- Sends a hand-off under the present epoch. (DESIGN CHOICE, log entry 37) -/
def vineSend (kind dst : Nat) (args : List Nat) (data : List Byte) (s : State) : State := vineSendIn s.vine.epoch kind dst args data s

/-- A hand-off to each of a list of members, the module itself excepted. -/
def vineSendAll (kind : Nat) (dsts : List Nat) (args : List Nat) (data : List Byte) (s : State) : State :=
  (dsts.filter (fun m => m ≠ s.vine.member)).foldl (fun s m => vineSend kind m args data s) s

/-- Members to which the stem forwards a record: those of its sequence's replica, or all for masks and budgets, which no sequence
names (R349, R353). -/
def State.forwardTo (s : State) (t : Taken) : List Nat :=
  match recordSeqs t with
  | q :: _ => s.replicaMembers (q % s.shapeR)
  | [] => if t.opcode = 0x40 || t.opcode = 0x43 || t.opcode = 0x38 then s.vine.members else []

/-- The stem forwards a record in a PLAN, with what its members need beside its 256 bytes (R349). (DEDUCED, log entry 40) -/
def forwardWith (t : Taken) (more : List Byte) (s : State) : State :=
  if s.vine.state = 3 then vineSendAll 0x10 (s.forwardTo t) [] (t.bytes ++ more) s else s

/-- A record is forwarded when it is taken, unless it is forwarded with what its meaning finds: the data of its source, a park's
handle, or the boundary that ends a close. -/
def forwardRecord (t : Taken) (s : State) : State :=
  let later := [0x32, 0x34, 0x37, 0x38, 0x39].contains t.opcode || ((t.opcode == 0x31 || t.opcode == 0x42) && t.at 0x22 1 != 0) ||
    (t.opcode == 0x43 && t.at 0x20 1 == 0)
  if inRange t.opcode 0x30 0x43 && !later then forwardWith t [] s else s

end Sys2Proof.Machine
end

