-- ==== Sys2Proof/Machine/Intake.lean ====
section
/-! DEFINITION. Record intake: landed slots, the fences that hold a window, the conditions of R80, the checks of R85 in their order,
the reservations of R81, and WIN_STATUS (spec 04). -/

namespace Sys2Proof.Machine

/-! ## What a STEP needs (R24, R80, R82, R243, R280, R288) -/

/-- Steps that are not BOUNDED and name sequence q as its entry stands. -/
def State.stepsNaming (s : State) (q : Nat) : List Step :=
  s.seqs.steps.filter (fun p => p.slots.any (fun e => e.q == q && e.gen == (s.seq q).gen))

/-- The state checks of R243 on an entry that a STEP names: the reason, if one fails. -/
def stepSeqReason (e : SeqEntry) : Option Nat :=
  if e.state = 0 || e.state = 5 || e.state = 6 then some 0x11
  else if e.state ≠ 1 then some 0x12
  else if e.faulted then some 0x18
  else if e.pending.isNone then some 0x17 else none

/-- The slot of the first SEQ_ID that is too large or appears a second time. -/
def badListSlot (l : List Nat) : Option Nat :=
  (l.zipIdx.find? (fun p => decide (4096 ≤ p.1) || (l.take p.2).contains p.1)).map (·.2)

/-- Checks 1 to 4 of R288, and that the sequences lie in one replica (R349). -/
def State.stepFault (s : State) (w : Nat) (t : Taken) : Option Answer :=
  let m := t.at 0x22 1
  let g := t.at 0x20 2
  match badListSlot t.list with
  | some i => some { badField 0x28 with result := natLe 2 i }
  | none =>
    if (s.model m).state ≠ 2 then some (badState 0x13)
    else if s.seqs.steps.any (fun p => p.group == g && (p.w % 16 != w % 16 || p.model != m)) then some (badState 0x31)
    else if s.inCascade && t.list.any (fun q => q % s.shapeR != ((t.list.head?).getD 0) % s.shapeR) then some (badState 0x61)
    else
      t.list.zipIdx.findSome? (fun p =>
        let e := s.seq p.1
        let reason := (stepSeqReason e).orElse (fun _ =>
          if e.model ≠ m then some 0x30
          else if 2 ≤ (s.stepsNaming p.1).length then some 0x32 else none)
        reason.map (fun r => { badState r with result := natLe 2 p.2 }))

/-- Output entries that a STEP reserves, by window (R280): those of its sequences that are open. -/
def State.stepReserve (s : State) (l : List Nat) : List (Nat × Nat) :=
  let n := fun o => (l.filter (fun q => (s.seq q).state != 0 && (s.seq q).outWindow == o)).length
  ((List.range 16).filter (fun o => n o ≠ 0)).map (fun o => (o, if n o = 1 then 2 else n o))

/-- The Stone core that serves window w (R84): core 0 in S0 and deeper (R409). -/
def State.servingCore (s : State) (w : Nat) : Nat := if 3 ≤ s.pwr.state then 0 else (s.win w).homeCore

/-- The core that serves window w runs (R97); in RECOVERY the Husk core serves window 0 (R428). -/
def State.coreServes (s : State) (w : Nat) : Bool :=
  if s.recovery then w == 0 else (s.core (s.servingCore w)).state == 1

/-- Window w is HELD_CONFIG: its rings are ill placed (R98), or the core that it names is HELD (R381). -/
def State.winHeld (s : State) (w : Nat) : Bool :=
  let v := s.win w
  v.heldConfig || (v.enable && !s.coreServes w && s.released && (s.core v.homeCore).state == 3)

/-- An output window can never satisfy R80 for a reservation (R82). -/
def State.outNever (s : State) (r : Nat × Nat) : Bool :=
  !(s.win r.1).enable || s.winHeld r.1 || decide (2 ^ (s.win r.1).outLog2 < r.2)

/-- RESULT of check 5 of R288: the slot of the first entry whose window breaks R82, and the window; empty when none does. -/
def State.stepOutFault (s : State) (l : List Nat) : List Byte :=
  let bad := (s.stepReserve l).filter s.outNever
  ((l.zipIdx.find? (fun p => (s.seq p.1).state != 0 && bad.any (fun r => r.1 == (s.seq p.1).outWindow))).map
    (fun p => natLe 2 p.2 ++ natLe 1 (s.seq p.1).outWindow)).getD []

/-- The output rings have room for a STEP's reservation now. -/
def State.stepOutRoom (s : State) (l : List Nat) : Bool :=
  (s.stepReserve l).all (fun r => decide (r.2 ≤ (s.win r.1).outRoom))

/-! ## Slots and fences -/

/-- The 256 bytes of the slot of sequence count n of window w (R78). -/
def State.slotBytes (s : State) (w n : Nat) : List Byte := tslice 0 s.bar2 (w * 0x100000 + n % 4096 * 0x100) 256

/-! ## Punnets (R325 to R330) -/

/-- Bytes of an LBA (R321). -/
def lbaBytes : Nat := 4096

/-- LBAs of park space of port p that no park holds. -/
def State.punFreeLbas (s : State) (p : Nat) : Nat :=
  (s.punPort p).lbas - ((s.pun.parks.filter (fun k => k.port == p)).map (·.lbas)).sum

/-- A park is live: its reply has been written and its deadline lies ahead (R328). -/
def State.parkLive (s : State) (k : Park) : Bool := k.state == 4 && decide (s.now < k.deadline)

/-- WRITTEN of a port (R329). -/
def PunPort.written (v : PunPort) : Nat := v.writtenRead + v.writtenSince

/-- USED_BP of a port (R329). -/
def PunPort.usedBp (v : PunPort) : Nat := if v.rated = 0 then 0 else min 10000 (v.written * 10000 / v.rated)

/-- The live and unfinished parks of a port. -/
def State.parksOn (s : State) (p : Nat) : List Park := s.pun.parks.filter (fun k => k.port == p)

/-- RESULT of PUNNET_QUERY. -/
def State.punnetResult (s : State) (p : Nat) : List Byte :=
  let v := s.punPort p
  natLe 1 v.state ++ natLe 1 v.wear ++ natLe 2 v.usedBp ++ natLe 4 (lbaBytes * s.punFreeLbas p / 2 ^ 30) ++
  natLe 4 ((s.parksOn p).filter s.parkLive).length ++ natLe 8 v.fingerprint

/-- The record that stands in window w's next slot, as it would be taken now. (DESIGN CHOICE, log entry 31) -/
def State.candidate (s : State) (w : Nat) : Taken :=
  let n := (s.win w).expect
  let b := s.slotBytes w n
  { n := n, bytes := b, ordinal := s.seqs.boundaryCnt, stamp := s.now, list := [], reserved := [],
    started := false, orphan := false, core := s.servingCore w, at_ := s.now, order := s.seqs.nextId, formed := none,
    shown := if fld b 0 1 = 0x52 then runResult ((s.pip (fld b 0x20 1)).runAt (fld b 0x21 1))
      else if fld b 0 1 = 5 then s.report b
      else if fld b 0 1 = 0x71 then s.punnetResult (fld b 0x20 1)
      else if fld b 0 1 = 0x41 && fld b 0x22 2 != 0xFFFF && (tget MaskSlot.free s.seqs.masks (fld b 0x22 2)).owner.isNone then [1]
      else [],
    progress := 0 }

/-- Checks 1 to 3 of R85: DETAIL of the first that fails. -/
def voidDetail (t : Taken) : Option Nat :=
  if t.at 0xF8 4 ≠ t.at 4 4 then some 0x100
  else if t.at 4 4 ≠ t.n then some 0x101
  else if t.at 0xFC 4 ≠ (crc32c (t.bytes.take 0xFC)).toNat then some 0x102
  else none

/-- A FENCE record of the given scopes, taken and not completed, in window o. -/
def State.fenceIn (s : State) (o : Nat) (scopes : List Nat) : Bool :=
  let f := fun (t : Taken) => t.opcode == 1 && scopes.contains (t.at 0x20 1)
  (s.win o).taken.any f || (s.win o).orphans.any f

/-- A fence holds window w before the record t (R72, R94): FENCE_AFTER of a record of the window, a FENCE record in its scope, a fence
of the cascade group, or FENCE_BEFORE of t itself while an earlier record of the window has not completed. -/
def State.fenceHolds (s : State) (w : Nat) (t : Taken) : Bool :=
  (s.win w).fenceAfter.isSome || s.fenceIn w [0] || (List.range 16).any (fun o => s.fenceIn o [1, 2]) ||
  !s.vine.fenceWaits.isEmpty || ((voidDetail t).isNone && bit (t.at 1 1) 0 && decide ((s.win w).inflight ≠ 0))

/-- A CXL Reset waits for the steps that it found FORMED (R73). Until then nothing is taken. (DESIGN CHOICE, log entry 16) -/
def State.resetting (s : State) : Bool := s.seqs.effects.any (fun e => match e.eff with | .dropModel _ => true | _ => false)

/-- The conditions of R80 other than the output condition of a STEP. -/
def State.canTake (s : State) (w : Nat) : Bool :=
  let v := s.win w
  s.live && s.coreServes w && !s.resetting && v.enable && !v.heldConfig && v.landed.contains (v.expect % 4096) &&
  !s.fenceHolds w (s.candidate w) && decide (v.inflight < 256) && v.replyRoom

/-- The list of a STEP as far as its record gives it inline. -/
def inlineList (t : Taken) : List Nat :=
  if t.at 0x23 1 = 0 then (List.range (min (t.at 0x24 2) 96)).map (fun i => t.at (0x38 + 2 * i) 2) else []

/-- A STEP of a list may be taken as far as its output rings go: room now, or never room (R80, R82). -/
def State.stepMayTake (s : State) (l : List Nat) : Bool := (s.stepReserve l).any s.outNever || s.stepOutRoom l

/-- The list of a STEP stands outside its record and is read for R80: what checks 4 to 9 reject already is not read. -/
def State.listApart (s : State) (t : Taken) : Bool :=
  t.opcode == 0x32 && t.at 0x23 1 != 0 && decide (t.at 0x23 1 ≤ 2) && inRange (t.at 0x24 2) 1 256 && t.at 0x28 8 % 64 == 0 &&
  t.at 2 1 == 1 && decide (2 ≤ s.host.proto)

/-- The list of a STEP in window w's next slot, as far as it is known: inline, or as last read (R80). -/
def State.knownList (s : State) (w : Nat) (t : Taken) : List Nat := if s.listApart t then (s.win w).outList else inlineList t

/-- Whether window w could take a record at once, for the round robin (R83). A STEP whose list has not been read counts, unless the list
lies behind bank pairs that a slice keeps closed (R142). (DEDUCED, log entry 17) -/
def State.couldTake (s : State) (w : Nat) : Bool :=
  let t := s.candidate w
  s.canTake w &&
  (t.opcode != 0x32 || (voidDetail t).isSome ||
    (if s.listApart t && (s.win w).outList.isEmpty then !(t.at 0x23 1 == 2 && s.closedIn (t.at 0x28 8) (2 * t.at 0x24 2))
    else s.stepMayTake (s.knownList w t)))

/-- No window that precedes w in the round could take a record (R83). (DESIGN CHOICE, log entry 7, DEDUCED, log entry 17) -/
def State.isNext (s : State) (w : Nat) : Bool :=
  (List.range ((w + 15 - s.lastWin) % 16)).all (fun i => !s.couldTake ((s.lastWin + 1 + i) % 16))

/-! ## Checks 4 to 9 (R85) -/

/-- The checks of orders 4 to 9 on a record that is not void. -/
def State.recordFault (s : State) (w : Nat) (t : Taken) : Option Answer :=
  if t.at 2 1 ≠ 1 then some (badField 2)
  else if !opcodes.contains t.opcode then some (badOpcode t.opcode)
  else if s.host.proto < 2 && decide (7 < t.opcode) then some (badState 1)
  else
    match lowest (authorityFaults s w t t.list) with
    | some o => some (notAuthorised o)
    | none =>
      match reservedFault t with
      | some o => some (badField o)
      | none => (firstBad (fieldChecks s t)).map badField

/-- What every record meets first at order 10: the opcodes that RECOVERY allows (R428), and the records that only the stem of a
cascade group takes (R349). -/
def State.stateFault (s : State) (t : Taken) : Option Answer :=
  if s.recovery && !(t.opcode == 0 || t.opcode == 6 || t.opcode == 7 ||
      (t.opcode == 2 && (t.at 0x20 2 == 0 || t.at 0x20 2 == 0x500))) then some (badState 0x86)
  else if (s.vine.state == 2 || s.vine.state == 4 || s.vine.state == 5) && (inRange t.opcode 0x30 0x43 || t.opcode == 0x62)
  then some (badState 0x60)
  else none

/-! ## Taking -/

/-- The record t leaves its slot and counts as taken (R80): EXPECT advances, the landed flag clears, FENCE_AFTER holds the window. -/
def takeSlot (w : Nat) (t : Taken) (void : Bool) (s : State) : State :=
  let s := s.modWin w (fun v => { v with
    expect := (v.expect + 1) % 2 ^ 32, landed := serase (t.n % 4096) v.landed, taken := v.taken ++ [t], outList := [],
    errVoid := v.errVoid || void,
    fenceAfter := if !void && bit (t.at 1 1) 1 then some t.n else v.fenceAfter })
  { s with lastWin := w, seqs := { s.seqs with nextId := s.seqs.nextId + 1 } }

/-- Output entries reserved for a record (R81). -/
def reserveOutput (rs : List (Nat × Nat)) (s : State) : State :=
  rs.foldl (fun s r => s.modWin r.1 (fun v => { v with outReserved := v.outReserved + r.2 })) s

/-- The FORMED step that names the sequence a record names (R254). -/
def State.formedNaming (s : State) (t : Taken) : Option Nat :=
  match recordSeqs t with
  | q :: _ => if t.opcode = 0x32 then none else ((s.stepsNaming q).find? (fun p => p.state == 2)).map (·.id)
  | [] => none

/-- The sequence list of a STEP: read when the record could be taken (R80, R288). -/
def State.stepList (s : State) (t : Taken) (src : Src) : SrcOut × State :=
  if s.listApart t then readSource (t.at 0x23 1 == 1) (t.at 0x28 8) (2 * t.at 0x24 2) src s
  else (.bytes (if t.opcode = 0x32 then (inlineList t).flatMap (natLe 2) else []), s)

/-- Little-endian words of n bytes. -/
def wordsOf (n : Nat) (d : List Byte) : List Nat := (chunksOf n d).map leNat

/-- Window w takes the record in its next slot and checks it (R80 to R86). (DEDUCED, log entry 17) -/
def takeRecord (w : Nat) (src : Src) (s : State) : State :=
  if !(s.canTake w && s.isNext w) then s else
  let t := s.candidate w
  match voidDetail t with
  | some d => complete w t.n { badField d with flags := flagVoid } (takeSlot w t true s)
  | none =>
    match s.stepList t src with
    | (.waiting, _) => s
    | (.poison a, s) =>
      match s.recordFault w t with
      | some b => complete w t.n b (takeSlot w t false s)
      | none => complete w t.n a (takeSlot w t false s)
    | (.bytes d, s) =>
      let t := { t with list := wordsOf 2 d, formed := s.formedNaming t }
      let step := t.opcode == 0x32
      if step && !s.stepMayTake t.list then s.modWin w (fun v => { v with outList := t.list })
      else
        match (s.recordFault w t).orElse (fun _ => s.stateFault t) with
        | some b => complete w t.n b (takeSlot w t false s)
        | none =>
          if !step then forwardRecord t (takeSlot w t false s)
          else if (s.stepReserve t.list).any s.outNever then takeSlot w { t with shown := s.stepOutFault t.list } false s
          else
            let rs := s.stepReserve t.list
            reserveOutput rs (takeSlot w { t with reserved := rs } false s)

/-! ## WIN_STATUS (R98) -/

/-- The record in window w's next slot waits only for room in an output ring: it is a STEP, its list is known, and it cannot be taken
(R82). -/
def State.outputHolds (s : State) (w : Nat) : Bool :=
  let t := s.candidate w
  (s.win w).landed.contains ((s.win w).expect % 4096) && (voidDetail t).isNone && t.opcode == 0x32 &&
  !(s.listApart t && (s.win w).outList.isEmpty) && !s.stepMayTake (s.knownList w t)

/-- WIN_STATUS.STATE of window w. Where several holds apply the first of fence, records in flight, reply ring and output ring reads; all but
the last read whether or not a record has landed in the next slot. (DESIGN CHOICE, log entry 53) -/
def State.winState (s : State) (w : Nat) : Nat :=
  let v := s.win w
  let t := s.candidate w
  if v.heldConfig then 6
  else if !v.enable then 0
  else if s.winHeld w then 6
  else if s.fenceHolds w { t with bytes := if v.landed.contains (v.expect % 4096) then t.bytes else [] } then 2
  else if 256 ≤ v.inflight then 3
  else if !v.replyRoom then 4
  else if s.outputHolds w then 5
  else 1

end Sys2Proof.Machine
end

