-- ==== Sys2Proof/Machine/Derived.lean ====
section
/-! DEFINITION. Values that the spec derives from the state: core rails and wake times, pip credit, budget windows, punnet space and
wear, the pages and keys in use, loaded slots (spec 06, 10, 11, 12, 14, 15, 19). -/

namespace Sys2Proof.Machine

/-! ## Pip stacks (R150) -/

/-- The thermal cap of a pip stack by its thermal row. -/
def thermalCap (row : Nat) : Nat := (([512, 256, 128, 64, 0] : List Nat)[row]?).getD 0

/-- PIP_CREDIT.EFFECTIVE of pip stack k. -/
def State.pipEffective (s : State) (k : Nat) : Nat := min (s.pip k).limit (thermalCap (s.stack (stackOfPip k)).thermal)

/-! ## Budgets (R281, R282) -/

/-- The index of the budget window that contains a stamp; windows before ORIGIN have negative indices. -/
def State.budgetWindow (s : State) (stamp : Nat) : Int :=
  Int.fdiv ((stamp : Int) - (s.seqs.origin : Int)) (s.seqs.windowMs * 100000 : Nat)

/-- Customer c. -/
def State.customer (s : State) (c : Nat) : Customer := tget Customer.initial s.seqs.customers c

/-- SPENT of customer c in the window that contains a stamp. -/
def State.spentAt (s : State) (c stamp : Nat) : Nat :=
  if (s.customer c).window = s.budgetWindow stamp then (s.customer c).spent else 0

/-- Customer c is exhausted in the window that contains a stamp. -/
def State.exhausted (s : State) (c stamp : Nat) : Bool :=
  s.seqs.budgetEn && decide ((s.customer c).budget ≠ 0xFFFFFFFF) && decide ((s.customer c).budget ≤ s.spentAt c stamp)

/-- Customers exhausted in the current window: only those whose budget was set can be. -/
def State.heldCustomers (s : State) : Nat := (s.seqs.customers.filter (fun p => s.exhausted p.1 s.now)).length

/-- The group size as last confirmed; the module itself in no group (R279). -/
def State.groupSize (s : State) : Nat := s.seqs.groupSize

/-- Tokens are delivered PER_STEP: the group has more than 8 modules (R279). -/
def State.perStep (s : State) : Bool := decide (8 < s.seqs.groupSize)

/-- Mask slot m. -/
def State.mask (s : State) (m : Nat) : MaskSlot := tget MaskSlot.free s.seqs.masks m

/-! ## Pages, keys and slots -/

/-- Page p of the pool. -/
def State.page (s : State) (p : Nat) : PoolPage := tget PoolPage.free s.seqs.pages p

/-- Pages in use of a kind, not counting pages marked for release. -/
def State.pagesOf (s : State) (use : Nat) : Nat := (s.seqs.pages.filter (fun e => e.2.use == use && !e.2.marked)).length

/-- KV pages that a page list or a bramble node names (R267): those in use but the ones that an append's reservation alone holds. -/
def State.kvPages (s : State) : Nat :=
  let reserved := s.seqs.entries.flatMap (fun e => e.2.appends.flatMap (fun a => a.reserved.map (·.2)))
  let listed := s.seqs.entries.flatMap (fun e => e.2.pages.map (·.page))
  let only := (reserved.filter (fun p => !listed.contains p && (s.page p).use == 1 && !(s.page p).marked)).eraseDups
  s.pagesOf 1 - only.length

/-- FREE: pages of the pool that are not in use. -/
def State.freePages (s : State) : Nat := s.mem.poolTotal - s.seqs.pages.length

/-- Key slots held (R317). -/
def State.keysUsed (s : State) : Nat := s.codec.keySlots.length

/-- Numbers as a bit mask. -/
def maskOf (l : List Nat) : Nat := l.foldl (fun m i => setBit m i true) 0

/-- ZST_VALID_CUR or ZST_VALID_SHD of a bank. -/
def zestValid (b : ZestBank) : Nat := maskOf (b.programs.map (·.1)) * 2 ^ 32 + maskOf (b.tables.map (·.1))

/-- Drupe engine e. -/
def State.drupeEngine (s : State) (e : Nat) : DrupeEngine := tget DrupeEngine.reset s.drupe.engines e

/-- Press engine e. -/
def State.pressEngine (s : State) (e : Nat) : PressEngine := tget PressEngine.reset s.press.engines e

/-- Press engine e changed by f. -/
def State.modPress (s : State) (e : Nat) (f : PressEngine → PressEngine) : State :=
  s.setPress { s.press with engines := tmod PressEngine.reset s.press.engines e f }

/-- The shadow bank's number. -/
def State.shadow (s : State) : Nat := 1 - s.zest.current

/-- A section's job is on a bank and has not ended. -/
def State.bankBusy (s : State) (b : Nat) : Bool :=
  s.zest.jobs.any (fun j => match j.2 with | some v => v.bank == b && v.result.isNone | none => false)

/-- The state with Drupe engine e changed. -/
def State.modDrupe (s : State) (e : Nat) (f : DrupeEngine → DrupeEngine) : State :=
  s.setDrupe { s.drupe with engines := tmod DrupeEngine.reset s.drupe.engines e f }

/-- The engine without a group: its tiles are free. -/
def PressEngine.drop (v : PressEngine) (g : Nat) : PressEngine := { v with groups := v.groups.filter (fun x => x.1 != g) }

/-- FAULT_N is driven low: after release by R387, in RECOVERY, HALTED and FATAL always (R427). -/
def State.faultPin (s : State) : Bool :=
  if s.released then
    s.log.statFatal || (s.log.statNotice && bit s.log.pinMask 0) || (s.log.statContained && bit s.log.pinMask 1) ||
    (s.log.statUnit && bit s.log.pinMask 2)
  else decide (8 ≤ s.boot.stage)

/-- MOD_BOOT_TIME.STAGE_US (R433): the time in the present stage, or in the stage that failed. -/
def State.stageTime (s : State) : Nat :=
  if s.boot.stage = 8 || s.boot.stage = 9 then s.boot.stageUs else (s.now - s.boot.stageAt) / 100

/-! ## Identity keys (R390) -/

/-- The seed of the module's own key (0) or of wedge w's (w + 1). -/
def identityKey (k : Nat) : List Byte :=
  hkdf (natLe 32 Config.identitySeed.toNat) (natLe 8 Config.serial.toNat)
    (if k = 0 then ascii "ID-MODULE" else ascii "ID-WEDGE" ++ natLe 1 (k - 1)) 32

/-! ## The Press instruction on the bus (R179) -/

/-- A Press instruction in its 32-byte layout. -/
def pressBytes (i : PressInstr) : List Byte :=
  natLe 1 i.op ++ natLe 1 i.group ++ natLe 1 i.tile ++ natLe 1 i.count ++ natLe 2 i.rows ++ natLe 1 i.fmt ++
    natLe 1 i.lenLog2 ++ natLe 4 i.mat ++ natLe 4 i.col ++ natLe 8 i.wsrc ++ natLe 8 i.addr

end Sys2Proof.Machine
end

