-- ==== Sys2Proof/Machine/Registers.lean ====
section
/-! DEFINITION. The registers of BAR0: where each stands and how wide it is, what it reads, what a read clears, and what a write does
(spec 22, and the chapter of each register's field map). -/

namespace Sys2Proof.Machine

/-- A percentage or count that the spec has measured and leaves to the hardware: free after release, 0 before (log entry 13).
(DESIGN CHOICE, log entry 3, DESIGN CHOICE, log entry 13) -/
def State.measured (s : State) (i n : Nat) : Nat := if s.released then Config.freeValue (s.freeCtr + i) % n else 0

/-! ## Where the registers stand (R439 to R447) -/

/-- Width in bytes of the register that starts at an offset of a block. -/
def widthIn (block o : Nat) : Option Nat :=
  let has := fun (w4 w8 : List Nat) (p : Nat) =>
    if w4.contains p then some 4 else if w8.contains p then some 8 else none
  match block with
  | 0 =>
    if 0x8000 ≤ o && o < 0x10000 && o % 8 = 0 then some 8
    else has [0x20, 0x40, 0x60, 0x80, 0x100, 0x110, 0x114, 0x180, 0x184, 0x188, 0x18C]
      [0, 8, 0x10, 0x18, 0x28, 0x48, 0x68, 0x88, 0x90, 0x108, 0x190, 0x198, 0x1A0] o
  | 1 => if 0x10000 ≤ o then none else
      has [0, 4, 8, 0x18, 0x1C, 0x20, 0x30, 0x34, 0x38, 0x3C, 0x40, 0x44] [0x10, 0x28] (o % 0x1000)
  | 2 => has [0] [8, 0x10, 0x18, 0x20, 0x28] o
  | 3 => has [0, 8, 0x20] [0x10, 0x18, 0x28] (o % 0x10000)
  | 4 => if 0x80000 ≤ o then none else
      if inRange (o % 0x10000) 0x100 0x17F && o % 8 = 0 then some 8 else has [0, 8, 0x10] [0x18, 0x20] (o % 0x10000)
  | 5 => if o ≤ 0x80 && o % 8 = 0 then some 8 else none
  | 6 => if inRange o 0x100 0x27F && o % 16 = 0 then some 8 else has [0, 8, 0x18] [0x10, 0x20] o
  | 7 => if inRange o 0x100 0x17F && o % 16 = 0 then some 8 else has [0] [8, 0x18] o
  | 8 => has [0, 0x20] [8, 0x10, 0x18] o
  | 9 => has [0, 8, 0x20] [0x10, 0x18] o
  | 10 => if inRange o 0x100 0x1FF && o % 8 = 0 then some 8 else has [0, 8] [0x40, 0x48] o
  | 11 => if 0x4000 ≤ o then none else has [0] [8, 0x10, 0x18, 0x20, 0x28] (o % 0x1000)
  | 12 => if inRange o 0x100 0x1BF && o % 16 = 0 then some 8 else has [0] [8, 0x10, 0x18, 0x20] o
  | 13 => has [0, 0x10] [8, 0x18] o
  | 14 => has [0, 8, 0x10, 0x20] [0x28, 0x40, 0x48, 0x50, 0x58] o
  | 15 => if inRange o 0x100 0x1FF && o % 8 = 0 then some 8 else none
  | _ => none

/-- Width in bytes of the register that starts at a BAR0 offset. -/
def regWidth (off : Nat) : Option Nat := widthIn (off / 0x100000) (off % 0x100000)

/-- Some register covers a byte of [off, off + size). -/
def regTouched (off size : Nat) : Bool :=
  (regWidth off).isSome || (size == 8 && (regWidth (off + 4)).isSome) || (decide (4 ≤ off) && regWidth (off - 4) == some 8)

/-- What an access to BAR0 meets: a register with its own width, an offset without one, or an access that R9 turns away. -/
inductive Access where
  | register | empty | bad
  deriving DecidableEq, Repr

/-- The areas that RECOVERY opens (R428). (DEDUCED, log entry 33) -/
def recoveryArea (off : Nat) : Bool :=
  decide (off < 0x100000) || inRange off 0x100000 0x100FFF || inRange off 0xD00000 0xDFFFFF

/-- How an access of size bytes at an offset is handled (R9, R440, R428). -/
def State.access (s : State) (off size : Nat) : Access :=
  if s.recovery && !recoveryArea off then .bad
  else if (size = 4 || size = 8) && off % size = 0 then
    if regWidth off = some size then .register else if regTouched off size then .bad else .empty
  else .bad

/-- BAR0 and BAR2 answer the host: the link is up, configuration space is live and memory space is enabled (R54, R425).
(DEDUCED, log entry 33) -/
def State.barOpen (s : State) : Bool := decide (s.host.proto ≠ 0) && s.host.configLive && s.host.memSpace

/-! ## What the registers read -/

/-- An error log entry in its 32-byte layout (R368). -/
def errEntryBytes (e : ErrEntry) : List Byte :=
  natLe 4 e.seq ++ natLe 2 e.code ++ natLe 1 e.severity ++ natLe 1 e.unitKind ++ natLe 8 e.stamp ++ natLe 8 e.addr ++
    natLe 4 e.detail ++ natLe 1 e.unitIndex ++ natLe 1 e.count ++ natLe 2 e.seq

/-- Entries of the sequence table in a state of a list. -/
def State.entriesIn (s : State) (p : Nat → Bool) : Nat := (s.seqs.entries.filter (fun e => p e.2.state)).length

/-- Engines below n in a phase, as a mask. -/
def phaseMask (n : Nat) (phase : Nat → Nat) (p : Nat) : Nat := maskOf ((List.range n).filter (fun e => phase e == p))

/-- MOD block. -/
def modRead (s : State) (o : Nat) : Nat :=
  match o with
  | 0 => modIdWord 0
  | 8 => modIdWord 1
  | 0x10 => modIdWord 2
  | 0x18 => modIdWord 3
  | 0x20 => packed [(16, 8, s.boot.fail), (9, 1, b2n s.sec.trial), (8, 1, b2n s.boot.degraded), (0, 4, s.boot.stage)]
  | 0x28 => packed [(32, 32, s.boot.releaseUs), (0, 32, s.stageTime)]
  | 0x40 => packed [(8, 1, b2n s.seqs.prefetchEn), (0, 3, s.seqs.maxInflight)]
  | 0x48 => s.seqs.boundaryCnt % 2 ^ 64
  | 0x60 => packed [(16, 13, s.entriesIn (· == 2)), (0, 13, s.entriesIn (· != 0))]
  | 0x68 => packed [(32, 32, s.pun.expired), (0, 32, (s.pun.parks.filter s.parkLive).length)]
  | 0x80 => packed [(31, 1, b2n s.seqs.pinEn), (24, 3, s.seqs.drupePrompt), (20, 4, s.seqs.pressPrompt),
      (8, 8, s.seqs.maxMs), (0, 8, s.seqs.quota)]
  | 0x88 => packed [(32, 32, s.seqs.edges), (24, 8, s.seqs.early), (16, 8, phaseMask 8 (fun e => (s.pressEngine e).phase) 0),
      (8, 8, phaseMask 8 (fun e => (s.pressEngine e).phase) 1),
      (0, 5, popCount 24 (phaseMask 24 (fun e => (s.drupeEngine e).phase) 1))]
  | 0x90 => packed [(32, 9, s.seqs.variants.length),
      (0, 32, ceilDiv ((s.seqs.variants.map (fun v => 520 * v.2.blocks.length)).sum) 1048576)]
  | 0x100 => packed [(16, 16, s.host.downCnt), (12, 1, b2n s.host.cacheEn), (11, 1, b2n s.host.memEn), (6, 5, s.host.width),
      (3, 3, s.host.rate), (0, 3, s.host.proto)]
  | 0x108 => packed [(12, 29, s.host.biasBase / 4096)]
  | 0x110 => packed [(0, 30, s.host.biasLen)]
  | 0x114 => packed [(16, 2, s.host.biasResult), (8, 1, b2n s.host.biasTarget)]
  | 0x180 => packed [(16, 3, s.log.pinMask), (0, 14, s.log.repairMs)]
  | 0x184 => packed [(31, 1, b2n s.log.statFatal), (3, 1, b2n s.log.statUnit), (2, 1, b2n s.log.statContained),
      (1, 1, b2n s.log.statNotice)]
  | 0x188 => s.log.tail % 2 ^ 32
  | 0x18C => s.log.head % 2 ^ 32
  | 0x190 => packed [(32, 32, s.log.lost), (0, 32, s.log.coalesced)]
  | 0x198 => packed [(48, 16, s.mem.suspect), (32, 16, s.mem.repaired),
      (0, 13, (s.mem.quarantine.filter (fun q => q.2.state != 0)).length)]
  | 0x1A0 => packed [(32, 32, s.ctl.revoked), (28, 4, s.ctl.revClass), (8, 8, s.ctl.revKind), (0, 8, s.ctl.revIndex)]
  | _ => fld (errEntryBytes (tget ErrEntry.none s.log.ring ((o - 0x8000) / 32))) ((o - 0x8000) % 32) 8

/-- WIN block: register o of window w (R98). -/
def winRead (s : State) (w o : Nat) : Nat :=
  let v := s.win w
  match o with
  | 0 => packed [(8, 3, v.homeCore), (0, 1, b2n v.enable)]
  | 4 => packed [(29, 3, s.winState w), (0, 9, v.inflight)]
  | 8 => v.expect
  | 0x10 => v.replyBase
  | 0x18 => v.replyLog2
  | 0x1C => v.replyHead % 2 ^ 32
  | 0x20 => v.replyTail % 2 ^ 32
  | 0x28 => v.outBase
  | 0x30 => v.outLog2
  | 0x34 => v.outHead % 2 ^ 32
  | 0x38 => v.outTail % 2 ^ 32
  | 0x3C => v.tenantWord
  | 0x40 => packed [(16, 16, v.irqDelay), (8, 8, v.irqCount), (1, 1, b2n v.outEn), (0, 1, b2n v.replyEn)]
  | _ => packed [(4, 1, b2n v.errHead), (3, 1, b2n v.errConfig), (2, 1, b2n v.errBadWrite), (1, 1, b2n v.errLate),
      (0, 1, b2n v.errVoid)]

/-- MEM block (R130, R267). -/
def memRead (s : State) (o : Nat) : Nat :=
  match o with
  | 0 => packed [(21, 11, s.mem.scrubMin), (9, 12, s.mem.scrubSec), (0, 1, b2n s.mem.scrubEn)]
  | 8 => packed [(32, 32, s.mem.passes), (0, 32, s.mem.ledgerFail)]
  | 0x10 => packed [(0, 41, s.mem.plainSize)]
  | 0x18 => packed [(24, 20, s.mem.poolTotal), (0, 20, s.freePages)]
  | 0x20 => packed [(40, 20, s.pagesOf 3), (20, 20, s.pagesOf 2), (0, 20, s.kvPages)]
  | _ => packed [(32, 32, s.seqs.attached), (0, 19, s.seqs.bramble.length)]

/-- HBM block: register o of stack i (R130). -/
def hbmRead (s : State) (i o : Nat) : Nat :=
  let v := s.stack i
  match o with
  | 0 => packed [(24, 8, v.temp), (22, 2, if v.thermal = 4 then 3 else v.refresh), (16, 6, popCount 32 v.chMap),
      (0, 3, if (v.powerSr || v.thermal == 4) && v.state != 4 && v.state != 0 then 3 else v.state)]
  | 8 => v.chMap
  | 0x10 => v.spares % 2 ^ 64
  | 0x18 => v.spares / 2 ^ 64 % 2 ^ 64
  | 0x20 => v.capMib
  | _ => packed [(32, 32, v.uncorr), (0, 32, v.corr)]

/-- Lane sums that the gatherer's row slots hold: slots in use (R136). -/
def State.gatherBusy (s : State) (k : Nat) : Nat := (s.pip k).gather.length

/-- PIP block: register o of pip stack k (R152). -/
def pipRead (s : State) (k o : Nat) : Nat :=
  let v := s.pip k
  match o with
  | 0 => packed [(16, 4, v.stepRatio), (0, 13, v.sliceCyc)]
  | 8 => packed [(20, 7, s.measured 0 101), (10, 10, s.pipEffective k), (0, 10, v.limit)]
  | 0x10 =>
    let row := (s.stack (stackOfPip k)).thermal
    packed [(16, 16, v.hotCnt), (0, 2, if row = 0 then 0 else if row = 4 then 2 else 1)]
  | 0x18 => packed [(32, 32, v.fenceCount), (31, 1, b2n v.fenceKind), (30, 1, b2n v.fenceOutside), (15, 11, v.fencePip),
      (0, 15, v.fenceRow)]
  | 0x20 => packed [(32, 14, s.gatherBusy k), (0, 32, v.rowsRc)]
  | _ =>
    let r := v.runAt ((o - 0x100) / 8)
    packed [(32, 32, r.slices), (21, 11, if r.faults = 0 then 0 else r.faultPip), (8, 8, r.faults), (0, 3, r.state)]

/-- STN block (R446). -/
def stnRead (s : State) (o : Nat) : Nat :=
  if o = 0x80 || o % 16 = 0 then s.now % 2 ^ 64
  else
    let c := o / 16
    packed [(48, 16, (s.core c).resets),
      (16, 16, if (s.core c).state = 0 then 0 else maskOf ((List.range 16).filter (fun w => (s.win w).homeCore == c))),
      (0, 3, (s.core c).state)]

/-- DRP block (R172, R216). -/
def drpRead (s : State) (o : Nat) : Nat :=
  match o with
  | 0 => packed [(8, 5, s.drupe.drupeLimit), (0, 4, s.drupe.pipLimit)]
  | 8 => packed [(0, 5, s.drupe.rate)]
  | 0x10 => packed [(48, 16, s.drupe.skewExpected), (32, 16, s.drupe.skewFound), (24, 8, s.drupe.skewEngine),
      (16, 8, s.drupe.skewCount), (8, 8, s.drupe.skewMatrix), (0, 8, s.drupe.skewLayer)]
  | 0x18 => packed [(16, 2, s.drupe.force), (0, 14, s.drupe.defaultLimit)]
  | 0x20 => packed [(48, 16, s.drupe.reruns), (32, 16, s.drupe.kvSat), (28, 4, s.drupe.clipCause), (24, 4, s.drupe.clipPoint),
      (20, 4, s.drupe.clipModel), (0, 8, s.drupe.clipLayer)]
  | _ =>
    let e := s.drupeEngine ((o - 0x100) / 16)
    packed [(32, 32, min (e.readBytes / 2 ^ 20) (2 ^ 32 - 1)), (16, 2, e.phase), (8, 8, s.measured 1 101), (0, 8, s.measured 2 101)]

/-- PRS block (R196). -/
def prsRead (s : State) (o : Nat) : Nat :=
  match o with
  | 0 => packed [(0, 5, s.press.lenLog2)]
  | 8 => packed [(32, 32, s.press.key), (0, 1, b2n s.press.en)]
  | 0x18 => packed [(56, 8, s.press.faultCount), (48, 8, s.press.faultLayer), (32, 3, s.press.faultEngine),
      (26, 6, s.press.faultTile), (23, 3, s.press.faultGroup), (0, 4, s.press.faultKind)]
  | _ =>
    let e := s.pressEngine ((o - 0x100) / 16)
    packed [(32, 32, e.spills), (28, 4, e.groups.length), (22, 6, (e.groups.map (fun g => g.2.count)).sum),
      (16, 2, e.phase), (8, 8, s.measured 0 101), (0, 8, s.measured 1 101)]

/-- ZST block (R241). -/
def zstRead (s : State) (o : Nat) : Nat :=
  match o with
  | 0 => packed [(16, 16, s.zest.swaps), (1, 1, b2n (s.zest.swapping.isSome && s.bankBusy s.shadow)), (0, 1, s.zest.current)]
  | 8 => zestValid (s.zbank s.zest.current)
  | 0x10 => zestValid (s.zbank (1 - s.zest.current))
  | 0x18 => packed [(32, 32, s.zest.nanOut), (0, 32, s.zest.infOut)]
  | _ => packed [(24, 8, s.zest.faultCount), (19, 5, s.zest.faultSection), (18, 1, s.zest.faultBank),
      (17, 1, s.zest.faultKind), (12, 5, s.zest.faultSlot), (0, 12, s.zest.faultCorr)]

/-- PICK block (R285). -/
def pickRead (s : State) (o : Nat) : Nat :=
  match o with
  | 0 => packed [(16, 13, s.seqs.groupSize), (0, 1, b2n s.perStep)]
  | 8 => packed [(31, 1, b2n s.seqs.budgetEn), (16, 15, s.heldCustomers), (0, 16, s.seqs.windowMs)]
  | 0x10 => s.seqs.origin
  | 0x18 => packed [(48, 16, s.seqs.stopNoToken), (32, 16, s.seqs.stopLength), (16, 16, s.seqs.stopSequence),
      (0, 16, s.seqs.stopToken)]
  | _ => packed [(16, 16, s.seqs.heldCount), (0, 10, s.seqs.heldCustomer)]

/-- CODEC block (R319). -/
def codecRead (s : State) (o : Nat) : Nat :=
  match o with
  | 0 => packed [(16, 1, b2n s.codec.compressEn), (8, 5, s.codec.kvSlot), (0, 7, s.codec.declPct)]
  | 8 => packed [(16, 10, s.keysUsed), (0, 1, b2n s.mem.xtsEn)]
  | 0x40 => packed [(32, 32, s.codec.raw), (0, 32, s.codec.corrupt)]
  | 0x48 => packed [(32, 32, s.codec.faultStream), (16, 4, s.codec.faultSlot), (8, 3, s.codec.faultCodec),
      (0, 4, s.codec.faultKind)]
  | _ =>
    let c := s.codecSlot ((o - 0x100) / 16)
    if o % 16 = 0 then packed [(48, 16, c.bank1.gen), (32, 16, c.bank0.gen), (2, 1, b2n (!c.bank1.lens.isEmpty)),
      (1, 1, b2n (!c.bank0.lens.isEmpty)), (0, 1, c.current)]
    else packed [(32, 32, c.bank1.refs), (0, 32, c.bank0.refs)]

/-- PUN block: register o of port p (R335). -/
def punRead (s : State) (p o : Nat) : Nat :=
  let v := s.punPort p
  match o with
  | 0 =>
    let off := v.state = 5
    packed [(16, 4, if off then 0 else v.width), (13, 3, if off then 0 else v.rate), (8, 2, v.wear), (0, 3, v.state)]
  | 8 => v.fingerprint
  | 0x10 => packed [(48, 16, v.usedBp), (0, 48, v.written / 1000000)]
  | 0x18 => packed [(0, 48, v.rated / 1000000)]
  | 0x20 => packed [(32, 32, (s.pun.parks.filter (fun k => k.port == p && s.parkLive k)).length),
      (0, 32, lbaBytes * s.punFreeLbas p / 2 ^ 30)]
  | _ => packed [(48, 16, v.errCount), (32, 15, v.errStatus), (24, 4, v.errKind)]

/-- VINE block (R365). -/
def vineRead (s : State) (o : Nat) : Nat :=
  let v := s.vine
  match o with
  | 0 => packed [(24, 8, v.leaseMs), (16, 8, v.electMs), (8, 8, v.dead10us), (1, 1, b2n v.zrunEn), (0, 1, b2n v.en)]
  | 8 => v.groupId
  | 0x10 => packed [(61, 3, v.state), (58, 3, v.wLog2), (52, 6, v.dM1), (40, 12, v.rM1), (0, 12, v.member)]
  | 0x18 => packed [(32, 32, v.epoch), (19, 13, v.size), (12, 7, v.elections), (0, 12, v.stem)]
  | 0x20 => packed [(48, 16, v.errCount), (44, 4, v.errKind), (40, 4, v.errPort), (28, 12, v.errMember)]
  | _ =>
    let p := s.vinePort ((o - 0x100) / 16)
    packed [(48, 16, p.replays), (32, 16, p.fecCorr), (20, 12, p.peer.getD 0), (19, 1, b2n p.peer.isSome), (4, 4, p.width),
      (0, 4, p.state)]

/-- The fingerprint of the module's own key (R390, R405): set at bring-up. -/
def State.moduleFingerprint (s : State) : Nat :=
  if s.sec.boots = 0 || s.boot.stage ≤ 3 then 0 else fingerprint (edPublic (identityKey 0))

/-- SEC block (R405). -/
def secRead (s : State) (o : Nat) : Nat :=
  match o with
  | 0 => packed [(24, 7, s.sec.fusedSvn), (16, 7, s.sec.imageSvn), (8, 3, s.sec.otherState), (1, 1, b2n s.sec.trial),
      (0, 1, s.sec.slot)]
  | 8 => packed [(32, 32, s.sec.stageBytes), (0, 1, b2n s.sec.stageVerify)]
  | 0x10 => packed [(16, 16, s.sec.failCount), (0, 8, s.sec.failCode)]
  | _ => s.moduleFingerprint

/-- The average of the samples of the last millisecond. -/
def State.avgWatts (s : State) : Nat := if s.pwr.samples.isEmpty then 0 else s.pwr.samples.sum / s.pwr.samples.length

/-- PWR block (R46, R419). -/
def pwrRead (s : State) (o : Nat) : Nat :=
  match o with
  | 0 => packed [(16, 16, (entryWake s.pwr.state s.pwr.sub).2 / 10), (8, 2, s.pwr.sub), (7, 1, b2n s.pwr.transit),
      (4, 3, s.pwr.target), (0, 3, s.pwr.state)]
  | 8 => packed [(0, 10, s.pwr.vset)]
  | 0x10 => packed [(16, 1, b2n s.pwr.unmet), (0, 12, s.pwr.watts)]
  | 0x20 => packed [(16, 16, s.pwr.maxPs), (0, 16, s.pwr.curPs)]
  | 0x28 => packed [(48, 16, s.pwr.peakW), (32, 16, s.avgWatts), (0, 32, s.pwr.energy / 100000)]
  | _ =>
    let w := (o - 0x40) / 8
    packed [(56, 8, (s.wedge w).temp), (48, 2, (s.wedge w).dieState), (32, 10, s.railMv w), (16, 10, (s.wedge w).thermalMv),
      (0, 16, (s.wedge w).lowMs)]

/-- The instruction at the head of Press engine e's issue queue; zeros when it is empty (R447). -/
def State.pressHead (s : State) (e : Nat) : List Byte :=
  match (s.pressEngine e).queue with
  | [] => List.replicate 32 0
  | i :: _ => pressBytes i

/-- DBG block (R447): word 0 shows the queue's head, words 1 to 3 the latched instruction. -/
def dbgRead (s : State) (o : Nat) : Nat :=
  let e := (o - 0x100) / 32
  if o % 32 = 0 then fld (s.pressHead e) 0 8 else fld (s.pressEngine e).latch (o % 32) 8

/-- The value of the register that starts at a BAR0 offset. (DESIGN CHOICE, log entry 3, DESIGN CHOICE, log entry 13) -/
def regRead (s : State) (off : Nat) : Nat :=
  let o := off % 0x100000
  match off / 0x100000 with
  | 0 => modRead s o
  | 1 => winRead s (o / 0x1000) (o % 0x1000)
  | 2 => memRead s o
  | 3 => hbmRead s (o / 0x10000) (o % 0x10000)
  | 4 => pipRead s (o / 0x10000) (o % 0x10000)
  | 5 => stnRead s o
  | 6 => drpRead s o
  | 7 => prsRead s o
  | 8 => zstRead s o
  | 9 => pickRead s o
  | 10 => codecRead s o
  | 11 => punRead s (o / 0x1000) (o % 0x1000)
  | 12 => vineRead s o
  | 13 => secRead s o
  | 14 => pwrRead s o
  | _ => dbgRead s o

/-! ## What a read clears (R10, R443) -/

/-- Latches the head of engine e's queue (R447). -/
def latchPress (e : Nat) (s : State) : State := s.modPress e (fun v => { v with latch := s.pressHead e })

/-- The state after a host read of a register: RC fields cleared, word 0 of DBG_PRS_INSTR latched. (DESIGN CHOICE, log entry 13) -/
def readEffect (off : Nat) (s : State) : State :=
  let o := off % 0x100000
  let s := { s with freeCtr := s.freeCtr + 3 }
  match off / 0x100000 with
  | 0 =>
    if o = 0x68 then s.setPun { s.pun with expired := 0 }
    else if o = 0x88 then s.setSeqs { s.seqs with early := 0 }
    else if o = 0x100 then s.setHost { s.host with downCnt := 0 }
    else if o = 0x190 then s.setLog { s.log with lost := 0, coalesced := 0 }
    else if o = 0x198 then s.setMem { s.mem with repaired := 0 }
    else if o = 0x1A0 then s.setCtl { s.ctl with revoked := 0 }
    else s
  | 2 =>
    if o = 8 then s.setMem { s.mem with ledgerFail := 0 }
    else if o = 0x28 then s.setSeqs { s.seqs with attached := 0 } else s
  | 3 => if o % 0x10000 = 0x28 then s.modStack (o / 0x10000) (fun v => { v with corr := 0, uncorr := 0 }) else s
  | 4 =>
    let k := o / 0x10000
    if o % 0x10000 = 0x10 then s.modPip k (fun v => { v with hotCnt := 0 })
    else if o % 0x10000 = 0x18 then s.modPip k (fun v => { v with fenceCount := 0 })
    else if o % 0x10000 = 0x20 then s.modPip k (fun v => { v with rowsRc := 0 })
    else s
  | 5 => if o % 16 = 8 then s.modCore (o / 16) (fun v => { v with resets := 0 }) else s
  | 6 =>
    if o = 0x10 then s.setDrupe { s.drupe with skewCount := 0 }
    else if o = 0x20 then s.setDrupe { s.drupe with reruns := 0, kvSat := 0 }
    else if 0x100 ≤ o then s.modDrupe ((o - 0x100) / 16) (fun v => { v with readBytes := 0 }) else s
  | 7 =>
    if o = 0x18 then s.setPress { s.press with faultCount := 0 }
    else if 0x100 ≤ o then s.modPress ((o - 0x100) / 16) (fun v => { v with spills := 0 }) else s
  | 8 =>
    if o = 0x18 then s.setZest { s.zest with nanOut := 0, infOut := 0 }
    else if o = 0x20 then s.setZest { s.zest with faultCount := 0, faultCorr := 0 } else s
  | 9 =>
    if o = 0x18 then s.setSeqs { s.seqs with stopNoToken := 0, stopLength := 0, stopSequence := 0, stopToken := 0 }
    else if o = 0x20 then s.setSeqs { s.seqs with heldCount := 0 } else s
  | 10 => if o = 0x40 then s.setCodec { s.codec with raw := 0, corrupt := 0 } else s
  | 11 => if o % 0x1000 = 0x28 then s.modPun (o / 0x1000) (fun v => { v with errCount := 0 }) else s
  | 12 =>
    if o = 0x18 then s.setVine { s.vine with elections := 0 }
    else if o = 0x20 then s.setVine { s.vine with errCount := 0 }
    else if 0x100 ≤ o then s.modVinePort ((o - 0x100) / 16) (fun v => { v with replays := 0, fecCorr := 0 }) else s
  | 13 => if o = 0x10 then s.setSec { s.sec with failCount := 0 } else s
  | 14 =>
    if o = 0x20 then s.setPwr { s.pwr with maxPs := 0 }
    else if o = 0x28 then s.setPwr { s.pwr with peakW := 0 }
    else if 0x40 ≤ o then s.modWedge ((o - 0x40) / 8) (fun v => { v with lowMs := 0 }) else s
  | 15 => if o % 32 = 0 then latchPress ((o - 0x100) / 32) s else s
  | _ => s

/-! ## What a write does -/

/-- Sets a field where its value is allowed; otherwise the write is logged (R369). (DEDUCED, log entry 48) -/
def fieldWrite (off v : Nat) (ok : Bool) (f : State → State) (s : State) : State := if ok then f s else logInvalid off v s

/-- BAR0 offset of a window's register. -/
def winOff (w o : Nat) : Nat := 0x100000 + w * 0x1000 + o

/-- A window returned to its reset values; records that outlived a reset of the host port go on (R73, R98). -/
def Window.cleared (w : Nat) (orphans : List Taken) : Window := { Window.reset w with orphans := orphans }

/-- A write to WIN_CTL (R98): judged field by field against the register as it stood. -/
def winCtlWrite (w v : Nat) (s : State) : State :=
  let r := s.win w
  let off := winOff w 0
  if bit v 1 && !r.enable && r.inflight == 0 && r.outReserved == 0 then s.setWin w (Window.cleared w r.orphans)
  else
    let s := if bit v 1 then logInvalid off v s else s
    let core := bits v 8 3
    let s :=
      if core = r.homeCore then s
      else if r.enable then logInvalid off v s
      else s.modWin w (fun r => { r with homeCore := core })
    let r := s.win w
    if !bit v 0 then s.modWin w (fun r => { r with enable := false, heldConfig := false })
    else if r.enable then s
    else if s.recovery && w ≠ 0 then logInvalid off v s
    else if r.configOk then s.modWin w (fun r => { r with enable := true, heldConfig := false })
    else s.modWin w (fun r => { r with enable := true, heldConfig := true, errConfig := true })

/-- A write to WIN_REPLY_HEAD (R90, R98). -/
def replyHeadWrite (w v : Nat) (s : State) : State :=
  s.modWin w (fun r =>
    match headCount r.replyTail v with
    | some c => { r with replyHead := c }
    | none => { r with errHead := true })

/-- A write to WIN_OUT_HEAD (R92, R98). -/
def outHeadWrite (w v : Nat) (s : State) : State :=
  s.modWin w (fun r =>
    match headCount r.outTail v with
    | some c => { r with outHead := c }
    | none => { r with errHead := true })

/-- A write to MOD_ERR_HEAD (R388). -/
def errHeadWrite (v : Nat) (s : State) : State :=
  match headCount s.log.tail v with
  | some c => s.setLog { s.log with head := c }
  | none => logInvalid 0x18C v s

/-- A write to MOD_ENG_BAL (R305, R306): fields out of range stay; a change of the pin fields makes the next boundary an edge.
(DEDUCED, log entry 48) -/
def engBalWrite (v : Nat) (s : State) : State :=
  let q := s.seqs
  let pin := bit v 31
  let dp := bits v 24 3
  let pp := bits v 20 4
  let ms := bits v 8 8
  let qu := bits v 0 8
  let s1 := s.setSeqs { q with
    pinEn := pin, drupePrompt := if dp ≤ 5 then dp else q.drupePrompt,
    pressPrompt := if inRange pp 1 7 then pp else q.pressPrompt, maxMs := if 5 ≤ ms then ms else q.maxMs,
    quota := if 1 ≤ qu then qu else q.quota }
  let s2 := if pin ≠ q.pinEn || s1.seqs.drupePrompt ≠ q.drupePrompt || s1.seqs.pressPrompt ≠ q.pressPrompt
    then s1.setSeqs { s1.seqs with edgeDue := true } else s1
  if dp ≤ 5 && inRange pp 1 7 && 5 ≤ ms && 1 ≤ qu then s2 else logInvalid 0x80 v s2

/-- A write to MOD_BIAS_CMD (R61, R64): GO starts the command on the range, or rejects it. -/
def biasCmdWrite (v : Nat) (s : State) : State :=
  let h := s.host
  let target := bit v 8
  let off := 0x114
  if !bit v 0 then s.setHost { h with biasTarget := target }
  else if h.biasResult = 1 then logInvalid off v (s.setHost { h with biasTarget := target })
  else
    let g := h.biasBase / 4096
    let n := h.biasLen
    if n = 0 || 0x20000000000 < 4096 * (g + n) then s.setHost { h with biasTarget := target, biasResult := 3 }
    else if s.mem.compute.any (fun c => overlaps (65536 * c) 65536 (4096 * g) (4096 * n)) then
      s.setHost { h with biasTarget := target, biasResult := 2 }
    else s.setHost { h with biasTarget := target, biasResult := 1, biasCmd := some { first := g, count := n, toHost := target } }

/-- A write to PWR_CAP (R414, R419, R444). -/
def pwrCapWrite (v : Nat) (s : State) : State :=
  let s := if bit v 16 then s.setPwr { s.pwr with unmet := false } else s
  fieldWrite 0xE00010 v (inRange (bits v 0 12) 1000 3200) (fun s => s.setPwr { s.pwr with watts := bits v 0 12 }) s

/-- MOD block. -/
def modWrite (o v : Nat) (s : State) : State :=
  match o with
  | 0x40 =>
    let s := s.setSeqs { s.seqs with prefetchEn := bit v 8 }
    fieldWrite o v (inRange (bits v 0 3) 1 4) (fun s => s.setSeqs { s.seqs with maxInflight := bits v 0 3 }) s
  | 0x80 => engBalWrite v s
  | 0x108 => s.setHost { s.host with biasBase := 4096 * bits v 12 29 }
  | 0x110 => s.setHost { s.host with biasLen := bits v 0 30 }
  | 0x114 => biasCmdWrite v s
  | 0x180 =>
    let s := s.setLog { s.log with pinMask := bits v 16 3 }
    fieldWrite o v (inRange (bits v 0 14) 1 10000) (fun s => s.setLog { s.log with repairMs := bits v 0 14 }) s
  | 0x184 => s.setLog { s.log with
      statUnit := s.log.statUnit && !bit v 3, statContained := s.log.statContained && !bit v 2,
      statNotice := s.log.statNotice && !bit v 1 }
  | 0x18C => errHeadWrite v s
  | _ => s

/-- With COUNT or the enables of a window written, the vector is due when COUNT entries of its enabled rings stand (R93). -/
def irqDue (w : Nat) (s : State) : State :=
  let v := s.win w
  if (v.replyEn || v.outEn) && decide (0 < v.irqPending) && decide (v.irqCount ≤ v.irqPending) then
    msix w (s.modWin w (fun v => { v with irqPending := 0, irqFirst := none }))
  else s

/-- WIN block: a write to register o of window w (R82, R98). -/
def winWrite (w o v : Nat) (s : State) : State :=
  let r := s.win w
  let off := winOff w o
  let closed := fieldWrite off v (!r.enable)
  let outOk := fieldWrite off v (!r.enable && r.outReserved == 0)
  match o with
  | 0 => winCtlWrite w v s
  | 8 => closed (fun s => s.modWin w (fun r => { r with expect := v })) s
  | 0x10 => closed (fun s => s.modWin w (fun r => { r with replyBase := v / 4096 * 4096 })) s
  | 0x18 => closed (fun s => s.modWin w (fun r => { r with replyLog2 := bits v 0 5 })) s
  | 0x1C => replyHeadWrite w v s
  | 0x28 => outOk (fun s => s.modWin w (fun r => { r with outBase := v / 4096 * 4096 })) s
  | 0x30 => outOk (fun s => s.modWin w (fun r => { r with outLog2 := bits v 0 5 })) s
  | 0x34 => outHeadWrite w v s
  | 0x3C => closed (fun s => s.modWin w (fun r => { r with priv := bit v 31, tenant := bits v 0 16 })) s
  | 0x40 =>
    let s := s.modWin w (fun r => { r with irqDelay := bits v 16 16, outEn := bit v 1, replyEn := bit v 0 })
    irqDue w (fieldWrite off v (bits v 8 8 != 0) (fun s => s.modWin w (fun r => { r with irqCount := bits v 8 8 })) s)
  | 0x44 => s.modWin w (fun r => { r with
      errHead := r.errHead && !bit v 4, errConfig := r.errConfig && !bit v 3, errBadWrite := r.errBadWrite && !bit v 2,
      errLate := r.errLate && !bit v 1, errVoid := r.errVoid && !bit v 0 })
  | _ => s

/-- MEM block (R130). -/
def memWrite (o v : Nat) (s : State) : State :=
  if o ≠ 0 then s else
  let m := bits v 21 11
  let c := bits v 9 12
  let s := s.setMem { s.mem with
    scrubEn := bit v 0, scrubMin := if inRange m 1 1440 then m else s.mem.scrubMin,
    scrubSec := if inRange c 10 3600 then c else s.mem.scrubSec }
  if inRange m 1 1440 && inRange c 10 3600 then s else logInvalid 0x200000 v s

/-- PIP block: a write to register o of pip stack k (R152). -/
def pipWrite (k o v : Nat) (s : State) : State :=
  let off := 0x400000 + k * 0x10000 + o
  match o with
  | 0 =>
    let c := bits v 0 13
    let r := bits v 16 4
    let s := s.modPip k (fun p => { p with
      sliceCyc := if inRange c 1600 6240 then c else p.sliceCyc, stepRatio := if r ≠ 0 then r else p.stepRatio })
    if inRange c 1600 6240 && r != 0 then s else logInvalid off v s
  | 8 => fieldWrite off v (inRange (bits v 0 10) 1 512) (fun s => s.modPip k (fun p => { p with limit := bits v 0 10 })) s
  | _ => s

/-- DRP block (R172, R216). -/
def drpWrite (o v : Nat) (s : State) : State :=
  let off := 0x600000 + o
  match o with
  | 0 =>
    let d := bits v 8 5
    let p := bits v 0 4
    fieldWrite off v (decide (p ≤ 8) && decide (d ≤ 16) && decide (p ≤ d))
      (fun s => s.setDrupe { s.drupe with drupeLimit := d, pipLimit := p }) s
  | 8 => fieldWrite off v (inRange (bits v 0 5) 1 30) (fun s => s.setDrupe { s.drupe with rate := bits v 0 5 }) s
  | 0x18 =>
    let f := bits v 16 2
    let d := bits v 0 14
    let s := s.setDrupe { s.drupe with
      force := if f ≠ 3 then f else s.drupe.force, defaultLimit := if inRange d 1 10000 then d else s.drupe.defaultLimit }
    if f ≠ 3 && inRange d 1 10000 then s else logInvalid off v s
  | _ => s

/-- PRS block (R196). -/
def prsWrite (o v : Nat) (s : State) : State :=
  match o with
  | 0 => fieldWrite 0x700000 v (inRange (bits v 0 5) 8 16) (fun s => s.setPress { s.press with lenLog2 := bits v 0 5 }) s
  | 8 => s.setPress { s.press with key := bits v 32 32, en := bit v 0 }
  | _ => s

/-- CODEC block (R319). -/
def codecWrite (o v : Nat) (s : State) : State :=
  if o ≠ 0 then s else
  let k := bits v 8 5
  let d := bits v 0 7
  let kOk := decide (k ≤ 15) || k == 31
  let s := s.setCodec { s.codec with
    compressEn := bit v 16, kvSlot := if kOk then k else s.codec.kvSlot,
    declPct := if inRange d 50 100 then d else s.codec.declPct }
  if kOk && inRange d 50 100 then s else logInvalid 0xA00000 v s

/-- VINE block (R365): clearing EN holds every port DOWN. -/
def vineWrite (o v : Nat) (s : State) : State :=
  if o ≠ 0 then s else
  let l := bits v 24 8
  let e := bits v 16 8
  let d := bits v 8 8
  let s := s.setVine { s.vine with
    leaseMs := if 5 ≤ l then l else s.vine.leaseMs, electMs := if e ≠ 0 then e else s.vine.electMs,
    dead10us := if d ≠ 0 then d else s.vine.dead10us, zrunEn := bit v 1, en := bit v 0 }
  let s := if bit v 0 then s else
    (List.range 12).foldl (fun s p =>
      if (s.vinePort p).state = 0 then s
      else portDown p 2 s) s
  if 5 ≤ l && e ≠ 0 && d ≠ 0 then s else logInvalid 0xC00000 v s

/-- PWR block (R413, R414, R419). -/
def pwrWrite (o v : Nat) (s : State) : State :=
  match o with
  | 8 => fieldWrite 0xE00008 v (inRange (bits v 0 10) 650 850) (fun s => s.setPwr { s.pwr with vset := bits v 0 10 }) s
  | 0x10 => pwrCapWrite v s
  | _ => s

/-- A host write to the register that starts at a BAR0 offset. Registers without a writable field ignore it. -/
def regWrite (off v : Nat) (s : State) : State :=
  let o := off % 0x100000
  match off / 0x100000 with
  | 0 => modWrite o v s
  | 1 => winWrite (o / 0x1000) (o % 0x1000) v s
  | 2 => memWrite o v s
  | 4 => pipWrite (o / 0x10000) (o % 0x10000) v s
  | 6 => drpWrite o v s
  | 7 => prsWrite o v s
  | 10 => codecWrite o v s
  | 12 => vineWrite o v s
  | 14 => pwrWrite o v s
  | _ => s

/-! ## Accesses -/

/-- An access that R9 turns away: a write is discarded, a read answers all ones, and it is logged. -/
def badAccess (off size : Nat) (write : Bool) (s : State) : State :=
  let s := logErr 1 0 0 off size s
  if write then s else send (.regData size (2 ^ (8 * size) - 1)) s

/-- A host write of size bytes to BAR0 (R9, R440). -/
def hostRegWrite (off size v : Nat) (s : State) : State :=
  if !s.barOpen then s else
  match s.access off size with
  | .register => regWrite off v s
  | .empty => s
  | .bad => badAccess off size true s

/-- A host read of size bytes of BAR0 (R9, R10, R440, R443). -/
def hostRegRead (off size : Nat) (s : State) : State :=
  if !s.barOpen then s
  else if 0x1000000 ≤ off then send (.barData (tslice 0 s.bar2 (off - 0x1000000) size)) s else
  match s.access off size with
  | .register => readEffect off (send (.regData size (regRead s off)) s)
  | .empty => send (.regData size 0) s
  | .bad => badAccess off size false s

end Sys2Proof.Machine
end

