-- ==== Sys2Proof/Machine/Pages.lean ====
section
/-! DEFINITION. The page pool, its reference counts and its keys (R245 to R249, R316, R317), and the place of KV entries in pages. -/

namespace Sys2Proof.Machine

/-! ## Taking and releasing pages -/

/-- Pages of plain stack j in the pool, and those of them that are not free. -/
def State.stackPages (s : State) (j : Nat) : Nat := s.plainChannels j * 2048
/-- Pages of plain stack j that are not free. -/
def State.stackUsed (s : State) (j : Nat) : Nat := (s.seqs.pages.filter (fun e => e.1 / 65536 == j)).length

/-- The first free page of plain stack j at or after place x, places counted round. (DESIGN CHOICE, log entry 30) -/
def State.freePageFrom (s : State) (j x : Nat) : Nat :=
  let n := max 1 (s.stackPages j)
  let i := (findBelow (s.stackUsed j + 1) (fun i => (s.page (j * 65536 + (x + i) % n)).use == 0)).getD 0
  j * 65536 + (x + i) % n

/-- Page p of the pool replaced. -/
def State.setPage (s : State) (p : Nat) (v : PoolPage) : State :=
  s.setSeqs { s.seqs with pages := tset PoolPage.free s.seqs.pages p v }

/-- Page p enters use under a key, with one reference. (DESIGN CHOICE, log entry 30) -/
def usePage (p use key : Nat) (s : State) : State :=
  let s := s.setPage p { use := use, refs := 1, marked := false }
  s.setMem { s.mem with pageKey := tset 0 s.mem.pageKey p key }

/-- Takes a page for a use and key from plain stack j mod 8, or from the next that has a free one (R246). Which free page of the
stack it is, the spec leaves open: a free value chooses. (DESIGN CHOICE, log entry 30) -/
def takePage (j use key : Nat) (s : State) : Option (Nat × State) :=
  match ((List.range 8).map (fun i => (j + i) % 8)).find? (fun i => decide (s.stackUsed i < s.stackPages i)) with
  | none => none
  | some i =>
    let (x, s) := s.free
    let p := s.freePageFrom i x
    some (p, usePage p use key s)

/-- One more reference on page p (R248). -/
def refPage (p : Nat) (s : State) : State := s.setPage p { s.page p with refs := (s.page p).refs + 1 }

/-- One reference fewer on page p; at 0 it is marked for release (R248). -/
def unrefPage (p : Nat) (s : State) : State :=
  let v := s.page p
  if v.use = 0 then s
  else if v.refs ≤ 1 then s.setPage p { v with refs := 0, marked := true } else s.setPage p { v with refs := v.refs - 1 }

/-- One reference fewer on each of a list of pages. -/
def unrefPages (ps : List Nat) (s : State) : State := ps.foldl (fun s p => unrefPage p s) s

/-! ## Key slots (R317, R402) -/

/-- Tenant tn holds a key slot. -/
def State.hasKey (s : State) (tn : Nat) : Bool := s.codec.keySlots.any (fun e => e.2 == tenantKey tn)

/-- A record of tenant tn can have a key slot. -/
def State.keyRoom (s : State) (tn : Nat) : Bool := s.hasKey tn || decide (s.codec.keySlots.length < 1023)

/-- Tenant tn has a key slot from now on: its own, or a free one. -/
def giveKey (tn : Nat) (s : State) : State :=
  if s.hasKey tn then s else
  match findBelow 1023 (fun i => tget 0 s.codec.keySlots (i + 1) == 0) with
  | none => s
  | some i => s.setCodec { s.codec with
      keySlots := tset 0 s.codec.keySlots (i + 1) (tenantKey tn), keyEpochs := tmod 0 s.codec.keyEpochs tn (· + 1) }

/-- Tenant tn holds an object or a page: a sequence, a model, a variant, or a page in its name (R317). -/
def State.tenantHolds (s : State) (tn : Nat) : Bool :=
  s.seqs.entries.any (fun e => e.2.state != 0 && e.2.tenant == tn) ||
  s.seqs.models.any (fun e => e.2.state != 0 && e.2.tenant == tn) ||
  s.seqs.variants.any (fun e => e.2.model != 16 && e.2.tenant == tn) ||
  s.mem.pageKey.any (fun e => e.2 == tenantKey tn)

/-- Effect 6 of R37: pages marked for release return to the pool, and key slots whose tenant holds nothing are freed (R317).
(DEDUCED, log entry 18) -/
def releaseMarked (s : State) : State :=
  let gone := (s.seqs.pages.filter (fun e => e.2.marked)).map (·.1)
  let s := s.setSeqs { s.seqs with pages := s.seqs.pages.filter (fun e => !e.2.marked), returning := [] }
  let s := s.setMem { s.mem with pageKey := s.mem.pageKey.filter (fun e => !gone.contains e.1) }
  s.setCodec { s.codec with keySlots := s.codec.keySlots.filter (fun e => s.tenantHolds (e.2 - 1)) }

/-! ## KV in pages (R247) -/

/-- Bytes of one KV element of a model. -/
def Model.kvWidth (m : Model) : Nat := if m.kvFormat = 0 then 2 else 1

/-- E: bytes of one position in one layer. -/
def Model.kvBytes (m : Model) : Nat := 2 * m.kvHeads * m.headDim * m.kvWidth

/-- P: positions of one page. -/
def Model.perPage (m : Model) : Nat := 2097152 / max 1 (m.layers * m.kvBytes)

/-- The model of sequence q. -/
def State.modelOf (s : State) (q : Nat) : Model := s.model (s.seq q).model

/-- The byte of its page at which layer l of position t of a model begins. -/
def Model.kvOffset (m : Model) (l t : Nat) : Nat := l * m.perPage * m.kvBytes + t % m.perPage * m.kvBytes

/-- Reads n bytes at byte x of pool page p: pages lie in plain memory granule by granule. -/
def readPage (r : ReadBy) (p x n : Nat) (s : State) : ReadOut × State :=
  (List.range (ceilDiv (x % 4096 + n) 4096)).foldl (fun (a : ReadOut × State) i =>
    let lo := max x ((x / 4096 + i) * 4096)
    let hi := min (x + n) ((x / 4096 + i + 1) * 4096)
    a.1.andThen (moduleRead r (a.2.pageDpa p lo) (hi - lo) a.2)) ({ bytes := [], bad := none }, s)

/-- Writes bytes at byte x of pool page p; true when all of them land or wait. -/
def writePage (unit p x : Nat) (d : List Byte) (s : State) : Bool × State :=
  let n := d.length
  (List.range (ceilDiv (x % 4096 + n) 4096)).foldl (fun (a : Bool × State) i =>
    let lo := max x ((x / 4096 + i) * 4096)
    let hi := min (x + n) ((x / 4096 + i + 1) * 4096)
    let (ok, s) := writeMem unit (a.2.pageDpa p lo) ((d.drop (lo - x)).take (hi - lo)) a.2
    (a.1 && ok, s)) (true, s)

/-- Copies the used bytes of a page into another (R249): burst by burst, poison staying poison, to a mirror as well (R126), with the host's
copies recalled (R63). -/
def copyPage (m : Model) (src dst : Nat) (s : State) : State :=
  (List.range (ceilDiv (m.layers * m.perPage * m.kvBytes) 32)).foldl (fun s i =>
    let o := readPage (plainReader 9) src (32 * i) 32 s
    let b := o.2.pageDpa dst (32 * i) / 32
    (writeBurst 9 b o.1.bytes o.1.bad.isSome (recallGranule (b / 128) o.2)).2) s

/-- The page number at place k of sequence q's page list. -/
def SeqEntry.pageAt (e : SeqEntry) (k : Nat) : Option PageRef := e.pages[k]?

/-- The pages of a list that other references name as well are SHARED (R248). -/
def State.isShared (s : State) (p : Nat) : Bool := decide (2 ≤ (s.page p).refs)

/-- Marks of SHARED brought up to date in every page list. -/
def markShared (s : State) : State :=
  s.setSeqs { s.seqs with entries := s.seqs.entries.map (fun e =>
    (e.1, { e.2 with pages := e.2.pages.map (fun r => { r with shared := s.isShared r.page }) })) }

/-- Sequence q's list page, taken with its first page (R245); unchanged when it has one. -/
def takeListPage (q : Nat) (s : State) : Option State :=
  if (s.seq q).listPage.isSome then some s
  else (takePage (q % 8) 3 0 s).map (fun r => r.2.modSeq q (fun e => { e with listPage := some r.1 }))

/-- Puts a page at place k of sequence q's list: in place of the page there (a copy on append, R249) or behind the last. -/
def placePage (q k p : Nat) (s : State) : State :=
  match (s.seq q).pages[k]? with
  | some old =>
    let s := copyPage (s.modelOf q) old.page p s
    let s := unrefPage old.page s
    markShared (s.modSeq q (fun e => { e with pages := lset e.pages k { page := p, shared := false } }))
  | none => s.modSeq q (fun e => { e with pages := e.pages ++ [{ page := p, shared := false }] })

/-- The plain stack from which the page at place k of sequence q is taken: the shared page's own for a copy (R249), else by R246. -/
def State.pageHome (s : State) (q k : Nat) : Nat :=
  match (s.seq q).pages[k]? with
  | some old => old.page / 65536
  | none => (q + k) % 8

/-- Whether position t of sequence q needs a page: it begins a new one or lies in a shared one (R248). -/
def State.needsPage (s : State) (q t : Nat) : Bool :=
  match (s.seq q).pages[t / max 1 (s.modelOf q).perPage]? with
  | some r => s.isShared r.page
  | none => true

/-- Page k of the page list, of p positions, holds one of the n positions from len onwards. -/
def pageWritten (p len n k : Nat) : Bool := decide (0 < n) && decide (len / p ≤ k) && decide (k < ceilDiv (len + n) p)

end Sys2Proof.Machine
end

