-- ==== Sys2Proof/Machine/Special.lean ====
section
/-! DEFINITION. The primitive steps and built-in functions of the Zest sections (R220, R222), softmax (R234) and row statistics
(R236, R238). EXP2, LOG2 and TANH are computed in fixed point with 192 fraction bits, far below the spacing at which FP32 can
tell two results apart, and rounded once. -/

namespace Sys2Proof.Machine

/-- The fraction bits of the fixed-point evaluations. -/
def fixBits : Nat := 192

/-- 1.0 in fixed point. -/
def fixOne : Nat := 2 ^ fixBits

/-- The integer square root of x, from bit i down. -/
def isqrtGo (x : Nat) : Nat → Nat → Nat
  | 0, r => r
  | i + 1, r => let r' := r + 2 ^ i; isqrtGo x i (if r' * r' ≤ x then r' else r)

/-- The integer square root of x. -/
def isqrt (x : Nat) : Nat := isqrtGo x (log2 x / 2 + 1) 0

/-- ln 2 in fixed point: the sum of 1 ÷ (k · 2^k). -/
def fixLn2 : Nat := (List.range (fixBits + 8)).foldl (fun s k => s + fixOne / ((k + 1) * 2 ^ (k + 1))) 0

/-- e^r in fixed point, for 0 ≤ r < 1, by the series with n terms: t is the k-th term. -/
def fixExpGo (r : Nat) : Nat → Nat → Nat → Nat
  | 0, _, _ => 0
  | n + 1, k, t => t + fixExpGo r n (k + 1) (t * r / fixOne / (k + 1))

/-- e^r in fixed point, for 0 ≤ r < 1. -/
def fixExp (r : Nat) : Nat := fixExpGo r 48 0 fixOne

/-- The series z + z³ ÷ 3 + z⁵ ÷ 5 + … with n terms: t is the next odd power. -/
def fixAtanhGo (z2 : Nat) : Nat → Nat → Nat → Nat
  | 0, _, _ => 0
  | n + 1, k, t => t / (2 * k + 1) + fixAtanhGo z2 n (k + 1) (t * z2 / fixOne)

/-- ln(m ÷ 2^23) in fixed point, for 2^23 ≤ m < 2^24. -/
def fixLn (m : Nat) : Nat :=
  let z := (m - 2 ^ 23) * fixOne / (m + 2 ^ 23)
  2 * fixAtanhGo (z * z / fixOne) 72 0 z

/-- 2^A, correctly rounded (R220, R222). -/
def zExp2 (a : F32) : F32 :=
  match val32 a with
  | .nan n => f32Of (.nan n)
  | .inf n => if n then 0 else f32Of (.inf false)
  | .fin n m e =>
    if m = 0 then f32One
    else if f32Le 0x43000000#32 a then f32Of (.inf false)
    else if f32Lt a 0xC3170000#32 then 0
    else if f32Lt (f32Abs a) 0x31000000#32 then f32One
    else
      -- A = i + f with f in fixed point, 0 ≤ f < 1
      let mag := if 0 ≤ e + fixBits then m * 2 ^ (e + fixBits).toNat else m / 2 ^ (-(e + fixBits)).toNat
      let v : Int := if n then -(mag : Int) else mag
      let i : Int := v.fdiv fixOne
      let f := (v - i * fixOne).toNat
      if f = 0 then f32Of (.fin false 1 i)
      else f32Of (.fin false (2 * fixExp (f * fixLn2 / fixOne) + 1) (i - fixBits - 1))

/-- log₂ A, correctly rounded (R220, R222). -/
def zLog2 (a : F32) : F32 :=
  match val32 a with
  | .nan n => f32Of (.nan n)
  | .inf n => if n then f32Of (.nan false) else f32Of (.inf false)
  | .fin n m e =>
    if m = 0 then f32Of (.inf true)
    else if n then f32Of (.nan false)
    else
      let l := log2 m
      let i : Int := e + l
      let m' := m * 2 ^ (23 - l)
      if m' = 2 ^ 23 then f32OfInt i
      else
        let v : Int := i * fixOne + (fixLn m' * fixOne / fixLn2 : Nat)
        f32Of (.fin (decide (v < 0)) (2 * v.natAbs + 1) (-(fixBits : Int) - 1))

/-- 1 ÷ A, correctly rounded (R220, R222). -/
def zRecip (a : F32) : F32 := f32Div f32One a

/-- 1 ÷ √A, correctly rounded (R220, R222). -/
def zRsqrt (a : F32) : F32 :=
  match val32 a with
  | .nan n => f32Of (.nan n)
  | .inf n => if n then f32Of (.nan false) else 0
  | .fin n m e =>
    if m = 0 then f32Of (.inf n)
    else if n then f32Of (.nan false)
    else
      -- make the exponent even, then root 2^240 ÷ m
      let m' := if e % 2 = 0 then m else 2 * m
      let e' := if e % 2 = 0 then e else e - 1
      let q := isqrt (2 ^ 240 / m')
      let sticky := if q * q * m' = 2 ^ 240 then 0 else 1
      f32Of (.fin false (2 * q + sticky) (-120 - e' / 2 - 1))

/-- tanh A, correctly rounded (R220, R222). -/
def zTanh (a : F32) : F32 :=
  match val32 a with
  | .nan n => f32Of (.nan n)
  | .inf n => if n then f32Neg f32One else f32One
  | .fin n m e =>
    if m = 0 then a
    else if f32Lt (f32Abs a) 0x39000000#32 then a
    else if f32Le 0x41800000#32 (f32Abs a) then (if n then f32Neg f32One else f32One)
    else
      -- E = e^(−2|A|) as 2^(−j) ÷ e^r
      let y := 2 * (if 0 ≤ e + fixBits then m * 2 ^ (e + fixBits).toNat else m / 2 ^ (-(e + fixBits)).toNat)
      let j := y / fixLn2
      let r := y % fixLn2
      let ex := fixOne * fixOne / fixExp r / 2 ^ j
      f32Of (.fin n (2 * ((fixOne - ex) * fixOne / (fixOne + ex)) + 1) (-(fixBits : Int) - 1))

/-- The logistic function, by its definition over TANH (R220). -/
def zLogistic (a : F32) : F32 := f32Madd (zTanh (f32Mul f32Half a)) f32Half f32Half

/-- CMPSEL's condition: 0 LT, 1 LE, 2 EQ, 3 UNORDERED (R226). -/
def zCond (cond : Nat) (a b : F32) : Bool :=
  match cond with
  | 0 => f32Lt a b
  | 1 => f32Le a b
  | 2 => f32Eq a b
  | _ => f32IsNan a || f32IsNan b

/-- SIGN's action on the sign bit of A: 0 ABS, 1 NEG, 2 COPYSIGN from B (R226). -/
def zSignOp (imm : Nat) (a b : F32) : F32 :=
  match imm with
  | 0 => f32Abs a
  | 1 => f32Neg a
  | _ => f32Abs a ||| (b &&& 0x80000000#32)

/-! Segment tables (R223 to R225). A table is its image of 3,136 bytes. -/

/-- Fields of a segment table image. -/
def tblLo (t : List Byte) : F32 := BitVec.ofNat 32 (fld t 0x000 4)
def tblE (t : List Byte) : Int := (BitVec.ofNat 8 (fld t 0x004 1)).toInt
def tblSym (t : List Byte) : Nat := fld t 0x005 1
def tblInterp (t : List Byte) : Nat := fld t 0x006 1
def tblMono (t : List Byte) : Nat := fld t 0x007 1
def tblLow (t : List Byte) : F32 := BitVec.ofNat 32 (fld t 0x008 4)
def tblHigh (t : List Byte) : F32 := BitVec.ofNat 32 (fld t 0x00C 4)
/-- Coefficient c of segment i. -/
def tblCoef (t : List Byte) (i c : Nat) : F32 := BitVec.ofNat 32 (fld t (0x040 + 12 * i + 4 * c) 4)

/-- Evaluating a segment table at x (R225). -/
def zLut (t : List Byte) (x : F32) : F32 :=
  if f32IsNan x then f32Quiet x
  else
    let z := if tblSym t != 0 then f32Abs x else x
    let lo := val32 (tblLo t)
    let y :=
      if valLt (val32 z) lo then tblLow t
      else if !valLt (val32 z) (valAdd lo (.fin false 1 (tblE t))) then tblHigh t
      else
        let d := f32Sub z (tblLo t)
        let u := f32Of (valMul (val32 d) (.fin false 1 (8 - tblE t)))
        let i := match val32 u with
          | .fin _ m e => min (if 0 ≤ e then m * 2 ^ e.toNat else m / 2 ^ (-e).toNat) 255
          | _ => 255
        let tt := val32 (f32Sub u (f32OfNat i))
        f32Of (valAdd (valAdd (val32 (tblCoef t i 0)) (valMul (val32 (tblCoef t i 1)) tt))
          (valMul (valMul (val32 (tblCoef t i 2)) tt) tt))
    if tblSym t == 1 && f32Sign x then f32Neg y else y

/-- a ≤ b, exactly. -/
def valLe (a b : FpVal) : Bool := !valLt b a

/-- The polynomial of segment i at t = 1, exactly. -/
def tblEnd (t : List Byte) (i : Nat) : FpVal :=
  valAdd (valAdd (val32 (tblCoef t i 0)) (val32 (tblCoef t i 1))) (val32 (tblCoef t i 2))

/-- Monotonicity checks of R224 for segment i; down reverses every inequality. -/
def tblMonoOk (t : List Byte) (down : Bool) (i : Nat) : Bool :=
  let le (a b : FpVal) : Bool := if down then valLe b a else valLe a b
  let z : FpVal := .fin false 0 0
  let c1 := val32 (tblCoef t i 1)
  let c2 := val32 (tblCoef t i 2)
  le z c1 && le z (valAdd c1 (valAdd c2 c2)) &&
  (if i < 255 then le (tblEnd t i) (val32 (tblCoef t (i + 1) 0)) else le (tblEnd t 255) (val32 (tblHigh t))) &&
  (if i == 0 && tblSym t == 0 then le (val32 (tblLow t)) (val32 (tblCoef t 0 0)) else true) &&
  (if i == 0 && tblSym t == 1 then f32IsZero (tblCoef t 0 0) else true)

/-- The header checks of R224. -/
def tblHeaderOk (t : List Byte) : Bool :=
  decide (tblSym t ≤ 2) && decide (tblInterp t ≤ 1) && decide (tblMono t ≤ 2) &&
  f32Finite (tblLo t) && f32Finite (tblLow t) && f32Finite (tblHigh t) &&
  decide (-20 ≤ tblE t) && decide (tblE t ≤ 40) &&
  valFinite (val32 (f32Of (valAdd (val32 (tblLo t)) (.fin false 1 (tblE t))))) &&
  (tblSym t == 0 || (f32IsZero (tblLo t) && f32IsZero (tblLow t))) &&
  !(tblSym t == 2 && tblMono t != 0)

/-- The segment checks of R224 for segment i. -/
def tblSegOk (t : List Byte) (i : Nat) : Bool :=
  f32Finite (tblCoef t i 0) && f32Finite (tblCoef t i 1) && f32Finite (tblCoef t i 2) &&
  (tblInterp t != 0 || f32IsZero (tblCoef t i 2)) &&
  (tblMono t == 0 || tblMonoOk t (tblMono t == 2) i)

/-- The index that RESULT gives for a table image that R224 rejects: all ones for a header field, else its segment. -/
def tblReject (t : List Byte) : Option Nat :=
  if !tblHeaderOk t then some 0xFFFFFFFF
  else findBelow 256 (fun i => !tblSegOk t i)

/-! Softmax and row statistics. -/

/-- log₂ e, rounded (R234). -/
def l2e : F32 := 0x3FB8AA3B#32

/-- e_i of a score under a maximum (R234). -/
def smExp (m s : F32) : F32 := zExp2 (f32Mul (f32Sub s m) l2e)

/-- A lane state of the row statistics (R236). -/
structure Welford where
  n : F32
  mean : F32
  m2 : F32
  deriving DecidableEq, Repr

/-- A lane before its first value. -/
def Welford.zero : Welford := { n := 0, mean := 0, m2 := 0 }

/-- The lane update of R236. -/
def wfStep (a : Welford) (x : F32) : Welford :=
  let n := f32Add a.n f32One
  let d := f32Sub x a.mean
  let mean := f32Add a.mean (f32Div d n)
  let e := f32Sub x mean
  { n := n, mean := mean, m2 := f32Add a.m2 (f32Mul d e) }

/-- The merge ⋄ of R236. -/
def wfMerge (a b : Welford) : Welford :=
  if f32IsZero a.n then b
  else if f32IsZero b.n then a
  else
    let n := f32Add a.n b.n
    let d := f32Sub b.mean a.mean
    { n := n
      mean := f32Add a.mean (f32Mul d (f32Div b.n n))
      m2 := f32Add (f32Add a.m2 b.m2) (f32Mul (f32Mul d d) (f32Div (f32Mul a.n b.n) n)) }

/-- The eight lane states merged by the tree (R236). -/
def wfTree (l : Nat → Welford) : Welford :=
  wfMerge (wfMerge (wfMerge (l 0) (l 1)) (wfMerge (l 2) (l 3))) (wfMerge (wfMerge (l 4) (l 5)) (wfMerge (l 6) (l 7)))

/-- var = M2 ÷ N, a value below 0 or −0 giving +0 (R236). -/
def wfVar (m2 n : F32) : F32 :=
  let v := f32Div m2 n
  if f32Lt v 0 || v == f32NegZero then 0 else v

/-- The statistics of a row: its mean and variance (R236). -/
def rowStats (xs : List F32) : F32 × F32 :=
  let w := wfTree (fun l => (laneOf l xs).foldl wfStep Welford.zero)
  (w.mean, wfVar w.m2 (f32OfNat xs.length))

/-- ρ of a normalisation (R238): a zero sum is replaced by the smallest subnormal. -/
def normRho (var eps : F32) : F32 :=
  let v := f32Add var eps
  zRsqrt (if v == 0 then 1#32 else v)

/-- Normalising a row with gains γ, centred or not (R238). -/
def normRow (centre : Bool) (eps : F32) (gain : List F32) (xs : List F32) : List F32 :=
  let st := rowStats xs
  let mean := if centre then st.1 else 0
  let var := if centre then st.2 else f32Div (octetSum (xs.map (fun x => f32Mul x x))) (f32OfNat xs.length)
  let rho := normRho var eps
  List.zipWith (fun x g => f32Mul (f32Mul (f32Sub x mean) rho) g) xs gain

end Sys2Proof.Machine
end

