-- ==== Sys2Proof/Machine/Pick.lean ====
section
/-! DEFINITION. The Pick units: scores, the pair of largest score and sum, truncation, the draw and the log-probability (R268 to
R274), and the stop conditions (R277). -/

namespace Sys2Proof.Machine

/-- −Inf and +Inf in FP32. -/
def f32NegInf : F32 := 0xFF800000#32
def f32PosInf : F32 := 0x7F800000#32

/-- What a sequence brings to the choice of its token: its sampler settings, the mask's BITS and image where it names one, its
token history, and t, its LEN at formation. -/
structure PickIn where
  sampler : Sampler
  mask : Option (Nat × List Byte)
  history : List Nat
  len : Nat
  deriving DecidableEq, Repr

/-- The score of token v with a logit (R268). -/
def pickScore (p : PickIn) (v : Nat) (logit : F32) : F32 :=
  if f32IsNan logit then logit else
  let allowed := match p.mask with
    | none => true
    | some (n, img) => decide (v < n) && bit ((img.getD (v / 8) 0).toNat) (v % 8)
  let x := if allowed then logit else f32NegInf
  let seen := (p.history.drop (p.history.length - p.sampler.penWindow)).contains v && p.sampler.penWindow != 0
  let x := if seen then (if f32Lt 0 x then f32Mul x (zRecip p.sampler.repPen) else f32Mul x p.sampler.repPen) else x
  let x := if seen then f32Sub x p.sampler.presPen else x
  let z := if f32IsZero p.sampler.temp then x else f32Mul x (zRecip p.sampler.temp)
  f32Mul z l2e

/-- A local pair: the largest score and the sum of 2^(y − m) (R269). -/
structure PickPair where
  m : F32
  s : F32
  deriving DecidableEq, Repr

/-- The empty pair. -/
def PickPair.empty : PickPair := { m := f32NegInf, s := 0 }

/-- A lane's update by one score (R269). -/
def pairStep (p : PickPair) (y : F32) : PickPair :=
  if y == f32NegInf then p
  else if f32Lt p.m y then { m := y, s := f32Madd p.s (zExp2 (f32Sub p.m y)) f32One }
  else { p with s := f32Add p.s (zExp2 (f32Sub y p.m)) }

/-- The merge of two pairs (R269). -/
def pairMerge (a b : PickPair) : PickPair :=
  if a.m == f32NegInf then b
  else if b.m == f32NegInf then a
  else
    let m := if f32Lt a.m b.m then b.m else a.m
    let t := f32Mul b.s (zExp2 (f32Sub b.m m))
    { m := m, s := f32Madd a.s (zExp2 (f32Sub a.m m)) t }

/-- The pair of one wedge's tokens: eight lanes by v mod 8, merged by the tree of R185. -/
def wedgePair (ys : List (Nat × F32)) : PickPair :=
  let l := fun i => ((ys.filter (fun e => e.1 % 8 == i)).map (·.2)).foldl pairStep PickPair.empty
  pairMerge (pairMerge (pairMerge (l 0) (l 1)) (pairMerge (l 2) (l 3))) (pairMerge (pairMerge (l 4) (l 5)) (pairMerge (l 6) (l 7)))

/-- The pair (m, S) of the whole vocabulary, the wedges merged in order. -/
def fullPair (vocab : Nat) (ys : List (Nat × F32)) : PickPair :=
  let n := ceilDiv vocab 4
  (List.range 4).foldl (fun p w => pairMerge p (wedgePair (ys.filter (fun e => e.1 / max 1 n == w)))) PickPair.empty

/-- The Gumbel draw of token v (R271). -/
def pickDraw (seed drawCtr t v : Nat) : F32 :=
  let key := natLe 8 seed ++ List.replicate 24 0
  let blk := chachaBlock key (v / 16) (natLe 4 drawCtr ++ natLe 4 t ++ natLe 4 0x4B434950)
  let w := (blk.getD (v % 16) 0).toNat
  let u := f32Of (.fin false (2 * (w / 2 ^ 9) + 1) (-24))
  f32Neg (zLog2 (f32Neg (zLog2 u)))

/-- A pair put into a list kept in descending score, the earlier index first on a tie. -/
def insertDesc (e : Nat × F32) : List (Nat × F32) → List (Nat × F32)
  | [] => [e]
  | x :: xs => if f32Lt x.2 e.2 then e :: x :: xs else x :: insertDesc e xs

/-- The 256 highest-scoring tokens in descending score (R270). -/
def candidates (ys : List (Nat × F32)) : List (Nat × F32) := ys.foldl (fun l e => (insertDesc e l).take 256) []

/-- The prefix of the candidates that the three truncations keep (R270): i counts the candidates kept, sum the probabilities
added. -/
def keptGo (sp : Sampler) (p : PickPair) : Nat → F32 → List (Nat × F32) → List (Nat × F32)
  | _, _, [] => []
  | i, sum, e :: es =>
    let w := zExp2 (f32Sub e.2 p.m)
    let full := (sp.topK != 0 && decide (sp.topK ≤ i)) || f32Lt w sp.minP || (i != 0 && f32Le sp.topP sum)
    if i != 0 && full then [] else e :: keptGo sp p (i + 1) (f32Add sum (f32Mul w (zRecip p.s))) es

/-- The entry with the highest value, the lowest index on a tie. -/
def highest (es : List (Nat × F32)) : Option (Nat × F32) :=
  match es with
  | [] => none
  | e :: es => some (es.foldl (fun w x => if f32Lt w.2 x.2 || (f32Eq w.2 x.2 && decide (x.1 < w.1)) then x else w) e)

/-- What a step commits for one slot: the token, if there is one, LOGPROB, and the stop reason and STOP_INDEX that a sampling member
has found for it (R354). -/
structure SlotPick where
  token : Option Nat
  logprob : F32
  stop : Option (Nat × Nat)
  deriving DecidableEq, Repr

/-- The token of one sequence from its logits (R268 to R274). -/
def pickToken (vocab : Nat) (p : PickIn) (logits : List F32) : SlotPick :=
  let ys := (logits.take vocab).zipIdx.map (fun e => (e.2, pickScore p e.2 e.1))
  if ys.any (fun e => f32IsNan e.2) then { token := none, logprob := 0, stop := none }
  else
    let pr := fullPair vocab ys
    if pr.m == f32NegInf then { token := none, logprob := 0, stop := none }
    else match ys.find? (fun e => e.2 == f32PosInf) with
    | some e => { token := some e.1, logprob := 0, stop := none }
    | none =>
      let out := fun (v : Nat) => { token := some v, logprob := f32Sub (f32Sub ((ys.getD v (0, 0)).2) pr.m) (zLog2 pr.s), stop := none : SlotPick }
      let sp := p.sampler
      let drawn := fun (es : List (Nat × F32)) =>
        (highest (es.map (fun e => (e.1, f32Add e.2 (pickDraw sp.seed sp.drawCtr p.len e.1))))).map (·.1)
      let v := if f32IsZero sp.temp then (highest ys).map (·.1)
        else if sp.topK == 0 && f32Eq sp.topP f32One && f32IsZero sp.minP then drawn ys
        else drawn (keptGo sp pr 0 0 (candidates ys))
      match v with
      | some v => out v
      | none => { token := none, logprob := 0, stop := none }

/-- The first stop condition that holds at a commit, and its STOP_INDEX (R277): 0 when none does. history ends with the committed
token; newCnt and len are those after the commit. -/
def stopReason (st : Stops) (token : Option Nat) (history : List Nat) (newCnt len maxLen : Nat) : Nat × Nat :=
  let tok := token.bind (fun t => if t = 0xFFFFFFFF then none else
    findBelow 16 (fun i => (st.tokens.getD i 0xFFFFFFFF) == t))
  let sq := if token.isNone then none else
    findBelow st.seqs.length (fun i =>
      let l := st.seqs.getD i []
      l.length != 0 && decide (l.length ≤ history.length) && history.drop (history.length - l.length) == l)
  match tok, sq with
  | some i, _ => (1, i)
  | none, some i => (2, i)
  | none, none =>
    if st.maxNew ≠ 0 && decide (st.maxNew ≤ newCnt) then (3, 0)
    else if len = maxLen then (4, 0)
    else if token.isNone then (5, 0) else (0, 0)

end Sys2Proof.Machine
end

