-- ==== Sys2Proof/Machine/Boundary.lean ====
section
/-! DEFINITION. The step boundary: its effects in the order of R37, effect boundaries and rest boundaries (R254 to R257, R262,
R276, R278, R283), budgets (R281, R282), delivery (R279, R280) and the STEP reply (R291 to R294). -/

namespace Sys2Proof.Machine

/-! ## Entries -/

/-- Entry q becomes FREE; its number of openings is kept, so that steps know a later conversation from this one (R289). -/
def freeEntry (q : Nat) (s : State) : State := s.modSeq q (fun e => { SeqEntry.free with gen := e.gen + 1 })

/-- The pages of entry q's list and its list page lose its references, and the entry becomes FREE (R245, R255, R257). -/
def releaseEntry (q : Nat) (s : State) : State :=
  let e := s.seq q
  let s := unrefPages (e.pages.map (·.page)) s
  let s := match e.listPage with | some p => unrefPage p s | none => s
  markShared (freeEntry q s)

/-- The output entries that n sequences of a step need in one window (R280). -/
def outNeed (n : Nat) : Nat := if n = 1 then 2 else n

/-- Unused output entries reserved for a cancelled sequence go back (R81, R255): in every STEP that still names the entry. -/
def releaseSeqOutput (q : Nat) (s : State) : State :=
  let o := (s.seq q).outWindow
  (s.stepsNaming q).foldl (fun s p =>
    match s.record p.w p.n with
    | none => s
    | some t =>
      let n := (p.slots.filter (fun e => e.gen == (s.seq e.q).gen && (s.seq e.q).state != 0 && (s.seq e.q).outWindow == o)).length
      let d := outNeed n - outNeed (n - 1)
      if t.orphan then s else
      (modRecord p.w p.n (fun t => { t with reserved := mapIf (fun r => r.1 == o) (fun r => (r.1, r.2 - d)) t.reserved }) s).modWin o
        (fun v => { v with outReserved := v.outReserved - d })) s

/-- Effect 1 of R37 for sequence q (R255). -/
def cancelSeq (q : Nat) (s : State) : State := releaseEntry q (releaseSeqOutput q s)

/-- The history after a trim to length len with a new pending token (R272). -/
def trimHistory (e : SeqEntry) (len token : Nat) : List Nat :=
  let top := if e.pending.isSome then e.len + 1 else e.len
  let first := top - e.history.length
  e.history.take (len - first) ++ [token]

/-- An append reserves a page for place k, in ascending order of the places. -/
def Append.reserve (a : Append) (k page : Nat) : Append :=
  { a with reserved := a.reserved.filter (fun r => decide (r.1 < k)) ++ [(k, page)] ++ a.reserved.filter (fun r => decide (k < r.1)) }

/-- Place k of the page list of sequence q lies where the queued appends may write, none of them reserves a page for it, and the list
holds no page of its own there: they counted on the page that is leaving it (R460). (DEDUCED, log entry 19) -/
def State.countedOn (s : State) (q k : Nat) : Bool :=
  let e := s.seq q
  let p := max 1 (s.modelOf q).perPage
  let steps := (s.seqs.steps.filter (fun x => x.slots.any (fun y => y.q == q))).length
  decide (k < ceilDiv (e.len + steps + (e.appends.map (·.tokens.length)).sum) p) &&
    !e.appends.any (fun a => a.reserved.any (fun r => r.1 == k)) &&
    (match e.pages[k]? with | some r => s.isShared r.page | none => true)

/-- Pages that leave the page list of sequence q or a reservation of it: a page that an append still queued counted as held passes to
the first of them, and the rest are released (R256, R460). (DEDUCED, log entry 19) -/
def leavePages (q : Nat) (rs : List (Nat × Nat)) (s : State) : State :=
  rs.foldl (fun s r =>
    if !(s.seq q).appends.isEmpty && s.countedOn q r.1 && !s.isShared r.2 then
      s.modSeq q (fun e => { e with appends := (e.appends.take 1).map (·.reserve r.1 r.2) ++ e.appends.drop 1 })
    else unrefPage r.2 s) s

/-- A trim of sequence q drops its token in every step that is FORMED (R37, R291). -/
def dropTrimmed (q : Nat) (s : State) : State :=
  let hit := fun (e : StepSlot) => e.q == q && e.gen == (s.seq q).gen && e.outcome == 13
  s.setSeqs { s.seqs with
    steps := mapIf (fun p => p.state == 2) (fun p => { p with slots := mapIf hit (fun e => { e with outcome := 11 }) p.slots }) s.seqs.steps }

/-- Effect 2 of R37 for sequence q (R256). (DEDUCED, log entry 19) -/
def trimSeq (q length token : Nat) (s : State) : State :=
  let e := s.seq q
  let len := min length e.len
  let keep := ceilDiv len (max 1 (s.modelOf q).perPage)
  let gone := (e.pages.zipIdx.drop keep).map (fun x => (x.2, x.1.page))
  let clear := e.faulted && decide (len ≤ e.faultPos)
  let s := s.modSeq q (fun e => { e with
    len := len, pending := some token, history := trimHistory e len token, pages := e.pages.take keep,
    faulted := e.faulted && !clear, faultPos := if clear then 0xFFFFFFFF else e.faultPos })
  dropTrimmed q (markShared (leavePages q gone s))

/-! ## Budgets (R281 to R283) -/

/-- Customer c replaced. -/
def State.setCustomer (s : State) (c : Nat) (v : Customer) : State :=
  s.setSeqs { s.seqs with customers := tset Customer.initial s.seqs.customers c v }

/-- An exhaustion is counted (R285). (DEDUCED, log entry 18) -/
def noteExhausted (c stamp : Nat) (was : Bool) (s : State) : State :=
  if s.exhausted c stamp && !was then
    s.setSeqs { s.seqs with heldCount := satAdd 16 s.seqs.heldCount 1, heldCustomer := c }
  else s

/-- One token charged to customer c at a stamp (R282). -/
def chargeToken (c stamp : Nat) (s : State) : State :=
  if !s.seqs.budgetEn then s else
  let was := s.exhausted c stamp
  noteExhausted c stamp was
    (s.setCustomer c { s.customer c with spent := s.spentAt c stamp + 1, window := s.budgetWindow stamp })

/-- A pending budget change takes effect (R283). -/
def applyBudget (e : BoundaryEffect) (stamp : Nat) (s : State) : State :=
  match e with
  | .budgetSet first count tokens =>
    (List.range count).foldl (fun s i =>
      let c := first + i
      let was := s.exhausted c stamp
      noteExhausted c stamp was (s.setCustomer c { s.customer c with budget := tokens })) s
  | .budgetWindow en ms origin =>
    let cs := s.seqs.customers.map (fun p => (p.1, { p.2 with spent := 0 }))
    s.setSeqs { s.seqs with budgetEn := en, windowMs := ms, origin := origin, customers := cs }
  | _ => s

/-! ## The commit (R250, R273, R277) -/

/-- The history with a committed token, or with none: at most the last 256 positions (R272). -/
def pushHistory (h : List Nat) (token : Option Nat) : List Nat :=
  match token with
  | some t => (h ++ [t]).drop (h.length + 1 - 256)
  | none => h.drop (h.length - 255)

/-- Effect 3 of R37 for one sequence: LEN, the pending token, the history, DRAW_CTR and the stop check. Answers the stop reason
and STOP_INDEX. -/
def commitSeq (q : Nat) (token : Option Nat) (stop : Option (Nat × Nat)) (s : State) : (Nat × Nat) × State :=
  let e := s.seq q
  let h := pushHistory e.history token
  let r := stop.getD (stopReason e.stops token h (e.newCnt + 1) (e.len + 1) e.maxLen)
  let s := s.modSeq q (fun e => { e with
    len := e.len + 1, pending := token, history := h, newCnt := (e.newCnt + 1) % 2 ^ 32,
    sampler := { e.sampler with drawCtr := (e.sampler.drawCtr + 1) % 2 ^ 32 }, stopped := e.stopped || r.1 != 0 })
  let g := s.seqs
  (r, s.setSeqs { g with
    stopToken := if r.1 = 1 then satAdd 16 g.stopToken 1 else g.stopToken,
    stopSequence := if r.1 = 2 then satAdd 16 g.stopSequence 1 else g.stopSequence,
    stopLength := if r.1 = 3 || r.1 = 4 then satAdd 16 g.stopLength 1 else g.stopLength,
    stopNoToken := if token.isNone then satAdd 16 g.stopNoToken 1 else g.stopNoToken })

/-- What a slot has received at the boundary. -/
structure Commit where
  slot : Nat
  q : Nat
  window : Nat
  customer : Nat
  token : Option Nat
  logprob : F32
  reason : Nat
  index : Nat
  len : Nat
  deriving DecidableEq, Repr

/-- STATUS of a delivered token (R279). -/
def Commit.status (c : Commit) : Nat := b2n (c.reason != 0) + 2 * c.reason + 16 * c.index

/-- TOKEN of a delivered record. -/
def Commit.tokenWord (c : Commit) : Nat := c.token.getD 0xFFFFFFFF

/-- The token record of a commit (R280); where no token is committed, the spec states no LOGPROB: a free value. -/
def tokenEntry (ordinal stamp : Nat) (s : State) (c : Commit) : State :=
  let (x, s) := if c.token.isSome then (c.logprob.toNat, s) else s.free
  outEntry c.window (natLe 1 1 ++ natLe 1 c.status ++ natLe 2 c.q ++ natLe 4 c.tokenWord ++ natLe 4 c.len ++ natLe 4 x ++
    natLe 8 ordinal ++ natLe 4 stamp) s

/-- The batch record of one window (R280). -/
def batchEntries (ordinal stamp o : Nat) (cs : List Commit) (s : State) : State :=
  if cs.isEmpty then s else
  let s := outEntry o (natLe 1 2 ++ natLe 1 (b2n (cs.any (fun c => c.reason != 0))) ++ natLe 2 cs.length ++
    natLe 2 (ceilDiv cs.length 3) ++ natLe 2 0 ++ natLe 8 ordinal ++ natLe 8 stamp) s
  (chunksOf 3 cs).foldl (fun s g =>
    let slot := fun i => match g[i]? with
      | some (c : Commit) => natLe 2 c.q ++ natLe 1 c.status ++ natLe 1 0 ++ natLe 4 c.tokenWord
      | none => natLe 2 0xFFFF ++ natLe 6 0
    outEntry o (natLe 4 3 ++ slot 0 ++ slot 1 ++ slot 2) s) s

/-- Effect 7: the records of the committed tokens (R279). -/
def deliver (perStep : Bool) (ordinal stamp : Nat) (cs : List Commit) (s : State) : State :=
  if perStep then (List.range 16).foldl (fun s o => batchEntries ordinal stamp o (cs.filter (fun c => c.window == o)) s) s
  else cs.foldl (tokenEntry ordinal stamp) s

/-! ## The STEP reply (R291 to R294) -/

/-- Whether an outcome is one of those left out. -/
def leftOut (o : Nat) : Bool := inRange o 2 9

/-- RESULT of a STEP (R294). -/
def stepResult (st : Step) (outs : List Nat) (stops : Nat) : List Byte :=
  let cnt := fun (p : Nat → Bool) => (outs.filter p).length
  let first := findBelow outs.length (fun i => leftOut (outs.getD i 0))
  let vs := (st.slots.filter (fun e => !leftOut e.outcome)).map (·.variant)
  natLe 2 st.batch ++ natLe 2 (cnt (fun o => o == 0 || o == 12)) ++ natLe 2 (cnt leftOut) ++ natLe 2 (cnt (· == 5)) ++
    natLe 2 (cnt (fun o => o == 10 || o == 11)) ++ natLe 2 stops ++ natLe 2 (first.getD 0xFFFF) ++
    natLe 1 ((first.map (fun i => outs.getD i 0)).getD 0xFF) ++ natLe 1 0 ++ natLe 2 vs.eraseDups.length ++ natLe 2 st.wideLayers

/-- Status and DETAIL of a STEP (R294): its fault, or BUDGET_HELD when every slot is held, or DONE. -/
def stepStatus (st : Step) (outs : List Nat) : Nat × Nat :=
  match st.fault with
  | some f => f
  | none => if st.batch = 0 && outs.all (· == 5) then (0x0202, st.customer) else (0, 0)

/-- Reply flags of a STEP. -/
def stepFlags (st : Step) (outs : List Nat) (stops : Nat) (null : Bool) : Nat :=
  b2n (st.wideLayers != 0 && st.cap.force != 2) * flagWide + b2n (stops != 0) * flagStopped + b2n null * flagNull +
  b2n (outs.any leftOut) * flagLeftOut

/-- The outcome array and the reply of a STEP (R292, R294). -/
def stepReply (st : Step) (outs : List Nat) (stops : Nat) (null : Bool) (ordinal stamp : Nat) (s : State) : State :=
  let orphan := match s.record st.w st.n with | some t => t.orphan | none => true
  let arr := outs.map (fun o => BitVec.ofNat 8 o)
  let s := if st.dest = 0 || orphan then s
    else hostWrite st.dest (arr ++ List.replicate (ceilDiv arr.length 64 * 64 - arr.length) 0xFF#8) s
  let r := stepStatus st outs
  completeAt st.w st.n ordinal stamp
    { status := r.1, flags := stepFlags st outs stops null, detail := r.2, result := stepResult st outs stops } s

/-! ## Effects at a boundary -/

/-- The quarantines of a model's blocks are removed (R374). -/
def clearModelBlocks (m : Nat) (s : State) : State :=
  (s.mem.quarantine.filter (fun e => e.2.state != 0 && e.2.detail % 16 == m)).foldl
    (fun s e => clearQuarantine (e.2.dpa / 4096) 2 s) s

/-- A variant ceases to be resident; its quarantined blocks leave the table (R374), and its pages return at the next step boundary.
Dropping a variant that is not resident changes nothing. -/
def dropVariant (v : Nat) (s : State) : State :=
  let x := tget Variant.none s.seqs.variants v
  let blocks := s.mem.quarantine.filter (fun e => e.2.state != 0 && e.2.variant == v && e.2.detail % 16 == x.model)
  let s := blocks.foldl (fun s e => clearQuarantine (e.2.dpa / 4096) 2 s) s
  let s := unrefPages x.pages s
  s.setSeqs { s.seqs with variants := terase v s.seqs.variants, returning := s.seqs.returning ++ x.granules }

/-- A model goes: its quarantines, its pages, what is held against it. -/
def dropModel (m : Nat) (s : State) : State :=
  let s := unrefPages (s.model m).pages (clearModelBlocks m s)
  (s.setMem { s.mem with suspect := setBit s.mem.suspect m false }).modModel m (fun _ => Model.none)

/-- A model goes with its variants (R73). -/
def dropWhole (m : Nat) (s : State) : State :=
  dropModel m ((s.seqs.variants.filter (fun v => v.2.model == m)).foldl (fun s v => dropVariant v.1 s) s)

/-- The models that a CXL Reset drops at a boundary. -/
def endModels (es : List Pending) (s : State) : State :=
  es.foldl (fun s e => match e.eff with
    | .dropModel m => dropWhole m s
    | _ => s) s

/-- Whether a pending effect falls at a boundary: that of the given step, or any (R254). -/
def Pending.due (id : Option Nat) (e : Pending) : Bool := e.at_.isNone || (id.isSome && e.at_ == id)

/-- Replies of the pending effects (DONE). -/
def replyEffects (es : List Pending) (s : State) : State :=
  es.foldl (fun s e => if e.reply then complete e.w e.n (done []) s else s) s

/-- Sequences that the due effects cancel, and those that they trim. -/
def cancelledBy (es : List Pending) : List Nat :=
  es.filterMap (fun e => match e.eff with | .cancel q => some q | _ => none)
/-- Sequences that the due effects trim. -/
def trimmedBy (es : List Pending) : List Nat :=
  es.filterMap (fun e => match e.eff with | .trim q _ _ => some q | _ => none)

/-- Effects 1 and 2 of R37: cancels, the releases after parks, and trims. -/
def applyEarly (es : List Pending) (s : State) : State :=
  let s := es.foldl (fun s e => match e.eff with
    | .cancel q => cancelSeq q s
    | .parkEnd q => releaseEntry q s
    | _ => s) s
  es.foldl (fun s e => match e.eff with
    | .trim q len token => if (s.seq q).state = 0 then s else trimSeq q len token s
    | _ => s) s

/-- What falls after effect 7: sampler and stop settings (R276, R278). -/
def applyLate (es : List Pending) (s : State) : State :=
  es.foldl (fun s e => match e.eff with
    | .sampler q v => if (s.seq q).state = 0 then s else s.modSeq q (fun e => { e with sampler := v })
    | .stops q v => if (s.seq q).state = 0 then s else s.modSeq q (fun e => { e with stops := v, newCnt := 0 })
    | _ => s) s

/-- Outcomes of a FORMED step's slots at its boundary (R291), before the commit's own. (DEDUCED, log entry 24) -/
def slotOutcomes (st : Step) (null : Bool) (cancelled trimmed : List Nat) (s : State) : List Nat :=
  st.slots.map (fun e =>
    if e.outcome ≠ 13 then e.outcome
    else if cancelled.contains e.q || (s.seq e.q).gen != e.gen then 10
    else if trimmed.contains e.q then 11
    else if null then 1 else 13)

/-- Effect 3 for every slot that commits, in slot order. -/
def commitSlots (st : Step) (outs : List Nat) (picks : List SlotPick) (s : State) : List Commit × State :=
  st.slots.zipIdx.foldl (fun (a : List Commit × State) e =>
    if outs.getD e.2 0 ≠ 13 then a else
    let p := picks.getD e.2 { token := none, logprob := 0, stop := none }
    let en := a.2.seq e.1.q
    let (r, s) := commitSeq e.1.q p.token p.stop a.2
    (a.1 ++ [{ slot := e.2, q := e.1.q, window := en.outWindow, customer := en.customer, token := p.token, logprob := p.logprob,
               reason := r.1, index := r.2, len := en.len + 1 }], s)) ([], s)

/-- A SEQ_CLOSE record as the stem forwards it to the members at the boundary that ends the close. -/
def closeRecord (q : Nat) : Taken :=
  { n := 0, bytes := padTo 256 (padTo 0x20 [0x39#8] ++ natLe 2 q), ordinal := 0, stamp := 0, list := [], reserved := [], started := false,
    orphan := false, core := 0, at_ := 0, order := 0, formed := none, shown := [], progress := 0 }

/-- The closes that a boundary ends (R257): the due ones, and those whose sequence a cancel has freed. -/
def endCloses (es : List Pending) (cancelled : List Nat) (s : State) : State :=
  let due := es.filterMap (fun e => match e.eff with | .close q => some q | _ => none)
  let s := due.foldl (fun s q => if (s.seq q).state = 6 then releaseEntry q (forwardWith (closeRecord q) [] s) else s) s
  let turned := s.seqs.effects.filter (fun e => match e.eff with | .close q => cancelled.contains q | _ => false)
  let s := s.setSeqs { s.seqs with
    effects := s.seqs.effects.filter (fun e => match e.eff with | .close q => !cancelled.contains q | _ => true) }
  replyEffects turned s

/-- The engine-balance window counts a step boundary (R302); a write of the pin fields makes it an edge (R305). -/
def countBoundary (s : State) : State :=
  s.setSeqs { s.seqs with
    windowBoundaries := if s.seqs.edgeDue then 64 else s.seqs.windowBoundaries + 1 }

/-- The stem learns that a member is held for a HOT stack: vector 19, and the log names the stack and the member (R358). -/
def holdMember (m stack : Nat) (s : State) : State :=
  if s.vine.held.contains (m, stack) then s
  else msix 19 (logErr 0x30 9 stack 0 m (s.setVine { s.vine with held := s.vine.held ++ [(m, stack)] }))

/-- Every stack of a member is COOL again. (DEDUCED, log entry 43) -/
def coolMember (m : Nat) (s : State) : State :=
  s.setVine { s.vine with held := s.vine.held.filter (fun h => h.1 != m) }

/-- A member of a group reports its HOT stacks, or that all are COOL again, as it applies a commit (R358). -/
def reportHeat (s : State) : State :=
  if !s.vine.coolDue then s else
  let hot := (List.range 16).filter (fun i => (s.stack i).thermal != 0)
  let told := s.vine.hotSent
  let new := hot.filter (fun i => !told.contains i)
  let s := s.setVine { s.vine with coolDue := false, hotSent := if hot.isEmpty then [] else told ++ new }
  let s := new.foldl (fun s i =>
    if s.vine.state = 3 then holdMember s.vine.member i s else vineSend 0x30 s.vine.stem [i] [] s) s
  if !hot.isEmpty || told.isEmpty then s
  else if s.vine.state = 3 then coolMember s.vine.member s else vineSend 0x31 s.vine.stem [] [] s

/-- The number that stands for no step in a COMMIT of a rest boundary. (DESIGN CHOICE, log entry 37) -/
def noStep : Nat := 2 ^ 64 - 1

/-- What the stem sends at a commit (R353, R354): ordinal, stamp, step, outcomes, tokens and charges; to the replica of the step, and
to every member when the boundary has effects of records, or charges that a later stem must know. -/
def groupCommit (st : Option Step) (outs : List Nat) (cs : List Commit) (effects : Bool) (ordinal stamp : Nat) (s : State) : State :=
  if s.vine.state ≠ 3 then s else
  let r := ((st.bind (fun p => p.slots.head?)).map (fun e => e.q % s.shapeR)).getD 0
  let dsts := if effects || st.isNone || !cs.isEmpty then s.vine.members else s.replicaMembers r
  let s := reportHeat (s.setVine { s.vine with lacking := s.vine.lacking.filter (fun q => st.isSome && q % s.shapeR != r) })
  let id := match st with | some p => p.id | none => noStep
  vineSendAll 0x15 dsts ([ordinal, stamp, id] ++ outs)
    (cs.flatMap (fun c => slotTokenBytes
        { slot := c.slot, token := BitVec.ofNat 32 c.tokenWord, logprob := c.logprob, stopReason := c.reason, stopIndex := c.index }) ++
      (cs.filter (fun c => c.token.isSome)).flatMap (fun c => natLe 2 c.customer ++ natLe 2 1)) s

/-- Pip stacks that have become HOT are reported at a step boundary of a module that stands alone (R151): the log, and vector 17. -/
def reportPips (s : State) : State :=
  (List.range 16).foldl (fun s i =>
    match (s.stack i).hotDue with
    | none => s
    | some temp => msix 17 (logErr 0x30 9 i 0 temp (s.modStack i (fun v => { v with hotDue := none })))) s

/-- A boundary of the module: that of a step, with its null mark and what each slot is to commit, or a rest boundary.
(DEDUCED, log entry 18) -/
def boundary (st : Option Step) (null : Bool) (picks : List SlotPick) (s : State) : State :=
  let stamp := s.now
  let id := st.map (·.id)
  let es := s.seqs.effects.filter (Pending.due id)
  let s := s.setSeqs { s.seqs with effects := s.seqs.effects.filter (fun e => !Pending.due id e) }
  let cancelled := cancelledBy es
  let outs0 := match st with | some p => slotOutcomes p null cancelled (trimmedBy es) s | none => []
  let s := applyEarly es s
  let (cs, s) := match st with | some p => commitSlots p outs0 picks s | none => ([], s)
  let s := s.setSeqs { s.seqs with
    boundaryCnt := (s.seqs.boundaryCnt + 1) % 2 ^ 64, steps := s.seqs.steps.filter (fun p => some p.id != id) }
  let ordinal := s.seqs.boundaryCnt
  let s := es.foldl (fun s e => applyBudget e.eff stamp s) s
  let s := cs.foldl (fun s c => if c.token.isSome then chargeToken c.customer stamp s else s) s
  let s := releaseMarked (endModels es (endCloses es cancelled s))
  let s := match st with
    | none => groupCommit none [] [] (!es.isEmpty) ordinal stamp s
    | some p =>
      let outs := outs0.zipIdx.map (fun e => match cs.find? (fun c => c.slot == e.2) with
        | some c => if c.token.isSome then 0 else 12
        | none => e.1)
      let orphan := match s.record p.w p.n with | some t => t.orphan | none => true
      let s := if orphan then s else deliver p.cap.perStep ordinal stamp cs s
      let s := stepReply p outs (cs.filter (fun c => c.reason != 0)).length null ordinal stamp s
      reportPips (countBoundary (groupCommit (some p) outs cs (!es.isEmpty) ordinal stamp s))
  applyLate es (replyEffects es s)

/-- A rest boundary is taken at once when no step is QUEUED, HEADING or FORMED (R254). -/
def restBoundary (s : State) : State := if s.seqs.steps.isEmpty then boundary none true [] s else s

/-- A member that follows the stem's commits (R353). -/
def State.follows (s : State) : Bool := s.vine.state == 2 || s.vine.state == 4 || s.vine.state == 5

/-- The commit at which an effect of a forwarded record falls on a member: that of the step in progress which names the sequence, or
the next. -/
def State.commitOf (s : State) (e : BoundaryEffect) : Option Nat :=
  match e with
  | .cancel q | .trim q _ _ | .parkStart q | .sampler q _ | .stops q _ =>
    (s.vine.steps.find? (fun h => h.planned && !h.chunk && h.slots.any (fun x => x.q == q && x.gen == (s.seq q).gen))).map (·.id)
  | _ => none

/-- A record's effect is put down for its effect boundary (R254, R36). -/
def addEffect (e : Pending) (s : State) : State :=
  if s.follows then s.setSeqs { s.seqs with effects := s.seqs.effects ++ [{ e with at_ := s.commitOf e.eff }] }
  else restBoundary (s.setSeqs { s.seqs with effects := s.seqs.effects ++ [e] })

/-- The effect boundary that R254 chooses for a record that names sequences: the step FORMED at its taking, if it is not BOUNDED
yet; otherwise the module's next boundary. -/
def State.effectAt (s : State) (t : Taken) : Option Nat :=
  t.formed.filter (fun id => s.seqs.steps.any (fun p => p.id == id))

/-- A FORMED step ends in a null boundary with a status and DETAIL (R32). -/
def nullBoundary (st : Step) (status detail : Nat) (s : State) : State :=
  boundary (some { st with fault := some (status, detail) }) true [] s

/-- The step with a number. -/
def State.step (s : State) (id : Nat) : Option Step := s.seqs.steps.find? (fun p => p.id == id)

/-- Step p's entry in the list changed. -/
def modStep (id : Nat) (f : Step → Step) (s : State) : State :=
  s.setSeqs { s.seqs with steps := mapIf (fun p => p.id == id) f s.seqs.steps }

/-- A QUEUED or HEADING step leaves without a boundary (R73, R380): effects that waited for its boundary wait for that of an earlier
step of the same sequence, or for the module's next one. -/
def removeStep (id : Nat) (s : State) : State :=
  let s := s.setSeqs { s.seqs with steps := s.seqs.steps.filter (fun p => p.id != id) }
  let seqOf := fun (e : BoundaryEffect) => match e with
    | .cancel q | .trim q _ _ | .close q | .parkStart q | .parkEnd q | .sampler q _ | .stops q _ => some q
    | _ => none
  let moved := mapIf (fun e => e.at_ == some id)
    (fun e => { e with at_ := (seqOf e.eff).bind (fun q => (s.stepsNaming q).head?.map (·.id)) }) s.seqs.effects
  s.setSeqs { s.seqs with effects := moved }

/-- A QUEUED or HEADING step is withdrawn with an answer (R380). -/
def withdrawStep (st : Step) (a : Answer) (s : State) : State := complete st.w st.n a (removeStep st.id s)

/-- A step that meets a fault in a layer stops there; its null boundary follows as STEP_BOUNDARY (R32). -/
def faultStep (id status detail : Nat) (s : State) : State :=
  modStep id (fun p => if p.fault.isSome then p else { p with fault := some (status, detail), hold := none }) s

end Sys2Proof.Machine
end

