-- ==== Sys2Proof/Machine/Layers.lean ====
section
/-! DEFINITION. One layer of a step or a prompt chunk: weight rows through their checked reads, the narrowing of inputs, the matrices,
KV entries, attention and the residual sums, in the order of spec 01's table of operations; the input of layer 0 (R461) and the output
head; wide form (R214, R215). The values are the same on every unit kind (R27, R187), so they are computed once here. -/

namespace Sys2Proof.Machine

/-! ## What stops a layer -/

/-- What ends or holds a layer. -/
inductive Stop where
  /-- A read of an unmirrored quarantined block (R375). -/
  | hold (block : Nat)
  /-- A poisoned weight read whose block is not quarantined (R376). -/
  | weight
  | skew
  /-- Poisoned KV: the rows (by index) with the positions (R258). -/
  | kv (bad : List (Nat × Nat))
  | thermal (stack : Nat)
  /-- The layer falls into wide form: cause and point (R214). -/
  | wide (cause point : Nat)
  /-- The sums of another rank have not arrived (R356), in the first run of the layer or in its run in wide form. -/
  | parts (rerun : Bool)
  deriving DecidableEq, Repr

/-- A computation over the state that may stop. -/
abbrev Lay := ExceptT Stop (StateM State)

/-- A reading or writing operation of the state, as a step of a layer. -/
def layOp {α : Type} (f : State → α × State) : Lay α := fun s => let (a, s) := f s; (.ok a, s)

/-- The state as it stands. -/
def layState : Lay State := fun s => (.ok s, s)

/-- A change of the state. -/
def layMod (f : State → State) : Lay Unit := fun s => (.ok (), f s)

/-- The layer stops. -/
def layStop {α : Type} (e : Stop) : Lay α := fun s => (.error e, s)

/-- A token row of a step or a chunk: its sequence, variant, sampling seed, position, and its hidden vector. -/
structure Row where
  q : Nat
  variant : Nat
  seed : Nat
  pos : Nat
  token : Nat
  hidden : List F32
  /-- The row is carried to the end of its chunk and its results are discarded (R462). -/
  dead : Bool
  deriving DecidableEq, Repr

/-- What a layer's run is given: the model and its number, the settings captured, whether the rows run on Press or pip units (for
the logs), this member's rank in W, and the sums received from other ranks. -/
structure LayerIn where
  /-- The number of this member's share in a cascade. -/
  share : Nat
  m : Nat
  model : Model
  cap : Captured
  layer : Nat
  wide : Bool
  /-- The layer runs again after a fall into wide form. -/
  rerun : Bool
  batch : Nat
  chunk : Bool
  w : Nat
  rank : Nat
  parts : List (Nat × Nat × Nat × List F32)
  deriving DecidableEq, Repr

/-- What a step, a chunk or a share of model m captures as it starts (R41, R171, R191, R212, R216, R275, R279). -/
def State.capture (s : State) (m : Nat) (masks : List Nat) : Captured :=
  { descs := (s.model m).descs, scaleSet := (s.model m).scaleSet, lenLog2 := s.press.lenLog2, srEn := s.press.en,
    srKey := s.press.key, force := s.drupe.force, defaultLimit := s.drupe.defaultLimit, pipLimit := s.drupe.pipLimit,
    drupeLimit := s.drupe.drupeLimit, perStep := s.perStep, maskVers := masks.map (fun x => (x, (s.mask x).vers)) }

/-- What the layers of a step or chunk that this module runs alone are given. -/
def State.layerIn (s : State) (m : Nat) (cap : Captured) (layer batch : Nat) (chunk : Bool) : LayerIn :=
  { share := 0, m := m, model := s.model m, cap := cap, layer := layer, wide := false, rerun := false, batch := batch,
    chunk := chunk, w := 1, rank := 0, parts := [] }

/-! ## Descriptors and keys -/

/-- The descriptor captured for a layer. -/
def LayerIn.desc (c : LayerIn) (l : Nat) : LayerDesc :=
  (tget none c.cap.descs l).getD { bsnFirst := [], attnScale := 0, normEps := 0, actFn := 0, clipLimit := 0 }

/-- Keys of scales, channels and gains. -/
def scaleKey (l mat row : Nat) : Nat := (l * 8 + mat) * 2 ^ 20 + row
/-- Key of an input channel. -/
def channelKey (l p j : Nat) : Nat := (l * 4 + p) * 2 ^ 20 + j
/-- Key of a gain. -/
def gainKey (i j : Nat) : Nat := i * 2 ^ 20 + j

/-! ## Weight rows (R109, R157 to R159, R170, R200 to R206) -/

/-- The map entry that holds a row, with the row's place in it. -/
def Model.entryOf (m : Model) (l mat row : Nat) : Option (MapEntry × Nat) :=
  (m.map.find? (fun e => e.layer == l && e.mat == mat && decide (e.rowFirst ≤ row) && decide (row < e.rowFirst + e.rowCount))).map
    (fun e => (e, row - e.rowFirst))

/-- The longest reduction of a layer's matrices: a layer with one beyond the spill length runs whole on Press engines (R187). -/
def Model.layerCols (m : Model) (l : Nat) : Nat :=
  if l = m.layers then m.matCols 7 else (List.range 7).foldl (fun k mat => max k (m.matCols mat)) 0

/-- A 4 KiB block that row i of a map entry, or its record slot, touches is quarantined. -/
def rowQuarantined (c : LayerIn) (e : MapEntry) (i cols : Nat) (s : State) : Bool :=
  let hit := fun (base stride n : Nat) => (List.range (ceilDiv n 4096)).any (fun k =>
    (s.quarSlot ((base + k * stride) / 4096)).isSome || (s.quarSlot ((base + k * stride + min 4096 (n - 4096 * k) - 1) / 4096)).isSome)
  !s.mem.quarantine.isEmpty && (hit (e.codeDpa + i * e.rowStride) e.pieceStride (rowCodeBytes c.model.wFormat cols 8) ||
    hit (e.recDpa + i * e.recStride) e.recPieceStride (rowSlotBytes c.model.wFormat cols))

/-- A layer's matrices run on Press engines: those of a chunk, of a batch above DRUPE_LIMIT, and of a layer with a reduction beyond the
spill length (R167, R187, R194). -/
def LayerIn.onPress (c : LayerIn) (l : Nat) : Bool :=
  c.chunk || decide (c.cap.drupeLimit < c.batch) || decide (8 * 2 ^ c.cap.lenLog2 < c.model.layerCols l)

/-- The unit kind that reads row i of a map entry (R167, R187, R194): 3 Press, 6 pip, 2 Drupe. Only rows in compute granules run in
pips; Drupe engines take the rows of a stack that is HOT or STOPPED (R151) and those with a quarantined block (R372). (DEDUCED, log
entry 21, DESIGN CHOICE, log entry 52) -/
def rowKind (c : LayerIn) (l : Nat) (e : MapEntry) (i cols : Nat) (s : State) : Nat :=
  if c.onPress l then 3
  else if isPipStack e.stack && decide (c.batch ≤ c.cap.pipLimit) && c.cap.pipLimit != 0 && s.isCompute (e.codeDpa + i * e.rowStride) &&
    (s.stack e.stack).thermal == 0 && !rowQuarantined c e i cols s then 6
  else 2

/-- The rows of a matrix that Drupe engines of wedge w read, ascending. -/
def wedgeRows (c : LayerIn) (w l mat : Nat) (s : State) : List Nat :=
  (List.range (c.model.matRows mat)).filter (fun r =>
    match c.model.entryOf l mat r with
    | some (e, i) => e.stack / 4 == w && rowKind c l e i (c.model.matCols mat) s == 2
    | none => false)

/-- The engine with the fewest bytes so far, ties to the lowest number (R168). -/
def leastLoaded (load : Table Nat) : List Nat → Option Nat
  | [] => none
  | e :: es => match leastLoaded load es with
    | some o => if tget 0 load o < tget 0 load e then some o else some e
    | none => some e

/-- Bytes of a row of a matrix and its record slot. -/
def Model.rowBytes (m : Model) (mat : Nat) : Nat := rowCodeBytes m.wFormat (m.matCols mat) 8 + rowSlotBytes m.wFormat (m.matCols mat)

/-- Bands of rows, each with its matrix, dealt in order to the engine with the fewest bytes so far (R168). -/
def Model.dealBands (m : Model) (es : List Nat) (bands : List (Nat × List Nat)) : List (Nat × List Nat × Nat) :=
  (bands.foldl (fun (a : List (Nat × List Nat × Nat) × Table Nat) b =>
    match leastLoaded a.2 es with
    | .none => a
    | some e => (a.1 ++ [(b.1, b.2, e)], tset 0 a.2 e (tget 0 a.2 e + b.2.length * m.rowBytes b.1))) ([], [])).1

/-- The matrices of a layer. -/
def Model.layerMats (m : Model) (l : Nat) : List Nat := if l = m.layers then [7] else List.range 7

/-- How the rows that Drupe engines read fall to a wedge's engines in DECODE: bands of 256 rows, over the matrices of the layer in order,
each to the engine with the fewest bytes so far (R168, R301): matrix, rows and engine of each band. (DEDUCED, log entry 21) -/
def drupeBands (c : LayerIn) (w l : Nat) (s : State) : List (Nat × List Nat × Nat) :=
  let es := (List.range 6).map (6 * w + ·) |>.filter (fun e => (s.drupeEngine e).phase == 0)
  c.model.dealBands es ((c.model.layerMats l).flatMap (fun x => (chunksOf 256 (wedgeRows c w l x s)).map (fun band => (x, band))))

/-- The Drupe engine that a row falls to. -/
def drupeDealt (c : LayerIn) (w l mat row : Nat) (s : State) : Option Nat :=
  ((drupeBands c w l s).find? (fun b => b.1 == mat && b.2.1.contains row)).map (·.2.2)

/-- A Drupe engine has read n bytes from the stacks (R172). -/
def countRead (e n : Nat) (s : State) : State :=
  s.modDrupe e (fun v => { v with readBytes := v.readBytes + n })

/-- The order in which R303 makes Press engines work on prompts. -/
def pressOrder : List Nat := [1, 3, 5, 7, 0, 2, 4, 6]

/-- The unit that reads a row, as DRP_SKEW_LOG and the error log name it: by R168 and R194; where those deal no engine (a step on
Press), a free choice among the Press engines in DECODE. (DEDUCED, log entry 21) -/
def dealtTo (c : LayerIn) (kind l mat row : Nat) (e : MapEntry) (s : State) : Nat × State :=
  let (x, s1) := s.free
  if kind = 6 then (32 + pipOfStack e.stack, s)
  else if kind = 3 then
    let es := pressOrder.filter (fun p => (s.pressEngine p).phase == b2n c.chunk)
    if c.chunk && !es.isEmpty then (24 + es.getD (row / 256 % es.length) 0, s)
    else (24 + es.getD (x % max 1 es.length) (x % 8), s1)
  else match drupeDealt c (e.stack / 4) l mat row s with
    | some u => (u, s)
    | none => (6 * (e.stack / 4) + x % 6, s1)

/-- The tile spills of a matrix that Press engines take (R184, R196): each band of 256 matrix rows is a group on one engine, which spills
every tile of the group at each spill point that more terms follow. -/
def countSpills (c : LayerIn) (l mat : Nat) (s : State) : State :=
  let points := (ceilDiv (c.model.matCols mat) 8 - 1) / 2 ^ c.cap.lenLog2
  if points = 0 then s else
  (List.range (ceilDiv (c.model.matRows mat) 256)).foldl (fun s b =>
    match c.model.entryOf l mat (256 * b) with
    | none => s
    | some (e, _) =>
      let (u, s) := dealtTo c 3 l mat (256 * b) e s
      s.modPress (u - 24) (fun v => { v with spills := satAdd 32 v.spills (points * ceilDiv c.batch 32) })) s

/-- A Drupe engine of wedge w in DECODE has read n bytes; which one, the spec leaves open. (DESIGN CHOICE, log entry 52) -/
def countAny (w n : Nat) (s : State) : State :=
  let es := (List.range 6).map (6 * w + ·) |>.filter (fun e => (s.drupeEngine e).phase == 0)
  let (x, s) := s.free
  es.zipIdx.foldl (fun s e => countRead e.1 (if e.2 = x % es.length then n else 0) s) s

/-- What the units of a matrix that has been read count (R152, R172, R196): its Drupe engines the bytes of their rows, its Press engines their
tile spills, and the gatherers of the pip stacks the row results that they have written. -/
def countMatrix (c : LayerIn) (l mat : Nat) (s : State) : State :=
  let s0 := s
  let s := (List.range 4).foldl (fun s w =>
    ((drupeBands c w l s0).filter (fun b => b.1 == mat)).foldl (fun s b =>
      countRead b.2.2 (b.2.1.length * c.model.rowBytes mat) (s.modDrupe b.2.2 (fun v => v.beginLayer c.m l))) s) s
  let s := if c.onPress l then countSpills c l mat s else s
  (List.range 8).foldl (fun s k =>
    let n := ((List.range (c.model.matRows mat)).filter (fun r =>
      match c.model.entryOf l mat r with
      | some (e, i) => e.stack == stackOfPip k && rowKind c l e i (c.model.matCols mat) s0 == 6
      | none => false)).length
    if n = 0 then s else s.modPip k (fun v => { v with rowsRc := satAdd 32 v.rowsRc n })) s

/-- A stopped read's cause, by the burst that was poisoned. -/
def weightStop (b : Nat) (s : State) : Stop :=
  if s.stopped (32 * b) && !s.diverted b then .thermal (s.stackOf (32 * b))
  else if (s.quarSlot (b / 128)).isSome then .hold (b / 128) else .weight

/-- A fault of a Press engine enters PRS_FAULT_LOG (R175, R196). -/
def notePress (layer engine tile group kind : Nat) (s : State) : State :=
  s.setPress { s.press with
    faultCount := satAdd 8 s.press.faultCount 1, faultLayer := layer % 256, faultEngine := engine, faultTile := tile,
    faultGroup := group, faultKind := kind }

/-- An uncorrectable word of the module's own memories is recorded, at a layer: in the error log, and in PRS_FAULT_LOG or ZST_FAULT for
a lane word or a bank word (R177, R233, R371). The bank rewritten from its image holds what it held. (DESIGN CHOICE, log entry 44) -/
def noteOwn (layer : Nat) (f : OwnFault) (s : State) : State :=
  match f with
  | .sram u a => if u.val < 24 then logErr 0x12 2 u.val a (u.val / 6) s else logErr 0x12 3 (u.val - 24) a ((u.val - 24) / 2) s
  | .lane e t g => notePress layer e.val t.val g.val 1 (logErr 0x15 3 e.val 0 t.val s)
  | .bank i p sl =>
    let s := logErr 0x16 13 i.val 0 sl.val s
    s.setZest { s.zest with
      faultCount := satAdd 8 s.zest.faultCount 1, faultSection := i.val, faultBank := s.zest.current, faultKind := b2n p,
      faultSlot := sl.val }

/-- Bank words that the code corrected are counted (R233). (DESIGN CHOICE, log entry 44) -/
def noteCorrected (n : Nat) (s : State) : State :=
  if n = 0 then s else s.setZest { s.zest with faultCorr := satAdd 12 s.zest.faultCorr n }

/-- A poisoned weight read (kind 3) or a skew (kind 4) on a Press engine: the tile and group where an instruction names them, and free
ones for a layer, whose groups the spec leaves to firmware. (DEDUCED, log entry 21) -/
def pressFault (c : LayerIn) (kind engine : Nat) (place : Option (Nat × Nat)) (s : State) : State :=
  if engine < 24 || 32 ≤ engine then s else
  match place with
  | some (tile, group) => notePress c.layer (engine - 24) tile group kind s
  | none =>
    let (x, s) := s.free
    let (y, s) := s.free
    notePress c.layer (engine - 24) (x % 56) (y % 8) kind s

/-- n bytes across 4 KiB pieces of a row or slot. -/
def readPieces (r : ReadBy) (base stride n : Nat) (s : State) : ReadOut × State :=
  (List.range (ceilDiv n 4096)).foldl (fun (a : ReadOut × State) i =>
    a.1.andThen (moduleRead r (base + i * stride) (min 4096 (n - 4096 * i)) a.2)) ({ bytes := [], bad := none }, s)

/-- A skew or malformed block enters DRP_SKEW_LOG and the error log (R158, R204). -/
def logSkew (c : LayerIn) (mat unit : Nat) (place : Option (Nat × Nat)) (addr expected found : Nat) (s : State) : State :=
  let s := s.setDrupe { s.drupe with
    skewExpected := expected, skewFound := found, skewEngine := unit, skewCount := satAdd 8 s.drupe.skewCount 1,
    skewMatrix := mat, skewLayer := c.layer }
  let s := pressFault c 4 unit place s
  let (kind, idx) := if unit < 24 then (2, unit) else if unit < 32 then (3, unit - 24) else (6, unit - 32)
  logErr 0x14 kind idx addr c.layer s

/-- Row i of a map entry, row number row of its matrix, read and decoded by a unit; the unit is the one named, or the one that the
row is dealt to. -/
def readRowAs (c : LayerIn) (kind : Nat) (unit : Option Nat) (place : Option (Nat × Nat)) (l mat row : Nat) (e : MapEntry) (i : Nat) :
    Lay (List RowTerm) := do
    let cols := c.model.matCols mat
    let fmt := c.model.wFormat
    let code := e.codeDpa + i * e.rowStride
    let who : State → Nat × State := fun s => match unit with
      | some u => (u, s)
      | none => dealtTo c kind l mat row e s
    let o ← layOp (readPieces (stepReader kind) code e.pieceStride (rowCodeBytes fmt cols 8))
    let p ← layOp (readPieces (stepReader kind) (e.recDpa + i * e.recStride) e.recPieceStride (rowSlotBytes fmt cols))
    match o.bad.orElse (fun _ => p.bad) with
    | some b =>
      let u ← layOp who
      layMod (pressFault c 3 u place)
      let s ← layState
      layStop (weightStop b s)
    | none =>
      let bsn := (c.desc l).bsnFirst.getD mat 0
      match decodeRow fmt cols 0 8 bsn row o.bytes p.bytes with
      | .ok ts => return ts
      | .error f =>
        let nb := ceilDiv cols 256
        let (blk, ex, fo) := match f with
          | .skew k ex fo => (k, ex, fo)
          | .malformed k => (k, (bsn + row * nb + k) % 65536, (bsn + row * nb + k) % 65536)
        let u ← layOp who
        layMod (logSkew c mat u place (code + blk * (32 * fmtWidth fmt)) ex fo)
        layStop .skew

/-- Row row of matrix mat of layer l, read and decoded. -/
def readRow (c : LayerIn) (l mat row : Nat) : Lay (List RowTerm) := do
  match c.model.entryOf l mat row with
  | none => return []
  | some (e, i) =>
    let s ← layState
    readRowAs c (rowKind c l e i (c.model.matCols mat) s) none none l mat row e i

/-! ## Sums and ranks (R161, R185, R186, R356) -/

/-- The sum of one lane of a row. -/
def laneOfRow (len : Nat) (row : List RowTerm) (a : Nat → F32) (l : Nat) : F32 :=
  laneKeep len ((row.filter (fun t => t.col % 8 == l)).map (fun t => product t.v (a t.col) t.b))

/-- The half of lane l on one side of in-lane position h; spill points count from the start of the lane (R186). -/
def halfLane (len : Nat) (row : List RowTerm) (a : Nat → F32) (l h : Nat) (second : Bool) : F32 :=
  let ts := (row.filter (fun t => t.col % 8 == l && (decide (t.col / 8 < h) != second))).map (fun t => product t.v (a t.col) t.b)
  laneClose (laneKeepGo len (if second then h else 0) LaneAcc.zero ts)

/-- The subtree of rank k of W over lane sums, or over half-lane sums at W = 16 (R356). -/
def subtree (w k : Nat) (lane : Nat → F32) (half : Nat → Bool → F32) : F32 :=
  match w with
  | 1 => octetTree f32Add lane
  | 2 => f32Add (f32Add (lane (4 * k)) (lane (4 * k + 1))) (f32Add (lane (4 * k + 2)) (lane (4 * k + 3)))
  | 4 => f32Add (lane (2 * k)) (lane (2 * k + 1))
  | 8 => lane k
  | _ => half (k % 8) (decide (8 ≤ k))

/-- The subtree sum of rank k of W for one row (R356). -/
def rankSum (w k cols len : Nat) (row : List RowTerm) (a : Nat → F32) : F32 :=
  subtree w k (laneOfRow len row a) (fun l second => halfLane len row a l (ceilDiv cols 16) second)

/-- The remaining tree over the ranks' sums (R356). -/
def joinRanks (w : Nat) (x : Nat → F32) : F32 :=
  match w with
  | 1 => x 0
  | 2 => f32Add (x 0) (x 1)
  | 4 => f32Add (f32Add (x 0) (x 1)) (f32Add (x 2) (x 3))
  | 8 => octetTree f32Add x
  | _ => octetTree f32Add (fun l => f32Add (x l) (x (l + 8)))

/-- FP32 words as bytes. -/
def f32Bytes (xs : List F32) : List Byte := xs.flatMap (fun x => natLe 4 x.toNat)

/-- A share changed by f. -/
def modShare (id : Nat) (f : Share → Share) (s : State) : State :=
  s.setVine { s.vine with steps := mapIf (fun h => h.id == id) f s.vine.steps }

/-- The share with a number. -/
def State.share (s : State) (id : Nat) : Option Share := s.vine.steps.find? (fun h => h.id == id)

/-- This rank's sums of a matrix go to the other ranks of its widen set, once for each run of the layer (R356). -/
def sendPart (c : LayerIn) (mat : Nat) (own : List F32) (s : State) : State :=
  match s.share c.share with
  | none => s
  | some h =>
    if h.sent.contains (c.layer, mat, c.rerun) then s else
    let me := s.vine.member
    let set_ := (List.range s.shapeW).map (fun k => s.memberAt (s.replicaOf me) (s.stageOf me) k)
    vineSendAll 0x12 set_ [c.share, c.layer, mat, c.rank] (f32Bytes own)
      (modShare c.share (fun h => { h with sent := h.sent ++ [(c.layer, mat, c.rerun)] }) s)

/-- The sums of every rank for a matrix: this rank's own, and those received; the layer waits while one is missing. Of the two
hand-offs of a matrix whose layer runs again, the second is that of the wide form. -/
def exchange (c : LayerIn) (mat : Nat) (own : List F32) : Lay (Nat → List F32) := do
  let got := fun k => if k = c.rank then some own
    else ((c.parts.filter (fun p => p.1 == c.layer && p.2.1 == mat && p.2.2.1 == k))[b2n c.rerun]?).map (·.2.2.2)
  if c.w ≠ 1 then layMod (sendPart c mat own)
  if (List.range c.w).all (fun k => (got k).isSome) then return (fun k => (got k).getD [])
  else layStop (.parts c.rerun)

/-- The stack of the base row of a delta block. -/
def Model.rowStack (m : Model) (d : DeltaBlock) : Nat := ((m.entryOf d.layer d.mat d.row).map (·.1.stack)).getD 0

/-- The DPA of a delta block (R298): the blocks of one stack stand in the order of the image, 512 bytes each, in the variant's pages or
granules of that stack. That layout the spec leaves to firmware. (DESIGN CHOICE, log entry 29) -/
def State.deltaAt (s : State) (m : Model) (v : Variant) (d : DeltaBlock) : Nat :=
  let st := m.rowStack d
  let i := (v.blocks.filter (fun x => m.rowStack x == st)).idxOf d
  if isPipStack st then 65536 * (v.granules.filter (fun g => s.stackOf (65536 * g) == st)).getD (i / 128) 0 + 512 * (i % 128)
  else s.pageDpa ((v.pages.filter (fun p => stackOfPlain (p / 65536) == st)).getD (i / 4096) 0) (512 * (i % 4096))

/-- A delta block read by a Drupe engine of the wedge that holds it (R20, R162, R195), its values those that memory holds. -/
def readDelta (c : LayerIn) (v : Variant) (d : DeltaBlock) : Lay DeltaBlock := do
  let s ← layState
  let o ← layOp (moduleRead (stepReader 2) (s.deltaAt c.model v d) 512)
  layMod (countAny (c.model.rowStack d / 4) 512)
  match o.bad with
  | some b =>
    let s ← layState
    layStop (weightStop b s)
  | none => return { d with values := (chunksOf 2 o.bytes).map (fun b => BitVec.ofNat 16 (leNat b)) }

/-- The deltas of a row for each variant of the layer's rows, read once (R162). -/
def readDeltas (c : LayerIn) (l mat row : Nat) (vars : List (Nat × Variant)) : Lay (List (Nat × Variant)) :=
  (vars.filter (fun v => v.1 != 0)).eraseDups.mapM (fun v => do
    let ds ← (v.2.blocks.filter (fun b => b.layer == l && b.mat == mat && b.row == row)).mapM (readDelta c v.2)
    return (v.1, { v.2 with blocks := ds }))

/-- Rank k's part of Δx of a row for a variant and its unquantised input (R162): the lane sums of its subtree. -/
def deltaRank (w k cols : Nat) (v : Variant) (l mat row : Nat) (x : List F32) : F32 :=
  let es := (v.blocks.filter (fun b => b.layer == l && b.mat == mat && b.row == row)).flatMap (fun b =>
    (b.values.zipIdx.filter (fun e => !f32IsZero (f32OfBf16 e.1))).map (fun e => (256 * b.block + e.2, f32OfBf16 e.1)))
  let some_ := fun (p : Nat → Bool) => laneSum ((es.filter (fun e => p e.1)).map (fun e => f32Mul e.2 (x.getD e.1 0)))
  subtree w k (fun i => some_ (fun col => col % 8 == i))
    (fun i second => some_ (fun col => col % 8 == i && (decide (col / 8 < ceilDiv cols 16) != second)))

/-- The finish of a row (R161): channel scale, and the correction of a variant. -/
def finishRow (c : LayerIn) (l mat row variant : Nat) (r dx : F32) : F32 :=
  let y := f32Mul r (tget f32One c.cap.scaleSet.scales (scaleKey l mat row))
  if variant = 0 then y else f32Add y dx

/-- An input in its narrowed form, with the unquantised vector. -/
structure Narrowed where
  x : List F32
  a : List F32
  /-- Its bytes in an activation stage: INT8, or BF16 in wide form (R133). -/
  raw : List Byte
  deriving DecidableEq, Repr

/-- A matrix applied to the rows' inputs: for each row of the step its output vector. The ranks' sums of a row come first, then those
of the corrections. -/
def runMatrix (c : LayerIn) (l mat : Nat) (rows : List Row) (ins : List Narrowed) : Lay (List (List F32)) := do
  let cols := c.model.matCols mat
  let n := c.model.matRows mat
  let s ← layState
  let vars := rows.map (fun r => (r.variant, tget Variant.none s.seqs.variants r.variant))
  let own ← (List.range n).mapM (fun i => do
    let ts ← readRow c l mat i
    let ds ← readDeltas c l mat i vars
    return ins.map (fun v => rankSum c.w c.rank cols (2 ^ c.cap.lenLog2) ts (fun j => v.a.getD j 0)) ++
      List.zipWith (fun v (x : Narrowed) => match ds.find? (fun e => e.1 == v.1) with
        | some e => deltaRank c.w c.rank cols e.2 l mat i x.x
        | none => 0) vars ins)
  layMod (countMatrix c l mat)
  let all ← exchange c mat own.flatten
  let b := rows.length
  return (List.range b).map (fun q => (List.range n).map (fun i =>
    finishRow c l mat i ((rows[q]?.map (·.variant)).getD 0)
      (joinRanks c.w (fun k => (all k).getD (2 * i * b + q) 0)) (joinRanks c.w (fun k => (all k).getD (2 * i * b + b + q) 0))))

/-! ## Narrowing (R190, R191, R209, R214, R215) -/

/-- The rounding of element x narrowed at a point of a layer for a row. -/
def LayerIn.rounding (c : LayerIn) (l p : Nat) (r : Row) (x : Nat) : Rounding :=
  if c.cap.srEn then .stochastic (srDraw c.cap.srKey r.seed l p r.pos x) else .nearest

/-- The input of a point narrowed for every row. In INT8 form the share of clipped inputs, or a NaN or infinite input, sends the
layer into wide form before its matrices run. -/
def narrow (c : LayerIn) (l p : Nat) (rows : List Row) (xs : List (List F32)) : Lay (List Narrowed) := do
  if c.wide then
    return List.zipWith (fun r x =>
      let b := x.zipIdx.map (fun e => bf16Of (c.rounding l p r e.2) e.1)
      { x := x, a := b.map f32OfBf16, raw := b.flatMap (fun v => natLe 2 v.toNat) }) rows xs
  else
    let ch := fun j => tget Channel.initial c.cap.scaleSet.channels (channelKey l p j)
    let qs := List.zipWith (fun r x => x.zipIdx.map (fun e => quantise (c.rounding l p r e.2) (ch e.2) e.1)) rows xs
    let clipped := (qs.map (fun v => (v.filter (·.2)).length)).sum
    let lim := if (c.desc l).clipLimit = 0 then c.cap.defaultLimit else (c.desc l).clipLimit
    if xs.any (fun x => x.any (fun v => !f32Finite v)) then layStop (.wide 2 p)
    else if c.cap.force = 0 && decide (lim * (xs.length * c.model.pointWidth p) < clipped * 10000) then layStop (.wide 1 p)
    else return List.zipWith (fun x v => { x := x, a := v.zipIdx.map (fun e => dequantise (ch e.2) e.1.1), raw := v.map (·.1) }) xs qs

/-- The matrices that read the input of a narrowing point. -/
def pointMats (c : LayerIn) (l p : Nat) : List Nat :=
  if l = c.model.layers then [7] else match p with | 0 => [0, 1, 2] | 1 => [3] | 2 => [4, 5] | _ => [6]

/-- Pips of pip stack k compute rows of a matrix. -/
def pipsTake (c : LayerIn) (l mat k : Nat) (s : State) : Bool :=
  c.model.map.any (fun e => e.layer == l && e.mat == mat && e.stack == stackOfPip k &&
    (List.range e.rowCount).any (fun i => rowKind c l e i (c.model.matCols mat) s == 6))

/-- An input goes to the activation stage of each pip stack whose pips take rows of its matrices, with its column table (R133, R213); an
input wider than the stage goes in column segments, one after another (R135). -/
def stageInput (c : LayerIn) (l p : Nat) (ins : List Narrowed) (s : State) : State :=
  (List.range 8).foldl (fun s k =>
    if !(pointMats c l p).any (fun mat => pipsTake c l mat k s) then s
    else s.modPip k (fun v =>
      let cols := List.range (c.model.pointWidth p)
      let ch := fun j => tget Channel.initial c.cap.scaleSet.channels (channelKey l p j)
      { v with
        stage := (ins.take 8).zipIdx.foldl (fun t x => (chunksOf 16384 x.1.raw).foldl (fun t seg => tsets 0 t (16384 * x.2) seg) t) v.stage,
        colScale := if c.wide then v.colScale else tsets f32One [] 0 (cols.map (fun j => (ch j).g)),
        colOffset := if c.wide then v.colOffset else tsets 0 [] 0 (cols.map (fun j => (ch j).o)) })) s

/-- A point's input narrowed, and in the stages of the pips that take it. -/
def narrowTo (c : LayerIn) (l p : Nat) (rows : List Row) (xs : List (List F32)) : Lay (List Narrowed) := do
  let v ← narrow c l p rows xs
  layMod (stageInput c l p v)
  return v

/-- A normalisation of every row (R238, R239). -/
def normRows (c : LayerIn) (l index : Nat) (xs : List (List F32)) : List (List F32) :=
  let gain := (List.range c.model.hidden).map (fun j => tget f32One c.cap.scaleSet.gains (gainKey index j))
  xs.map (normRow (!c.cap.scaleSet.plain.contains index) (c.desc l).normEps gain)

/-! ## KV entries and attention (R164, R165, R234, R247, R258) -/

/-- The page that holds position t of sequence q for a row: the one its fill has reserved, or that of its page list. -/
def State.kvPage (s : State) (q t : Nat) : Option Nat :=
  let e := s.seq q
  let p := max 1 (s.modelOf q).perPage
  let k := t / p
  let listed := e.pages[k]?
  let fill := e.appends.head?.filter (fun a => a.begun && pageWritten p a.len0 a.rows.length k)
  match listed, fill.bind (fun a => (a.reserved.find? (fun r => r.1 == k)).map (·.2)) with
  | some r, some p => if (fill.map (·.copied.contains k)).getD false then some p else some r.page
  | some r, none => some r.page
  | none, r => r

/-- An element of K or V in KV_FORMAT: its bytes, and whether it saturated. -/
def kvEncode (fmt : Nat) (r : Rounding) (x : F32) : List Byte × Bool :=
  match fmt with
  | 5 => ([e4m3Of r x], e4m3Saturates x)
  | 6 => ([e5m2Of r x], false)
  | _ => (natLe 2 (bf16Of r x).toNat, false)

/-- An element of K or V from its bytes (exact). -/
def kvDecode (fmt : Nat) (b : Nat) : F32 :=
  match fmt with
  | 5 => f32OfE4m3 (BitVec.ofNat 8 b)
  | 6 => f32OfE5m2 (BitVec.ofNat 8 b)
  | _ => f32OfBf16 (BitVec.ofNat 16 b)

/-- The KV heads that this rank holds (R348). -/
def LayerIn.holdsHead (c : LayerIn) (h : Nat) : Bool := h % c.w == c.rank % c.w

/-- Operation 4: the K and V entries of a row at its position (R190, R191, R198). (DESIGN CHOICE, log entry 45) -/
def writeKv (c : LayerIn) (l : Nat) (r : Row) (k v : List F32) : Lay Unit := do
  let m := c.model
  let s ← layState
  match if r.dead then none else s.kvPage r.q r.pos with
  | none => return
  | some page =>
    let enc := fun p (xs : List F32) => xs.zipIdx.map (fun e => kvEncode m.kvFormat (c.rounding l p r e.2) e.1)
    let ks := enc 4 k
    let vs := enc 5 v
    let held := (List.range m.kvHeads).filter c.holdsHead
    let sat := ((held.flatMap (fun h => (ks.drop (h * m.headDim)).take m.headDim ++ (vs.drop (h * m.headDim)).take m.headDim)).filter (·.2)).length
    layMod (fun s => s.setDrupe { s.drupe with kvSat := satAdd 16 s.drupe.kvSat sat })
    let hb := m.headDim * m.kvWidth
    let off := m.kvOffset l r.pos
    for h in List.range m.kvHeads do
      if c.holdsHead h then
        for x in [(0, ks), (1, vs)] do
          let d := (x.2.drop (h * m.headDim)).take m.headDim |>.flatMap (·.1)
          let ok ← layOp (writePage 2 page (off + x.1 * m.kvHeads * hb + h * hb) d)
          if !ok then layStop (.thermal (stackOfPlain (page / 65536)))

/-- The K and V of positions 0 to t of sequence q in layer l, as values with the wedge of each position; none where the burst is
poisoned. -/
def readKv (c : LayerIn) (l q t : Nat) (s : State) : List (Nat × Nat × Option (List F32)) × State :=
  let m := c.model
  (List.range (t + 1)).foldl (fun (a : List (Nat × Nat × Option (List F32)) × State) i =>
    match a.2.kvPage q i with
    | none => a
    | some page =>
      let (o, s) := readPage (stepReader 2) page (m.kvOffset l i) m.kvBytes a.2
      let vals := (chunksOf m.kvWidth o.bytes).map (fun b => kvDecode m.kvFormat (leNat b))
      (a.1 ++ [(i, page / 65536 / 2, if o.bad.isNone then some vals else none)], s)) ([], s)

/-- The octet-order dot product of two vectors. -/
def dot (a b : List F32) : F32 := octetSum (List.zipWith f32Mul a b)

/-- Lane sums over the positions of a row, joined as R234 states: granules of P positions within a wedge in ascending order, wedges
in order; f gives the term of a position, lane its position modulo 8. -/
def attnSum (perPage : Nat) (ps : List (Nat × Nat)) (f : Nat → F32) : F32 :=
  let granules := (ps.map (fun p => p.1 / perPage)).eraseDups
  let lane := fun wd l =>
    granules.foldl (fun acc g =>
      let mine := ps.filter (fun p => p.1 / perPage == g && p.2 == wd)
      if mine.isEmpty then acc
      else f32Add acc (laneSum ((mine.filter (fun p => p.1 % 8 == l)).map (fun p => f p.1)))) 0
  octetTree f32Add (fun l => f32Add (f32Add (f32Add (lane 0 l) (lane 1 l)) (lane 2 l)) (lane 3 l))

/-- Attention of one query head over the positions read (R164, R234). (PRESUMED, log entry 26) -/
def attnHead (m : Model) (scale : F32) (kv : List (Nat × Nat × List F32)) (h : Nat) (q : List F32) : List F32 :=
  let kh := h / (m.qHeads / max 1 m.kvHeads)
  let part := fun (v : List F32) base => (v.drop (base + kh * m.headDim)).take m.headDim
  let score := kv.map (fun e => (e.1, f32Mul (dot q (part e.2.2 0)) scale))
  let mx := ((pickWinner maxBeats score).map (·.2)).getD 0
  let es := score.map (fun e => (e.1, smExp mx e.2))
  let ex := fun i => ((es.find? (fun e => e.1 == i)).map (·.2)).getD 0
  let ps := kv.map (fun e => (e.1, e.2.1))
  let r := zRecip (attnSum m.perPage ps ex)
  let vals := kv.map (fun e => (e.1, part e.2.2 (m.kvHeads * m.headDim)))
  (List.range m.headDim).map (fun d =>
    f32Mul (attnSum m.perPage ps (fun i => f32Mul (ex i) (((vals.find? (fun e => e.1 == i)).map (fun e => e.2.getD d 0)).getD 0))) r)

/-- The Drupe engines that read KV granules count their bytes (R164, R172): each granule goes to one engine of its wedge in DECODE. -/
def countKv (c : LayerIn) (reads : List (Nat × Nat × Option (List F32))) (s : State) : State :=
  ((reads.map (fun r => (r.1 / max 1 c.model.perPage, r.2.1))).eraseDups).foldl (fun s g =>
    let n := (reads.filter (fun r => r.1 / max 1 c.model.perPage == g.1)).length
    countAny g.2 (n * c.model.kvBytes) s) s

/-- n free FP32 words. -/
def freeWords (n : Nat) (s : State) : List F32 × State :=
  (List.range n).foldl (fun (a : List F32 × State) _ => let (x, s) := a.2.free; (a.1 ++ [BitVec.ofNat 32 x], s)) ([], s)

/-- Operation 5 for every row; a discarded row's result is free (R462): attention heads of this rank, exchanged between ranks (R356).
(PRESUMED, log entry 26, DESIGN CHOICE, log entry 45) -/
def attention (c : LayerIn) (l : Nat) (rows : List Row) (qs : List (List F32)) : Lay (List (List F32)) := do
  let m := c.model
  let reads ← rows.mapM (fun r => if r.dead then pure [] else layOp (readKv c l r.q r.pos))
  let bad := (reads.zipIdx.filterMap (fun e => (e.1.find? (fun p => p.2.2.isNone)).map (fun p => (e.2, p.1))))
  if !bad.isEmpty then
    let s ← layState
    let stk := bad.findSome? (fun e => (rows[e.1]?).bind (fun r => (s.kvPage r.q e.2).bind (fun p =>
      let st := stackOfPlain (p / 65536)
      if (s.stack st).thermal = 4 then some st else none)))
    match stk with
    | some st => layStop (.thermal st)
    | none => layStop (.kv bad)
  else
    for r in reads do layMod (countKv c r)
    let heads := (List.range m.qHeads)
    let mine := fun h => c.holdsHead (h / (m.qHeads / max 1 m.kvHeads))
    let junk ← (rows.filter (·.dead)).mapM (fun _ => layOp (freeWords (m.qHeads * m.headDim)))
    let out := (rows.zipIdx.map (fun e =>
      if e.1.dead then chunksOf m.headDim (junk.getD ((rows.take e.2).filter (·.dead)).length []) else
      let kv := (reads.getD e.2 []).filterMap (fun p => p.2.2.map (fun v => (p.1, p.2.1, v)))
      let q := qs.getD e.2 []
      heads.map (fun h =>
        if mine h then attnHead m (c.desc l).attnScale kv h ((q.drop (h * m.headDim)).take m.headDim)
        else List.replicate m.headDim 0)))
    let all ← exchange c 8 (out.flatten.flatten)
    let n := m.qHeads * m.headDim
    return (List.range rows.length).map (fun b => (List.range n).map (fun i =>
      let h := i / max 1 m.headDim
      (all (h / (m.qHeads / max 1 m.kvHeads) % c.w)).getD (b * n + i) 0))

/-! ## The activation of operation 8 (R226 to R228) -/

/-- One Zest instruction on a register table; lut gives the table slots. -/
def zestExec (tables : Nat → List Byte) (wd : Nat) (r : Table F32) : Table F32 :=
  let a := tget 0 r (bits wd 48 5)
  let b := tget 0 r (bits wd 43 5)
  let cc := tget 0 r (bits wd 38 5)
  let imm := bits wd 0 32
  let d := bits wd 53 5
  let set := fun v => tset 0 r d v
  match bits wd 58 6 with
  | 0x01 => set (BitVec.ofNat 32 imm)
  | 0x02 => set (f32Madd a b cc)
  | 0x03 => set (zExp2 a)
  | 0x04 => set (zLog2 a)
  | 0x05 => set (zRecip a)
  | 0x06 => set (zRsqrt a)
  | 0x07 => if zCond (imm % 4) a b then set cc else r
  | 0x08 => set (zSignOp (imm % 4) a b)
  | 0x09 => set (zLut (tables (bits wd 34 4)) a)
  | 0x0A => set (zTanh a)
  | 0x0B => set (zLogistic a)
  | _ => r

/-- A whole microprogram on its two inputs. -/
def zestProgram (tables : Nat → List Byte) : List U64 → Table F32 → F32
  | [], r => tget 0 r 0
  | wd :: ws, r => if bits wd.toNat 58 6 = 0 then tget 0 r 0 else zestProgram tables ws (zestExec tables wd.toNat r)

/-- The registers at entry (R226). (DESIGN CHOICE, log entry 9) -/
def zestEntry (in0 in1 : F32) : Table F32 := tset 0 (tset 0 [] 0 in0) 1 in1

/-- The table slots of a bank. -/
def ZestBank.table (b : ZestBank) (i : Nat) : List Byte := ((b.tables.find? (fun t => t.1 == i)).map (·.2)).getD []
/-- The words of a program slot of a bank. -/
def ZestBank.program (b : ZestBank) (i : Nat) : Option (List U64) := (b.programs.find? (fun t => t.1 == i)).map (·.2)

/-- The activation by ACT_FN on a GATE and an UP element (R228). -/
def activation (b : ZestBank) (fn : Nat) (gate up : F32) : F32 :=
  match fn with
  | 0 => gate
  | 1 => zTanh gate
  | 2 => zLogistic gate
  | _ => zestProgram b.table ((b.program (fn - 0x100)).getD []) (zestEntry gate up)

/-- NaN and infinite results of the Zest sections are counted (R241): those of their jobs, a normalisation, a softmax or an activation,
and not the values inside one. (DEDUCED, log entry 23) -/
def countSpecials (vs : List F32) (s : State) : State :=
  s.setZest { s.zest with
    nanOut := satAdd 32 s.zest.nanOut (vs.filter f32IsNan).length,
    infOut := satAdd 32 s.zest.infOut (vs.filter (fun v => !f32IsNan v && !f32Finite v)).length }

/-- The attention results that this rank's sections give: those of its heads (R348). -/
def LayerIn.ownHeads (c : LayerIn) (xs : List F32) : List F32 :=
  (xs.zipIdx.filter (fun e => c.holdsHead (e.2 / max 1 c.model.headDim / (c.model.qHeads / max 1 c.model.kvHeads)))).map (·.1)

/-! ## A layer, its input and the head -/

/-- Quarantined blocks of the scale area, the gain area or the formed variants' deltas hold the layer too (R372, R375).
(DEDUCED, log entry 25) -/
def areaHold (c : LayerIn) (rows : List Row) (s : State) : Option Nat :=
  (s.mem.quarantine.find? (fun e => e.2.state ≥ 2 && e.2.detail % 16 == c.m &&
    (bits e.2.detail 12 4 == 2 || bits e.2.detail 12 4 == 3 ||
      (bits e.2.detail 12 4 == 4 && rows.any (fun r => r.variant != 0 && r.variant == e.2.variant))))).map (fun e => e.2.dpa / 4096)

/-- Operations 1 to 8 of layer l in one form. -/
def runOps (c : LayerIn) (rows : List Row) : Lay (List (List F32)) := do
  let l := c.layer
  let s ← layState
  match areaHold c rows s with
  | some b => layStop (.hold b)
  | none =>
    let h := rows.map (·.hidden)
    let n1 := normRows c l (2 * l) h
    layMod (countSpecials n1.flatten)
    let in0 ← narrowTo c l 0 rows n1
    let q ← runMatrix c l 0 rows in0
    let k ← runMatrix c l 1 rows in0
    let v ← runMatrix c l 2 rows in0
    for e in rows.zipIdx do writeKv c l e.1 (k.getD e.2 []) (v.getD e.2 [])
    let at_ ← attention c l rows q
    layMod (countSpecials (at_.flatMap c.ownHeads))
    let in1 ← narrowTo c l 1 rows at_
    let o ← runMatrix c l 3 rows in1
    let h1 := List.zipWith (fun a b => List.zipWith (fun x y => f32Madd y f32One x) a b) h o
    let n2 := normRows c l (2 * l + 1) h1
    layMod (countSpecials n2.flatten)
    let in2 ← narrowTo c l 2 rows n2
    let gated := c.model.map.any (fun e => e.layer == l && e.mat == 4)
    let up ← runMatrix c l 5 rows in2
    let gate ← if gated then runMatrix c l 4 rows in2 else pure up
    let s ← layState
    let bank := s.zbank s.zest.current
    let act := List.zipWith (fun g u => List.zipWith (fun x y => activation bank (c.desc l).actFn x (if gated then y else 0)) g u) gate up
    layMod (countSpecials act.flatten)
    let in3 ← narrowTo c l 3 rows act
    let dn ← runMatrix c l 6 rows in3
    return List.zipWith (fun a b => List.zipWith (fun x y => f32Madd y f32One x) a b) h1 dn

/-- The output head in one form: the logits of every row. -/
def runHead (c : LayerIn) (rows : List Row) : Lay (List (List F32)) := do
  let l := c.model.layers
  let s ← layState
  match areaHold c rows s with
  | some b => layStop (.hold b)
  | none =>
    let n := normRows c l (2 * l) (rows.map (·.hidden))
    layMod (countSpecials n.flatten)
    let inp ← narrowTo c l 0 rows n
    runMatrix c l 7 rows inp

/-- A layer falls into wide form: the re-run is counted (R215, R216). -/
def noteRerun (c : LayerIn) (cause point : Nat) (s : State) : State :=
  s.setDrupe { s.drupe with
    reruns := satAdd 16 s.drupe.reruns 1, clipCause := cause, clipPoint := point, clipModel := c.m, clipLayer := c.layer }

/-- What the units of a layer have counted is taken back: the layer runs again from its start. -/
def restoreCounts (s0 s : State) : State := { s with zest := s0.zest, drupe := s0.drupe, press := s0.press, pips := s0.pips }

/-- A layer in the form that R214 and R215 give it: the vectors, or what stopped it, and whether it ran in wide form. A run in wide form
that waits for other ranks keeps what the first run has counted. -/
def runLayer (f : LayerIn → List Row → Lay (List (List F32))) (c : LayerIn) (rows : List Row) (s : State) :
    Except (Stop × Bool) (List (List F32) × Bool) × State :=
  let c := { c with wide := c.rerun || decide (c.cap.force = 2) }
  match f c rows s with
  | (.ok v, s) => (.ok (v, c.wide), s)
  | (.error (.wide cause point), s) =>
    let s1 := noteRerun c cause point s
    match f { c with wide := true, rerun := true } rows s1 with
    | (.ok v, s) => (.ok (v, true), s)
    | (.error (.parts r), s) => (.error (.parts r, true), restoreCounts s1 s)
    | (.error e, s) => (.error (e, true), s)
  | (.error e, s) => (.error (e, c.wide), s)

/-- The input of layer 0 for a token (R461): row token of the HEAD matrix, read by a Drupe engine, (v · b) · c. A member of a cascade that
holds no HEAD matrix has no stated source for it: a free value. (DEDUCED, log entry 21, DEDUCED, log entry 40) -/
def embedRow (c : LayerIn) (token : Nat) : Lay (List F32) := do
  let l := c.model.layers
  match c.model.entryOf l 7 token with
  | none => layOp (freeWords c.model.hidden)
  | some (e, i) =>
    let ts ← readRowAs { c with layer := l } 2 none none l 7 token e i
    let u ← layOp (dealtTo { c with layer := l } 2 l 7 token e)
    layMod (countRead u (c.model.rowBytes 7))
    let sc := tget f32One c.cap.scaleSet.scales (scaleKey l 7 token)
    return (List.range c.model.hidden).map (fun j =>
      match ts.find? (fun t => t.col == j) with
      | some t => f32Mul (f32Mul t.v t.b) sc
      | none => 0)

/-- The rows with their inputs of layer 0. -/
def embedRows (c : LayerIn) (rows : List Row) : Lay (List Row) :=
  rows.mapM (fun r => do return { r with hidden := ← embedRow c r.token })

/-! ## A layer of a step, a chunk or a share -/

/-- What a slot brings to a layer. -/
def StepSlot.row (e : StepSlot) : Row :=
  { q := e.q, variant := e.variant, seed := e.seed, pos := e.len, token := e.token, hidden := e.hidden,
    dead := decide (e.outcome ≠ 13) }

/-- A layer for some slots: layer 0 after its embedding, the head at layer LAYERS. What stopped it comes with the layer index that is
reported, and whether the layer had run in wide form. -/
def runSlots (c : LayerIn) (slots : List StepSlot) (s : State) : Except (Stop × Nat × Bool) (List StepSlot × Bool) × State :=
  let rows := slots.map StepSlot.row
  if c.layer = c.model.layers then
    match runLayer runHead c rows s with
    | (.ok (v, w), s) => (.ok (slots.zipIdx.map (fun e => { e.1 with logits := v.getD e.2 [] }), w), s)
    | (.error e, s) => (.error (e.1, c.layer, e.2), s)
  else
    let put := fun (slots : List StepSlot) (v : List (List F32)) => slots.zipIdx.map (fun e => { e.1 with hidden := v.getD e.2 [] })
    let first := if c.layer = 0 then embedRows c rows s else (.ok rows, s)
    match first with
    | (.error e, s) => (.error (e, c.model.layers, false), s)
    | (.ok rows, s) =>
      match runLayer runOps c rows s with
      | (.ok (v, w), s) => (.ok (put slots v, w), s)
      | (.error e, s) => (.error (e.1, c.layer, e.2), s)

end Sys2Proof.Machine
end

