-- ==== Sys2Proof/Machine/PressOps.lean ====
section
/-! DEFINITION. The Press instructions of an engine's issue queue, and the groups that they open, stream and close (R173 to R184,
R192). -/

namespace Sys2Proof.Machine

/-- The key of byte a of the Orchard SRAM of Press engine e's wedge. -/
def orchardAt (e a : Nat) : Nat := e / 2 * 0x1C000000 + a % 0x1C000000

/-- In-lane positions of a K-tile by weight format (R173): 32 cells of T terms. -/
def tilePositions (fmt : Nat) : Nat := if fmt = 4 then 64 else if fmt = 2 || fmt = 3 then 128 else 32

/-- A group that OPEN makes (R180). -/
def openedGroup (i : PressInstr) : PressGroup :=
  { tile := i.tile, count := i.count, rows := i.rows, lenLog2 := i.lenLog2, mat := i.mat, col := i.col, spillAddr := i.addr,
    model := 16, pos := 0, lanes := [] }

/-- The open group with a number on an engine. -/
def PressEngine.group (v : PressEngine) (g : Nat) : Option PressGroup := (v.groups.find? (fun x => x.1 == g)).map (·.2)

/-- The engine with group g replaced. -/
def PressEngine.put (v : PressEngine) (g : Nat) (x : PressGroup) : PressEngine :=
  { v with groups := mapIf (fun y => y.1 == g) (fun _ => (g, x)) v.groups }

/-- A group's tiles overlap the tiles that an instruction names, or it has its number (R181). -/
def PressEngine.taken (v : PressEngine) (i : PressInstr) : Bool :=
  v.groups.any (fun x => x.1 == i.group || overlaps x.2.tile x.2.count i.tile i.count)

/-- Token rows that a PASS streams: those of its tiles (R179). -/
def passRows (x : PressGroup) (i : PressInstr) : List Nat :=
  (List.range (32 * i.count)).map (· + 32 * i.tile) |>.filter (fun q => decide (q < x.rows))

/-- The model that holds the codes of a K-tile (R179): the one whose map has the address in a row of the group's matrix. -/
def State.weightModel (s : State) (x : PressGroup) (a : Nat) : Option Nat :=
  (s.seqs.models.find? (fun p => p.2.map.any (fun e => e.layer == x.mat / 8 && e.mat == x.mat % 8 && mapHolds e a == some 0))).map (·.1)

/-- The byte of Orchard SRAM where the spill pair of lane word k of a group stands: 16 KiB a token row (R184). The order within it the spec
leaves open: that of the lane words, the high part first. (DESIGN CHOICE, log entry 27) -/
def PressGroup.pairAt (x : PressGroup) (e k : Nat) : Nat := orchardAt e x.spillAddr + 8 * k

/-- A word of Orchard SRAM. -/
def State.orchardWord (s : State) (k : Nat) : F32 := BitVec.ofNat 32 (leNat (tslice 0 s.orchard k 4))

/-- A group with its spill pairs as its spill area in Orchard SRAM holds them (R183, R184). -/
def State.withPairs (s : State) (e : Nat) (x : PressGroup) : PressGroup :=
  { x with lanes := x.lanes.map (fun p =>
      (p.1, if p.2.spilled then { p.2 with h := s.orchardWord (x.pairAt e p.1), c := s.orchardWord (x.pairAt e p.1 + 4) } else p.2)) }

/-- A group stands at a spill point, where more terms follow (R183). -/
def PressGroup.spills (x : PressGroup) : Bool := x.pos != 0 && x.pos % 2 ^ x.lenLog2 == 0

/-- The spill of every lane word of a group (R183, R184): a read-modify-write of the pairs in its spill area. (DEDUCED, log entry
27) -/
def spillGroup (e : Nat) (x : PressGroup) (s : State) : PressGroup × State :=
  let y := s.withPairs e x
  let y := { y with lanes := y.lanes.map (fun p => (p.1, laneSpill p.2)) }
  let a := orchardAt e x.spillAddr
  let o := y.lanes.foldl (fun o p => tsets 0 o (y.pairAt e p.1) (f32Bytes [p.2.h, p.2.c])) (tclear s.orchard a (a + 16384 * x.rows))
  (y, { s with orchard := o }.modPress e (fun v => { v with spills := satAdd 32 v.spills x.count }))

/-- The terms of a K-tile added to the lane words of the streamed rows, in ascending input index (R174, R176): act gives the
activation of a streamed row at a column. -/
def streamTile (x : PressGroup) (rows : List Nat) (cells : List (Nat × List RowTerm)) (act : Nat → Nat → F32) : PressGroup :=
  cells.foldl (fun x c =>
    rows.foldl (fun x q =>
      c.2.foldl (fun x t =>
        let k := (q * 256 + c.1) * 8 + t.col % 8
        let w := tget LaneAcc.zero x.lanes k
        { x with lanes := tset LaneAcc.zero x.lanes k { w with cur := f32Add w.cur (product t.v (act q t.col) t.b) } }) x) x) x

/-- The rows of the group's matrix that the array columns serve, with their terms in the present K-tile. -/
def tileCells (c : LayerIn) (e : Nat) (i : PressInstr) (x : PressGroup) (base width : Nat) : Lay (List (Nat × List RowTerm)) := do
  let l := x.mat / 8
  let mat := x.mat % 8
  (List.range 256).filterMapM (fun j => do
    match c.model.entryOf l mat (x.col + j) with
    | none => return none
    | some (en, k) =>
      let ts ← readRowAs c 3 (some (24 + e)) (some (x.tile + i.tile, i.group)) l mat (x.col + j) en k
      return some (j, ts.filter (fun t => decide (base ≤ t.col) && decide (t.col < base + width))))

/-- The first input column of the K-tile whose codes stand at an address, in the row that array column 0 serves (R173, R179); where the
address is in no piece of that row, the group's next. (DEDUCED, log entry 27) -/
def tileBase (m : Model) (x : PressGroup) (fmt a : Nat) : Nat :=
  let mat := x.mat % 8
  match m.entryOf (x.mat / 8) mat x.col with
  | none => 8 * x.pos
  | some (en, k) =>
    let at_ := fun p => en.codeDpa + k * en.rowStride + p * en.pieceStride
    match (List.range (ceilDiv (rowCodeBytes fmt (m.matCols mat) 8) 4096)).find? (fun p => decide (at_ p ≤ a) && decide (a < at_ p + 4096)) with
    | some p => 256 * ((4096 * p + (a - at_ p)) / (32 * fmtWidth fmt))
    | none => 8 * x.pos

/-- What a PASS decodes its weight codes with: model m, its weights in the format that the instruction names (R179). -/
def State.passIn (s : State) (m : Nat) (x : PressGroup) (i : PressInstr) : LayerIn :=
  let c := s.layerIn m (s.capture m []) (x.mat / 8) (passRows x i).length true
  { c with model := { c.model with wFormat := i.fmt } }

/-- PASS (R175, R179, R180): the codes at WSRC, decoded in FMT; a poisoned or skewed weight read discards the group. The activations lie as
FP32 words, token row by token row, K-tile column by column. (DEDUCED, log entry 27) -/
def passGroup (e : Nat) (i : PressInstr) (s : State) : State :=
  match (s.pressEngine e).group i.group with
  | none => s
  | some x0 =>
    let (x, s) := if x0.spills then spillGroup e x0 s else (x0, s)
    let width := 8 * tilePositions i.fmt
    let rows := passRows x i
    match s.weightModel x i.wsrc with
    | none => s.modPress e (fun v => v.put i.group { x with pos := x.pos + tilePositions i.fmt })
    | some m =>
      let base := tileBase (s.model m) x i.fmt i.wsrc
      let act := fun q col => s.orchardWord (orchardAt e (i.addr + 4 * ((q - 32 * i.tile) * width + (col - base))))
      match tileCells (s.passIn m x i) e i x base width (addErrs i.errs s) with
      | (.error _, s) => s.modPress e (fun v => v.drop i.group)
      | (.ok cells, s) =>
        let y := streamTile { x with model := m } rows cells act
        s.modPress e (fun v => v.put i.group { y with pos := x.pos + tilePositions i.fmt })

/-- The finished results of a group (R161, R180), in token-row order and array-column order. Step 3 of R161 is for a row of a variant, and
no instruction names one. (DEDUCED, log entry 27) -/
def groupResults (s : State) (x : PressGroup) : List F32 :=
  let sc := fun row => if x.model = 16 then f32One
    else tget f32One (s.model x.model).scaleSet.scales (scaleKey (x.mat / 8) (x.mat % 8) row)
  (List.range x.rows).flatMap (fun q => (List.range 256).map (fun j =>
    f32Mul (octetTree f32Add (fun l => laneClose (tget LaneAcc.zero x.lanes ((q * 256 + j) * 8 + l)))) (sc (x.col + j))))

/-- SAVE's context of a group at an address (R192): every lane word, tile by tile, then the 64-byte header. The order of the words of a
tile and the header's layout the spec leaves open: ROWS, COUNT, MATRIX, COL, LEN_LOG2 and the position counter in 4 bytes each, then
the address of the spill area in 8. (DESIGN CHOICE, log entry 27) -/
def saveGroup (e a : Nat) (x : PressGroup) (s : State) : State :=
  let k := orchardAt e a
  let n := 262144 * x.count
  let words := x.lanes.foldl (fun o p => tsets 0 o (k + 4 * p.1) (f32Bytes [p.2.cur])) (tclear s.orchard k (k + n + 64))
  let header := ([x.rows, x.count, x.mat, x.col, x.lenLog2, x.pos].flatMap (natLe 4)) ++ natLe 8 x.spillAddr
  let s : State := { s with orchard := tsets 0 words (k + n) header }
  s.setPress { s.press with saved := s.press.saved.filter (fun y => y.1 != k) ++ [(k, x)] }

/-- The group that RESTORE makes of the context at an address (R192): the lane words as Orchard SRAM holds them, in the tiles named. -/
def State.restored (s : State) (e a tile : Nat) (x : PressGroup) : PressGroup :=
  { x with tile := tile, lanes := x.lanes.map (fun p => (p.1, { p.2 with cur := s.orchardWord (orchardAt e a + 4 * p.1) })) }

/-- An instruction whose turn has come takes effect on engine e. A RESTORE of other than the context's count of tiles does nothing.
(DESIGN CHOICE, log entry 27) -/
def doPress (e : Nat) (i : PressInstr) (s : State) : State :=
  match i.op with
  | 1 => s.modPress e (fun v => { v with groups := v.groups ++ [(i.group, openedGroup i)] })
  | 2 => passGroup e i s
  | 3 =>
    match (s.pressEngine e).group i.group with
    | none => s
    | some x =>
      let d := f32Bytes (groupResults s (s.withPairs e x))
      { s.modPress e (fun v => v.drop i.group) with orchard := tsets 0 s.orchard (orchardAt e i.addr) d }
  | 4 => s.modPress e (fun v => v.drop i.group)
  | 5 =>
    match (s.pressEngine e).group i.group with
    | none => s
    | some x =>
      saveGroup e i.addr x (s.modPress e (fun v => v.drop i.group))
  | _ =>
    match s.press.saved.find? (fun y => y.1 == orchardAt e i.addr) with
    | none => s
    | some (_, x) =>
      if x.count ≠ i.count then s
      else s.modPress e (fun v => { v with groups := v.groups ++ [(i.group, s.restored e i.addr i.tile x)] })

/-- The matrix field of what an instruction other than OPEN and DISCARD reads: that of its open group, or of the context that RESTORE
finds. -/
def State.pressReads (e : Nat) (i : PressInstr) (s : State) : Option Nat :=
  if i.op = 1 || i.op = 4 then none
  else if i.op = 6 then (s.press.saved.find? (fun y => y.1 == orchardAt e i.addr)).map (·.2.mat)
  else ((s.pressEngine e).group i.group).map (·.mat)

/-- An uncorrectable word that an instruction reads is recorded, and its group is discarded, or the context that it would restore
(R177, R371); otherwise it takes effect. The instruction names no step, so the step's end is STEP_LAYER's.
(DESIGN CHOICE, log entry 44) -/
def runPress (e : Nat) (i : PressInstr) (s : State) : State :=
  match i.own.bad, s.pressReads e i with
  | some f, some mat =>
    let s := (noteOwn (mat / 8) f s).modPress e (fun v => if i.op = 6 then v else v.drop i.group)
    s.setPress { s.press with
      saved := if i.op = 6 then s.press.saved.filter (fun y => y.1 != orchardAt e i.addr) else s.press.saved }
  | _, _ => doPress e i s

/-- The instruction must wait (R181): an OPEN or RESTORE for tiles or a group number that are owned, or that an earlier waiting one
names; another instruction for a group that only a waiting one will open. -/
def PressEngine.waits (v : PressEngine) (before : List PressInstr) (i : PressInstr) : Bool :=
  if i.op = 1 || i.op = 6 then
    v.taken i || before.any (fun b => (b.op == 1 || b.op == 6) && (b.group == i.group || overlaps b.tile b.count i.tile i.count))
  else (v.group i.group).isNone && before.any (fun b => (b.op == 1 || b.op == 6) && b.group == i.group)

/-- The first instruction of a queue that need not wait, with the queue without it. -/
def PressEngine.nextReady (v : PressEngine) : List PressInstr → List PressInstr → Option (PressInstr × List PressInstr)
  | _, [] => none
  | before, i :: rest =>
    if v.waits before i then v.nextReady (before ++ [i]) rest else some (i, before ++ rest)

/-- The issue queue runs as far as it can. -/
def drainPress (e : Nat) : Nat → State → State
  | 0, s => s
  | fuel + 1, s =>
    match (s.pressEngine e).nextReady [] (s.pressEngine e).queue with
    | none => s
    | some (i, q) => drainPress e fuel (runPress e i (s.modPress e (fun v => { v with queue := q })))

/-- A group leaves its engine, and the instructions that waited for its tiles or its number proceed (R181). -/
def releaseGroup (e g : Nat) (s : State) : State := drainPress e 65 (s.modPress e (fun v => v.drop g))

/-- An uncorrectable word of the module's own memories that a layer meets: it is recorded, and a lane word's group is discarded (R177,
R371). -/
def ownFault (layer : Nat) (f : OwnFault) (s : State) : State :=
  match f with
  | .lane e _ g => releaseGroup e.val g.val (noteOwn layer f s)
  | _ => noteOwn layer f s

/-- Firmware issues an instruction; a full queue of 64 takes none (R179). -/
def issuePress (e : Nat) (i : PressInstr) (s : State) : State :=
  if 64 ≤ (s.pressEngine e).queue.length then s
  else drainPress e 65 (s.modPress e (fun v => { v with queue := v.queue ++ [i] }))

/-- An instruction with only its operation and group. -/
def PressInstr.plain (op group : Nat) : PressInstr :=
  { op := op, group := group, tile := 0, count := 0, rows := 0, fmt := 0, lenLog2 := 0, mat := 0, col := 0, wsrc := 0, addr := 0,
    errs := [], own := OwnReads.clean }

/-- The tiles that an OPEN or RESTORE names exist (R179). -/
def tilesOk (group tile count : Nat) : Bool := decide (group < 8) && inRange count 1 8 && decide (tile + count ≤ 56)

/-- OPEN. -/
def execPressOpen (e : Fin 8) (group tile count rows lenLog2 mat col addr : Nat) (s : State) : Host.Outcome State Fault Refusal :=
  .next (whenPowered (fun s =>
    if tilesOk group tile count && inRange rows 1 (min 256 (32 * count)) then
      issuePress e.val { PressInstr.plain 1 group with
        tile := tile, count := count, rows := rows, lenLog2 := lenLog2, mat := mat, col := col, addr := addr } s
    else s) s)

/-- PASS. -/
def execPressPass (e : Fin 8) (group tile count fmt wsrc addr : Nat) (errs : List SymErr) (own : OwnReads) (s : State) :
    Host.Outcome State Fault Refusal :=
  .next (whenPowered (issuePress e.val { PressInstr.plain 2 group with
    tile := tile, count := count, fmt := fmt, wsrc := wsrc, addr := addr, errs := errs, own := own }) s)

/-- CLOSE. -/
def execPressClose (e : Fin 8) (group addr : Nat) (own : OwnReads) (s : State) : Host.Outcome State Fault Refusal :=
  .next (whenPowered (issuePress e.val { PressInstr.plain 3 group with addr := addr, own := own }) s)

/-- DISCARD. -/
def execPressDiscard (e : Fin 8) (group : Nat) (s : State) : Host.Outcome State Fault Refusal :=
  .next (whenPowered (issuePress e.val (PressInstr.plain 4 group)) s)

/-- SAVE. -/
def execPressSave (e : Fin 8) (group addr : Nat) (own : OwnReads) (s : State) : Host.Outcome State Fault Refusal :=
  .next (whenPowered (issuePress e.val { PressInstr.plain 5 group with addr := addr, own := own }) s)

/-- RESTORE. -/
def execPressRestore (e : Fin 8) (group tile count addr : Nat) (own : OwnReads) (s : State) :
    Host.Outcome State Fault Refusal :=
  .next (whenPowered (fun s =>
    if tilesOk group tile count then
      issuePress e.val { PressInstr.plain 6 group with tile := tile, count := count, addr := addr, own := own } s
    else s) s)

end Sys2Proof.Machine
end

