-- ==== Sys2Proof/Machine/Sequences.lean ====
section
/-! DEFINITION. Sequence records: opening, appends and their fills, cancel, trim and close; sampler and stop settings, masks and
budgets (R242 to R257, R275, R276, R278, R283, R460). -/

namespace Sys2Proof.Machine

/-- BAD_STATE reasons 0x11 and 0x12 by a sequence's state (R243, R244). -/
def notReady (state : Nat) : Nat := if state = 0 || state = 5 || state = 6 then 0x11 else 0x12

/-! ## SEQ_OPEN (R242, R265, R276, R278) -/

/-- SEQ_OPEN's own checks. -/
def openChecks (t : Taken) (s : State) : List (Bool × Answer) :=
  let m := t.at 0x22 1
  let v := t.at 0x24 2
  [((s.seq (t.at 0x20 2)).state == 0, badState 0x10),
   ((s.model m).state == 2, badState 0x13),
   (v == 0 || (tget Variant.none s.seqs.variants v).model == m, badState 0x15),
   ((s.model m).perPage != 0, badState 0x14),
   (s.keyRoom t.tenant, badState 0x40)]

/-- The entry that SEQ_OPEN makes. -/
def openedEntry (t : Taken) (gen : Nat) : SeqEntry :=
  { SeqEntry.free with
    state := 1, tenant := t.tenant, model := t.at 0x22 1, outWindow := t.at 0x23 1, variant := t.at 0x24 2,
    customer := t.at 0x26 2, maxLen := t.at 0x28 4, gen := gen }

/-- SEQ_OPEN (R242). -/
def seqOpen (w : Nat) (t : Taken) (s : State) : State :=
  checked w t.n (openChecks t s) (fun s =>
    complete w t.n (done []) (giveKey t.tenant (s.modSeq (t.at 0x20 2) (fun e => openedEntry t e.gen)))) s

/-- SEQ_OPEN. -/
def execSeqOpen (w : Fin 16) (n : U32) (s : State) : Host.Outcome State Fault Refusal :=
  .next (inOrder 0x30 w.val n.toNat (fun _ => true) seqOpen s)

/-! ## SEQ_APPEND (R251, R460) -/

/-- The tokens of an append and the answer to one at or above VOCAB (R251). -/
def appendTokenFault (t : Taken) (vocab : Nat) (toks : List Nat) : Option Answer :=
  (findBelow toks.length (fun i => decide (vocab ≤ toks.getD i 0))).map (fun i =>
    if t.at 0x22 1 = 0 then badField (0x30 + 4 * i) else { badField 0x28 with result := natLe 4 i })

/-- L of R460: LEN, or the LENGTH of a trim that has not taken effect. -/
def State.appendFrom (s : State) (q : Nat) : Nat :=
  s.seqs.effects.foldl (fun l e => match e.eff with | .trim r n _ => if r = q then min l n else l | _ => l) (s.seq q).len

/-- The places of the pages that an append of count tokens takes (R460). -/
def State.appendPlaces (s : State) (q count : Nat) : List Nat :=
  let e := s.seq q
  let p := max 1 (s.modelOf q).perPage
  let l := s.appendFrom q
  let top := l + (s.stepsNaming q).length + (e.appends.map (·.tokens.length)).sum + count - 1
  ((List.range (top / p + 1 - l / p)).map (· + l / p)).filter (fun k =>
    s.holdsSeq q && !(e.appends.any (fun a => a.reserved.any (fun r => r.1 == k))) &&
    (match e.pages[k]? with | some r => s.isShared r.page | none => true))

/-- Takes a page for each of a list of places of sequence q: the places with their pages. -/
def takePlaces (q : Nat) (s : State) (ks : List Nat) : List (Nat × Nat) × State :=
  ks.foldl (fun (a : List (Nat × Nat) × State) k =>
    match takePage (a.2.pageHome q k) 1 (tenantKey (a.2.seq q).tenant) a.2 with
    | some (p, s) => (a.1 ++ [(k, p)], s)
    | none => a) ([], s)

/-- The list page of sequence q, where the pool still has a page for it. -/
def withListPage (q : Nat) (s : State) : State := if s.holdsSeq q then (takeListPage q s).getD s else s

/-- SEQ_APPEND with its tokens read. -/
def appendTokens (w : Nat) (t : Taken) (toks : List Nat) (s : State) : State :=
  let q := t.at 0x20 2
  match appendTokenFault t (s.modelOf q).vocab toks with
  | some a => complete w t.n a s
  | none =>
    let ks := s.appendPlaces q toks.length
    let need := ks.length + b2n ((s.seq q).listPage.isNone && s.holdsSeq q)
    if s.freePages < need then complete w t.n (noPages (need - s.freePages)) s
    else
      let (rs, s) := takePlaces q (withListPage q s) ks
      let a : Append :=
        { w := w, n := t.n, tokens := toks, waits := (s.stepsNaming q).map (·.id), reserved := rs, begun := false, len0 := 0,
          pending0 := none, stopped0 := false, rows := [], given := 0, done := 0, took := rs.map (·.2), copied := [] }
      startRecord w t.n (s.modSeq q (fun e => { e with state := 2, appends := e.appends ++ [a] }))

/-- SEQ_APPEND (R251). -/
def seqAppend (src : Src) (w : Nat) (t : Taken) (s : State) : State :=
  let st := (s.seq (t.at 0x20 2)).state
  if st ≠ 1 && st ≠ 2 then complete w t.n (badState (notReady st)) s
  else if t.at 0x22 1 = 0 then appendTokens w t ((List.range (t.at 0x24 4)).map (fun i => t.at (0x30 + 4 * i) 4)) s
  else match readSource (t.at 0x22 1 == 1) (t.at 0x28 8) (4 * t.at 0x24 4) src s with
  | (.waiting, _) => s
  | (.poison a, s) => complete w t.n a s
  | (.bytes d, s) => appendTokens w t (wordsOf 4 d) (forwardWith t d s)

/-- SEQ_APPEND. -/
def execSeqAppend (w : Fin 16) (n : U32) (src : Src) (s : State) : Host.Outcome State Fault Refusal :=
  .next (inOrder 0x31 w.val n.toNat (fun _ => true) (seqAppend src) s)

/-! ## Fills (R251, R252, R462) -/

/-- Positions that a fill writes (R251). -/
def fillRows (e : SeqEntry) (toks : List Nat) : List Nat :=
  match e.pending with
  | some p => p :: toks.dropLast
  | none => toks.dropLast

/-- Reserved pages that a fill does not keep return to the pool (R251, R460, R462). -/
def dropReserved (rs : List (Nat × Nat)) (s : State) : State := unrefPages (rs.map (·.2)) s

/-- The first append of sequence q leaves, with its answer; the sequence becomes READY when it was the last. -/
def endAppend (q : Nat) (a : Append) (ans : Answer) (s : State) : State :=
  let s := s.modSeq q (fun e =>
    let rest := e.appends.drop 1
    { e with appends := rest, state := if rest.isEmpty && e.state == 2 then 1 else e.state })
  complete a.w a.n ans s

/-- Rows of chunks and of chunk shares of sequence q are carried on for nothing (R462). (DESIGN CHOICE, log entry 45) -/
def voidRows (q : Nat) (s : State) : State :=
  let f := fun (rows : List StepSlot) => mapIf (fun e => e.q == q) (fun e => { e with outcome := 1 }) rows
  let s := s.setSeqs { s.seqs with chunks := s.seqs.chunks.map (fun c => { c with rows := f c.rows }) }
  s.setVine { s.vine with steps := mapIf (fun h => h.chunk) (fun h => { h with slots := f h.slots }) s.vine.steps }

/-- A fill that fails completes with a status and the layer index or other DETAIL; the sequence stands as the fill met it, and its rows in
other chunks are carried on for nothing (R462). -/
def failFill (q status detail : Nat) (s : State) : State :=
  match (s.seq q).appends.head? with
  | none => s
  | some a =>
    if !a.begun then s else
    voidRows q (leavePages q a.reserved (endAppend q a (ans status detail) (s.modSeq q (fun e => { e with stopped := a.stopped0 }))))

/-- The pages of a completed fill enter the page list: copies in place of shared pages that it wrote, new pages behind the last. The
number kept of those taken from the pool, and the rest of the reservation (R249, R460). (DEDUCED, log entry 19) -/
def keepPages (q : Nat) (wrote own copied : Nat → Bool) (rs : List (Nat × Nat)) (s : State) : (Nat × List (Nat × Nat)) × State :=
  rs.foldl (fun (a : (Nat × List (Nat × Nat)) × State) r =>
    let s := a.2
    match wrote r.1, (s.seq q).pages[r.1]? with
    | false, _ => ((a.1.1, a.1.2 ++ [r]), s)
    | true, none => ((a.1.1 + b2n (own r.2), a.1.2), s.modSeq q (fun e => { e with pages := e.pages ++ [{ page := r.2, shared := false }] }))
    | true, some old =>
      if copied r.1 then
        ((a.1.1 + b2n (own r.2), a.1.2), unrefPage old.page (s.modSeq q (fun e => { e with
          pages := lset e.pages r.1 { page := r.2, shared := false } })))
      else ((a.1.1, a.1.2 ++ [r]), s)) ((0, []), s)

/-- A fill completes: LEN, the pending token and the history advance, and the append replies (R251, R272). (DEDUCED, log entry 19) -/
def finishFill (q : Nat) (a : Append) (s : State) : State :=
  let e := s.seq q
  let len := a.len0 + a.rows.length
  let p := max 1 (s.modelOf q).perPage
  let ((kept, left), s) := keepPages q (pageWritten p a.len0 a.rows.length) a.took.contains a.copied.contains a.reserved s
  let h := e.history ++ a.tokens
  let s := markShared (s.modSeq q (fun e => { e with
    len := len, pending := a.tokens.getLast?, history := h.drop (h.length - 256) }))
  leavePages q left (endAppend q a (done (natLe 4 len ++ natLe 4 (s.seq q).pages.length ++ natLe 4 kept)) s)

/-- Shared pages that a fill will write are copied into its reserved pages before the first KV write (R249). The copies enter the page list
when the fill completes, since a fill that fails leaves the list as it was (R462). -/
def copyShared (q : Nat) (a : Append) (wrote : Nat → Bool) (s : State) : State :=
  a.reserved.foldl (fun s r =>
    match (s.seq q).pages[r.1]? with
    | some old =>
      if wrote r.1 && s.isShared old.page then
        copyPage (s.modelOf q) old.page r.2 (s.modSeq q (fun e => { e with
          appends := (e.appends.take 1).map (fun a => { a with copied := a.copied ++ [r.1] }) ++ e.appends.drop 1 }))
      else s
    | none => s) s

/-- The fill of the first queued append of sequence q begins, once the steps and the trims before it have passed (R252, R253).
(DEDUCED, log entry 18) -/
def fillBegin (q : Nat) (s : State) : State :=
  let e := s.seq q
  match e.appends.head? with
  | none => s
  | some a =>
    let held := s.seqs.steps.any (fun p => a.waits.contains p.id) ||
      s.seqs.effects.any (fun x => match x.eff with | .trim r _ _ => r == q | _ => false)
    if a.begun || held || e.state ≠ 2 then s else
    let rows := fillRows e a.tokens
    if e.maxLen < e.len + rows.length then leavePages q a.reserved (endAppend q a (badField 0x24) s)
    else
      let a := { a with begun := true, len0 := e.len, pending0 := e.pending, stopped0 := e.stopped, rows := rows }
      let s := s.modSeq q (fun e => { e with stopped := false, newCnt := 0, appends := a :: e.appends.drop 1 })
      if rows.isEmpty then finishFill q a s
      else copyShared q a (pageWritten (max 1 (s.modelOf q).perPage) e.len rows.length) s

/-- The last chunk that holds a fill's rows has completed (R251). -/
def fillComplete (q : Nat) (s : State) : State :=
  match (s.seq q).appends.head? with
  | none => s
  | some a => if a.begun && decide (a.rows.length ≤ a.done) then finishFill q a s else s

/-- FILL_BEGIN. -/
def execFillBegin (q : Fin 4096) (s : State) : Host.Outcome State Fault Refusal := .next (whenReleased (fillBegin q.val) s)

/-- FILL_COMPLETE. -/
def execFillComplete (q : Fin 4096) (s : State) : Host.Outcome State Fault Refusal :=
  .next (whenReleased (fillComplete q.val) s)

/-! ## Cancel, trim, close (R244, R254 to R257) -/

/-- A record's effect at its effect boundary, with its reply there. -/
def atBoundary (w : Nat) (t : Taken) (at_ : Option Nat) (eff : BoundaryEffect) (s : State) : State :=
  addEffect { w := w, n := t.n, reply := true, at_ := at_, eff := eff } (startRecord w t.n s)

/-- SEQ_CANCEL (R255). (DEDUCED, log entry 18) -/
def seqCancel (w : Nat) (t : Taken) (s : State) : State :=
  let q := t.at 0x20 2
  let st := (s.seq q).state
  if st = 5 then complete w t.n (done []) s
  else if st = 1 || st = 6 then
    atBoundary w t (s.effectAt t) (.cancel q) (s.modSeq q (fun e => { e with state := 5 }))
  else complete w t.n (badState (notReady st)) s

/-- SEQ_TRIM (R256). -/
def seqTrim (w : Nat) (t : Taken) (s : State) : State :=
  let q := t.at 0x20 2
  let e := s.seq q
  checked w t.n [(e.state == 1, badState (notReady e.state)), (decide (t.at 0x24 4 ≤ e.len), badField 0x24),
      (decide (t.at 0x28 4 < (s.modelOf q).vocab), badField 0x28)]
    (fun s => atBoundary w t (s.effectAt t) (.trim q (t.at 0x24 4) (t.at 0x28 4)) s) s

/-- SEQ_CLOSE (R257): its release waits for the last step taken earlier that names the sequence. -/
def seqClose (w : Nat) (t : Taken) (s : State) : State :=
  let q := t.at 0x20 2
  let st := (s.seq q).state
  if st = 5 || st = 6 then complete w t.n (done []) s
  else if st = 1 then
    atBoundary w t (((s.stepsNaming q).getLast?).map (·.id)) (.close q) (s.modSeq q (fun e => { e with state := 6 }))
  else complete w t.n (badState (notReady st)) s

/-- SEQ_CANCEL. -/
def execSeqCancel (w : Fin 16) (n : U32) (s : State) : Host.Outcome State Fault Refusal :=
  .next (inOrder 0x33 w.val n.toNat (fun _ => true) seqCancel s)

/-- SEQ_TRIM. -/
def execSeqTrim (w : Fin 16) (n : U32) (s : State) : Host.Outcome State Fault Refusal :=
  .next (inOrder 0x36 w.val n.toNat (fun _ => true) seqTrim s)

/-- SEQ_CLOSE. -/
def execSeqClose (w : Fin 16) (n : U32) (s : State) : Host.Outcome State Fault Refusal :=
  .next (inOrder 0x39 w.val n.toNat (fun _ => true) seqClose s)

/-! ## Sampler settings, stop settings and masks (R275, R276, R278) -/

/-- The settings that a SAMPLER_SET names (R276). -/
def samplerOf (t : Taken) : Sampler :=
  { temp := t.f32 0x24, topK := t.at 0x28 2, penWindow := t.at 0x2A 2, topP := t.f32 0x2C, minP := t.f32 0x30,
    repPen := t.f32 0x34, presPen := t.f32 0x38, drawCtr := t.at 0x3C 4, seed := t.at 0x40 8,
    mask := if t.at 0x22 2 = 0xFFFF then none else some (t.at 0x22 2) }

/-- SAMPLER_SET (R276): what it meets at its mask slot is judged when it is taken. -/
def samplerSet (w : Nat) (t : Taken) (s : State) : State :=
  let q := t.at 0x20 2
  let st := (s.seq q).state
  let v := samplerOf t
  checked w t.n [(st == 1 || st == 2, badState (notReady st)),
      (t.shown.isEmpty, badState 0x21)]
    (fun s => atBoundary w t (s.effectAt t) (.sampler q v) s) s

/-- SAMPLER_SET. -/
def execSamplerSet (w : Fin 16) (n : U32) (s : State) : Host.Outcome State Fault Refusal :=
  .next (inOrder 0x41 w.val n.toNat (fun _ => true) samplerSet s)

/-- The byte offset of the first failing field of a stop-sequence table, by LEN and filler (VOCAB not asked) or by VOCAB (R278). -/
def stopTableFault (table : List Byte) (count : Nat) (vocab : Option Nat) : Option Nat :=
  (List.range count).findSome? (fun i =>
    let len := fld table (36 * i) 4
    let tok := fun j => fld table (36 * i + 4 + 4 * j) 4
    match vocab with
    | none =>
      if !inRange len 1 8 then some (36 * i)
      else (findBelow 8 (fun j => decide (len ≤ j) && tok j != 0xFFFFFFFF)).map (fun j => 36 * i + 4 + 4 * j)
    | some v => (findBelow (min len 8) (fun j => decide (v ≤ tok j))).map (fun j => 36 * i + 4 + 4 * j))

/-- The stop settings that a STOP_SET and its table give. -/
def stopsOf (t : Taken) (table : List Byte) : Stops :=
  { tokens := (List.range 16).map (fun i => t.at (0x28 + 4 * i) 4), maxNew := t.at 0x24 4,
    seqs := (List.range (t.at 0x22 1)).map (fun i => (List.range (fld table (36 * i) 4)).map (fun j => fld table (36 * i + 4 + 4 * j) 4)) }

/-- STOP_SET with its table read. -/
def stopSetWith (table : List Byte) (w : Nat) (t : Taken) (s : State) : State :=
  let q := t.at 0x20 2
  let st := (s.seq q).state
  let vocab := (s.modelOf q).vocab
  let c := t.at 0x22 1
  let at68 := fun (o : Option Nat) => (o.isNone, { badField 0x68 with result := natLe 4 (o.getD 0) })
  let badTok := findBelow 16 (fun i => t.at (0x28 + 4 * i) 4 != 0xFFFFFFFF && decide (vocab ≤ t.at (0x28 + 4 * i) 4))
  checked w t.n [at68 (stopTableFault table c none), (st == 1 || st == 2, badState (notReady st)),
      (badTok.isNone, badField (0x28 + 4 * badTok.getD 0)), at68 (stopTableFault table c (some vocab))]
    (fun s => atBoundary w t (s.effectAt t) (.stops q (stopsOf t table)) s) s

/-- STOP_SET (R278). -/
def stopSet (src : Src) (w : Nat) (t : Taken) (s : State) : State :=
  if t.at 0x22 1 = 0 then stopSetWith [] w t s
  else match readSource (t.at 0x23 1 == 1) (t.at 0x68 8) (36 * t.at 0x22 1) src s with
  | (.waiting, _) => s
  | (.poison a, s) => complete w t.n a s
  | (.bytes d, s) => stopSetWith d w t (forwardWith t d s)

/-- STOP_SET. -/
def execStopSet (w : Fin 16) (n : U32) (src : Src) (s : State) : Host.Outcome State Fault Refusal :=
  .next (inOrder 0x42 w.val n.toNat (fun _ => true) (stopSet src) s)

/-- A FORMED step holds the copy of mask slot m that is not current (R275). -/
def State.maskBusy (s : State) (m : Nat) : Bool :=
  s.seqs.steps.any (fun p => p.state == 2 && p.cap.maskVers.any (fun v => v.1 == m && v.2 != (s.mask m).vers))

/-- MASK_LOAD LOAD with its image read. -/
def maskLoadWith (d : List Byte) (w : Nat) (t : Taken) (s : State) : State :=
  let m := t.at 0x22 2
  let v := s.mask m
  let v' : MaskSlot :=
    { owner := some (v.owner.getD t.tenant), nbits := t.at 0x24 4, image := d, vers := v.vers + 1, oldBits := v.nbits,
      oldImage := v.image }
  complete w t.n (done []) (s.setSeqs { s.seqs with masks := tset MaskSlot.free s.seqs.masks m v' })

/-- MASK_LOAD LOAD (R275): it waits while a FORMED step holds the other copy. -/
def maskLoad (src : Src) (w : Nat) (t : Taken) (s : State) : State :=
  let m := t.at 0x22 2
  if s.maskBusy m then s else
  match readSource (t.at 0x21 1 == 1) (t.at 0x28 8) (ceilDiv (t.at 0x24 4) 8) src s with
  | (.waiting, _) => s
  | (.poison a, s) => complete w t.n a s
  | (.bytes d, s) => maskLoadWith d w t (forwardWith t d s)

/-- Mask slot m is named by a sequence, or by a SAMPLER_SET that has been taken and has not taken effect (R276). -/
def State.maskNamed (s : State) (m : Nat) : Bool :=
  s.records.any (fun r => r.2.opcode == 0x41 && r.2.shown.isEmpty && r.2.at 0x22 2 == m) ||
  s.seqs.entries.any (fun e => e.2.state != 0 && e.2.sampler.mask == some m) ||
  s.seqs.effects.any (fun e => match e.eff with | .sampler q v => (s.seq q).state != 0 && v.mask == some m | _ => false)

/-- MASK_LOAD FREE (R275): accepted or rejected when its command first comes; accepted, it waits for earlier loads of its slot. -/
def maskFree (w : Nat) (t : Taken) (s : State) : State :=
  let m := t.at 0x22 2
  if t.progress = 0 && s.maskNamed m then complete w t.n (badState 0x20) s
  else if !s.inTurn t then modRecord w t.n (fun t => { t with progress := 1 }) s
  else complete w t.n (done []) (s.setSeqs { s.seqs with masks := terase m s.seqs.masks })

/-- MASK_LOAD LOAD. -/
def execMaskLoadLoad (w : Fin 16) (n : U32) (src : Src) (s : State) : Host.Outcome State Fault Refusal :=
  .next (inOrder 0x43 w.val n.toNat (fun t => t.at 0x20 1 == 0) (maskLoad src) s)

/-- MASK_LOAD FREE. -/
def execMaskLoadFree (w : Fin 16) (n : U32) (s : State) : Host.Outcome State Fault Refusal :=
  .next (onRecord 0x43 w.val n.toNat (fun t => t.at 0x20 1 == 1) maskFree s)

/-! ## Budgets (R283) -/

/-- BUDGET_SET SET. -/
def budgetSet (w : Nat) (t : Taken) (s : State) : State :=
  atBoundary w t none (.budgetSet (t.at 0x22 2) (t.at 0x24 2) (t.at 0x28 4)) s

/-- BUDGET_SET WINDOW. -/
def budgetWindow (w : Nat) (t : Taken) (s : State) : State :=
  atBoundary w t none (.budgetWindow (t.at 0x21 1 == 1) (t.at 0x2C 4) (t.at 0x30 8)) s

/-- BUDGET_SET SET. -/
def execBudgetSetSet (w : Fin 16) (n : U32) (s : State) : Host.Outcome State Fault Refusal :=
  .next (inOrder 0x40 w.val n.toNat (fun t => t.at 0x20 1 == 0) budgetSet s)

/-- BUDGET_SET WINDOW. -/
def execBudgetSetWindow (w : Fin 16) (n : U32) (s : State) : Host.Outcome State Fault Refusal :=
  .next (inOrder 0x40 w.val n.toNat (fun t => t.at 0x20 1 == 1) budgetWindow s)

/-- BUDGET_WINDOW_END (R281, R282): time reaches the end of the current budget window. The windows are intervals of the counter, so
SPENT reads as 0 from there on. -/
def execBudgetWindowEnd (s : State) : Host.Outcome State Fault Refusal :=
  .next (whenReleased (fun s =>
    s.advanceTo ((s.seqs.origin : Int) + (s.budgetWindow s.now + 1) * (s.seqs.windowMs * 100000 : Nat)).toNat) s)

end Sys2Proof.Machine
end

