-- ==== Sys2Proof/Machine/Shares.lean ====
section
/-! DEFINITION. What steps, prompt chunks and the shares of a cascade have in common: captured settings, the engines they need, what
ends them, the tokens of a step, and a member's share of its replica's work (R26, R166, R258, R354, R375, R462). -/

namespace Sys2Proof.Machine

/-! ## Settings and engines -/

/-- Some Press engine is in a phase (R301). -/
def State.pressIn (s : State) (phase : Nat) : Bool := (List.range 8).any (fun e => (s.pressEngine e).phase == phase)

/-- Every wedge has a Drupe engine in DECODE. -/
def State.drupesDecode (s : State) : Bool :=
  (List.range 4).all (fun w => (List.range 6).any (fun i => (s.drupeEngine (6 * w + i)).phase == 0))

/-- The engines that a step's layer needs have its phase (R167, R301): Drupe engines in DECODE, and a Press engine in DECODE for a
batch above DRUPE_LIMIT. R187's placement of a long reduction on Press names no wait. (DEDUCED, log entry 22) -/
def State.enginesReady (s : State) (cap : Captured) (batch : Nat) : Bool :=
  s.drupesDecode && (!decide (cap.drupeLimit < batch) || s.pressIn 0) && s.kindsUp [2, 3, 6]

/-- A map entry's bytes, its codes or its records, meet a range. -/
def MapEntry.meets (e : MapEntry) (hit : Nat → Nat → Bool) : Bool :=
  hit e.codeDpa (e.rowCount * max e.rowStride e.pieceStride) || hit e.recDpa (e.rowCount * max e.recStride e.recPieceStride)

/-- The entries that layer l of a model reads; layer 0 reads HEAD too, for its input (R461). -/
def Model.layerEntries (m : Model) (l : Nat) : List MapEntry :=
  m.map.filter (fun e => e.layer == l || (l == 0 && e.layer == m.layers))

/-- A host run holds a pip, or the stage, that the pips of a layer need (R133, R145), or has waited for STEP_RATIO step layers to pass
(R144). -/
def State.pipsTaken (s : State) (m : Model) (cap : Captured) (l batch : Nat) : Bool :=
  decide (batch ≤ cap.pipLimit) && (m.layerEntries l).any (fun e =>
    let v := s.pip (pipOfStack e.stack)
    isPipStack e.stack && s.isCompute e.codeDpa && (s.stack e.stack).thermal == 0 &&
    (v.stageOwner.isSome || (!v.held.isEmpty && decide (v.stepRatio ≤ v.stepRuns)) ||
      v.runs.any (fun x => (x.2.state == 2 || x.2.state == 3) &&
        MapEntry.meets e (fun a n => overlaps (plotRow (pipOfStack e.stack) x.2.pipFirst 0) (x.2.pipCount * 0x4000000) a n))))

/-- The memory that layer l reads is open: no slice keeps a bank pair of it closed (R142), and its pips are free. -/
def State.layerOpen (s : State) (m : Nat) (cap : Captured) (l batch : Nat) : Bool :=
  !((s.model m).layerEntries l).any (fun e => isPipStack e.stack && MapEntry.meets e s.closedIn) && !s.pipsTaken (s.model m) cap l batch

/-- Pip stacks whose pips have run rows of a layer show the run of its firmware in slot 12, and count it (R144, R152). Which of slots 12 to
15 firmware uses, and how many slices a layer takes, the spec leaves open. (DESIGN CHOICE, log entry 52) -/
def pipLayerDone (c : LayerIn) (s : State) : State :=
  (List.range 8).foldl (fun s k =>
    if !(if c.layer = c.model.layers then [7] else List.range 7).any (fun mat => pipsTake c c.layer mat k s) then s
    else
      let (x, s) := s.free
      s.modPip k (fun v => { v with
        stepRuns := v.stepRuns + 1,
        runs := tset Run.free v.runs 12 { Run.free with state := 4, pipCount := 1, slices := x % 2 ^ 32, replied := true } })) s

/-! ## Faults and holds (R32, R258, R375) -/

/-- REPAIR_MS milliseconds have passed since a block was quarantined, or it is not quarantined any more. (DEDUCED, log entry 25) -/
def State.holdOver (s : State) (block : Nat) : Bool :=
  match s.quarSlot block with
  | some (_, q) => decide (q.stamp + msTicks s.log.repairMs ≤ s.now)
  | none => true

/-- Status and DETAIL that a stop gives a step or a fill. -/
def Stop.status (e : Stop) (layer : Nat) : Nat × Nat :=
  match e with
  | .skew => (0x0302, layer)
  | .kv _ => (0x0303, layer)
  | .thermal st => (0x0306, st)
  | _ => (0x0301, layer)

/-- FAULTED, with FAULT_POS, on each sequence whose KV held a poisoned burst (R258): rows by index with their positions. -/
def markFaulted (slots : List StepSlot) (bad : List (Nat × Nat)) (s : State) : State :=
  bad.foldl (fun s b =>
    match slots[b.1]? with
    | some e => if (s.seq e.q).gen = e.gen then s.modSeq e.q (fun v => { v with faulted := true, faultPos := b.2 }) else s
    | none => s) s

/-- The fills of sequences that have rows in a chunk fail (R462). -/
def failFills (rows : List StepSlot) (status detail : Nat) (s : State) : State :=
  (((rows.filter (fun e => e.outcome == 13)).map (fun e => (e.q, e.gen))).eraseDups).foldl (fun s p =>
    if (s.seq p.1).gen = p.2 then failFill p.1 status detail s else s) s

/-- The rows of a completed chunk count for their fills (R251). -/
def countRows (rows : List StepSlot) (s : State) : State :=
  (rows.filter (fun e => e.outcome == 13)).foldl (fun s e =>
    if (s.seq e.q).gen = e.gen then s.modSeq e.q (fun v => { v with appends := match v.appends with
      | a :: as => (if a.begun then { a with done := a.done + 1 } else a) :: as
      | [] => [] })
    else s) s

/-! ## Tokens (R268 to R275) -/

/-- The copy of a mask that a step holds (R275). -/
def State.heldMask (s : State) (cap : Captured) (m : Nat) : Nat × List Byte :=
  let v := s.mask m
  if cap.maskVers.contains (m, v.vers) then (v.nbits, v.image) else (v.oldBits, v.oldImage)

/-- What each slot is to commit, from its logits. -/
def State.picks (s : State) (m : Nat) (cap : Captured) (slots : List StepSlot) : List SlotPick :=
  slots.map (fun e =>
    if e.outcome ≠ 13 then { token := none, logprob := 0, stop := none }
    else pickToken (s.model m).vocab
      { sampler := e.sampler, mask := e.sampler.mask.map (s.heldMask cap), history := (s.seq e.q).history, len := e.len } e.logits)

/-- The slot of a sequence as a step or a chunk captures it. -/
def State.slotOf (s : State) (q len token : Nat) : StepSlot :=
  let e := s.seq q
  { q := q, gen := e.gen, outcome := 13, len := len, token := token, variant := e.variant, seed := e.sampler.seed,
    sampler := e.sampler, hidden := [], logits := [] }

/-! ## What the stem does with a member's report (R354) -/

/-- TOKENS for a step or a chunk: the step commits at its boundary, and a chunk's rows count. -/
def tokensArrive (id : Nat) (toks : List SlotToken) (wide : Nat) (s : State) : State :=
  match s.seqs.chunks.find? (fun c => c.id == id) with
  | some c => countRows c.rows (s.setSeqs { s.seqs with chunks := s.seqs.chunks.filter (fun c => c.id != id) })
  | none => modStep id (fun p => if p.state = 2 then { p with toks := some toks, wideLayers := wide } else p) s

/-- A fault of a member in a step or a chunk. -/
def faultArrive (id status detail : Nat) (s : State) : State :=
  match s.seqs.chunks.find? (fun c => c.id == id) with
  | some c =>
    let r := ((c.rows.head?).map (fun e => e.q % s.shapeR)).getD 0
    let s := failFills c.rows status detail (s.setSeqs { s.seqs with chunks := s.seqs.chunks.filter (fun c => c.id != id) })
    vineSendAll 0x10 (s.replicaMembers r) [id, c.model, 1] [] s
  | none => match s.step id with
    | some p => if p.state = 2 then faultStep id status detail s else s
    | none => s

/-- Where a FAULT of ECC_UNCORRECTED names a sequence whose KV held the poison: its number and the position, in the place of the stack; 0
there names none. (DESIGN CHOICE, log entry 37) -/
def kvWord (q pos : Nat) : Nat := 1 + pos * 4096 + q

/-- A member has met poisoned KV of sequence q at a position: the sequence is FAULTED. A step takes its null boundary; of a chunk only the
fills of the sequence fail, at the members too (R258, R462). -/
def kvArrive (id layer q pos : Nat) (s : State) : State :=
  let s := s.modSeq q (fun v => if v.state = 0 then v else { v with faulted := true, faultPos := pos })
  match s.seqs.chunks.find? (fun c => c.id == id) with
  | some c =>
    let rows := c.rows.filter (fun e => e.q == q)
    if !rows.any (fun e => e.outcome == 13) then s else
    vineSendAll 0x10 (s.replicaMembers (q % s.shapeR)) [id, 16, 1, 0, 0, 0, 0, 0, q] [] (failFills rows 0x0303 layer s)
  | none => faultArrive id 0x0303 layer s

/-! ## A member's share -/

/-- A share leaves. -/
def dropShare (id : Nat) (s : State) : State := s.setVine { s.vine with steps := s.vine.steps.filter (fun h => h.id != id) }

/-- The share ends in a fault: FAULT to the stem (R354). (DEDUCED, log entry 40) -/
def faultShare (h : Share) (status layer stack : Nat) (s : State) : State :=
  let s := modShare h.id (fun h => { h with fin := true, hold := none }) s
  let s := if h.chunk then failFills h.slots status (if status = 0x0306 then stack else layer) (dropShare h.id s) else s
  if s.vine.stem = s.vine.member then
    faultArrive h.id status (if status = 0x0306 then stack else layer)
      (modStep h.id (fun p => if p.state = 2 then { p with wideLayers := h.wide } else p) s)
  else vineSend 0x14 s.vine.stem [h.id, status, layer, stack] [] s

/-- Poisoned KV is told to the stem, sequence by sequence: rows of the share with their positions. -/
def tellPoison (h : Share) (layer : Nat) (bad : List (Nat × Nat)) (s : State) : State :=
  bad.foldl (fun s b =>
    match h.slots[b.1]? with
    | none => s
    | some e =>
      if s.vine.stem = s.vine.member then kvArrive h.id layer e.q b.2 s
      else vineSend 0x14 s.vine.stem [h.id, 0x0303, layer, kvWord e.q b.2] [] s) s

/-- A share meets poisoned KV (R258, R462): a step's share ends; of a chunk's only the fills of the sequences concerned fail, and the layer
runs again for the others. -/
def poisonShare (h : Share) (layer : Nat) (bad : List (Nat × Nat)) (s : State) : State :=
  let s := markFaulted h.slots bad s
  if !h.chunk then
    tellPoison h layer bad (modShare h.id (fun h => { h with fin := true, hold := none })
      (modStep h.id (fun p => if p.state = 2 then { p with wideLayers := h.wide } else p) s))
  else
    let hit := bad.filterMap (fun b => (h.slots[b.1]?).map (·.q))
    let s := modShare h.id (fun h => { h with slots := mapIf (fun e => hit.contains e.q) (fun e => { e with outcome := 1 }) h.slots }) s
    let s := tellPoison h layer bad s
    failFills (h.slots.filter (fun e => hit.contains e.q)) 0x0303 layer s

/-- What this share's layers are given. -/
def State.shareIn (s : State) (h : Share) : LayerIn :=
  { share := h.id, m := h.model, model := s.model h.model, cap := h.cap, layer := h.layer, wide := false, rerun := h.rerun,
    batch := h.slots.length, chunk := h.chunk, w := s.shapeW, rank := s.rankOf s.vine.member, parts := h.parts }

/-- This member's stage ends with the output head (R348). -/
def State.headStage (s : State) (h : Share) : Bool := decide (s.vine.firstLayer + s.vine.layerCount = (s.model h.model).layers)

/-- The layer at which a share's stage ends; the head is run by steps only (R214). -/
def State.shareEnd (s : State) (h : Share) : Nat := s.vine.firstLayer + s.vine.layerCount + b2n (s.headStage h && !h.chunk)

/-- The tokens that TOKENS reports (R346). -/
def tokenBytes (nums : List Nat) (slots : List StepSlot) (ps : List SlotPick) (s : State) : List SlotToken :=
  (nums.zip (slots.zip ps)).map (fun e =>
    let en := s.seq e.2.1.q
    let h := pushHistory en.history e.2.2.token
    let r := stopReason en.stops e.2.2.token h (en.newCnt + 1) (en.len + 1) en.maxLen
    { slot := e.1, token := BitVec.ofNat 32 (e.2.2.token.getD 0xFFFFFFFF), logprob := e.2.2.logprob, stopReason := r.1,
      stopIndex := r.2 })

/-- A stage has run its last layer: ACT to the next stage, or TOKENS from the sampling member (R354). (DEDUCED, log entry 40) -/
def finishShare (h : Share) (s : State) : State :=
  let me := s.vine.member
  let s := modShare h.id (fun h => { h with fin := true }) s
  let s := if h.chunk then
      let s := if s.vine.state = 3 then s else countRows h.slots s
      dropShare h.id s
    else s
  if !s.headStage h then
    vineSend 0x11 (s.memberAt (s.replicaOf me) (s.stageOf me + 1) (s.rankOf me)) [h.id, h.wide]
      (h.slots.flatMap (fun e => f32Bytes e.hidden)) s
  else if s.rankOf me ≠ 0 then s
  else
    let toks := if h.chunk then [] else tokenBytes h.nums h.slots (s.picks h.model h.cap h.slots) s
    if s.vine.stem = me then tokensArrive h.id toks h.wide s
    else vineSend 0x13 s.vine.stem [h.id, h.wide]
      (toks.flatMap slotTokenBytes) s

/-- The next layer of a share: as far as the hand-offs received allow (R354, R356). An uncorrectable word of this member's own memories
ends a step's share; a chunk's share runs the layer again (R371). (DEDUCED, log entry 40, DESIGN CHOICE, log entry 44) -/
def runShare (id : Nat) (errs : List SymErr) (own : OwnReads) (s : State) : State :=
  match s.share id with
  | none => s
  | some h =>
    if !h.planned || h.fin || h.input.isNone then s else
    match h.hold with
    | some (b, l) => if s.holdOver b then faultShare h 0x0301 l 0 s else s
    | none =>
      let ready := if h.chunk then s.pressIn 1 && s.kindsUp [2, 3, 6] else s.enginesReady h.cap h.slots.length
      if !ready || !s.layerOpen h.model h.cap h.layer h.slots.length then s else
      let s0 := noteCorrected own.corrected (addErrs errs s)
      match own.bad with
      | some f => if h.chunk then ownFault h.layer f s0 else faultShare h 0x0303 h.layer 0 (ownFault h.layer f s0)
      | none =>
      match runSlots (s0.shareIn h) h.slots s0 with
      | (.ok (es, wide), s) =>
        let h' := { h with slots := es, layer := h.layer + 1, wide := h.wide + b2n wide, rerun := false }
        let s := pipLayerDone (s0.shareIn h) s
        let s := modShare id (fun x => { h' with parts := x.parts.filter (fun p => p.1 != h.layer), sent := x.sent }) s
        if h'.layer = s.shareEnd h' then finishShare h' s else s
      | (.error (.parts rr, _), s1) =>
        modShare id (fun x => { x with rerun := rr }) (if rr && !h.rerun then s1 else restoreCounts s0 s1)
      | (.error (.hold b, l, _), s) =>
        if s.holdOver b then faultShare h 0x0301 l 0 s else modShare id (fun x => { x with hold := some (b, l) }) s
      | (.error (.kv bad, l, wide), s1) =>
        poisonShare { h with wide := h.wide + b2n wide } l bad (if h.chunk then restoreCounts s0 s1 else s1)
      | (.error (e, l, wide), s) =>
        faultShare { h with wide := h.wide + b2n wide } (e.status l).1 l (match e with | .thermal st => st | _ => 0) s

/-- A share as it stands before its PLAN has arrived. -/
def Share.early (id : Nat) : Share :=
  { id := id, model := 0, chunk := false, planned := false, nums := [], slots := [], input := none, cap := Captured.none, layer := 0,
    fin := false, wide := 0, rerun := false, parts := [], sent := [], hold := none }

/-- The share with a number changed by f; one whose PLAN has not come is made. -/
def onShare (id : Nat) (f : Share → Share) (s : State) : State :=
  match s.share id with
  | some _ => modShare id f s
  | none => s.setVine { s.vine with steps := s.vine.steps ++ [f (Share.early id)] }

/-- A PLAN for this member (R354): the slots of a step, or the rows of a chunk as positions and sequences. The stem's rounding key,
FORCE and DEFAULT_LIMIT take the place of the member's own (C3, C9). -/
def planShare (id model : Nat) (chunk : Bool) (pairs : List (Nat × Nat)) (srEn : Bool) (srKey force limit : Nat) (s : State) : State :=
  let s := if chunk then pairs.foldl (fun s p => fillBegin p.2 s) s else s
  let cap := s.capture model (pairs.filterMap (fun p => (s.seq p.2).sampler.mask))
  let cap := { cap with srEn := srEn, srKey := srKey, force := force, defaultLimit := limit }
  let slots := pairs.map (fun p =>
    if chunk then
      let rows := match (s.seq p.2).appends with | a :: _ => a.rows.drop (p.1 - a.len0) | [] => []
      s.slotOf p.2 p.1 (rows.headD 0)
    else s.slotOf p.2 (s.seq p.2).len ((s.seq p.2).pending.getD 0))
  let first := s.stageOf s.vine.member = 0
  onShare id (fun h =>
    let inp := if first then some [] else h.input
    { h with model := model, chunk := chunk, planned := true, nums := pairs.map (·.1), cap := cap, layer := s.vine.firstLayer,
             input := inp, slots := slots.zipIdx.map (fun e => { e.1 with hidden := (inp.getD []).getD e.2 [] }) }) s

/-- The stem sends a step or a chunk to the members of its replica, and takes its own share (R354). -/
def planReplica (id model : Nat) (chunk : Bool) (pairs : List (Nat × Nat)) (cap : Captured) (s : State) : State :=
  let q := (pairs.head?.map (·.2)).getD 0
  let args := [id, model, b2n chunk, b2n cap.srEn, cap.srKey, cap.force, cap.defaultLimit] ++ pairs.flatMap (fun p => [p.1, p.2])
  let s := vineSendAll 0x10 (s.replicaMembers (q % s.shapeR)) args [] s
  if s.holdsSeq q then planShare id model chunk pairs cap.srEn cap.srKey cap.force cap.defaultLimit s else s

end Sys2Proof.Machine
end

