-- ==== Sys2Proof/Machine/Balance.lean ====
section
/-! DEFINITION. Engine balance: the phases of the Press and Drupe engines, assignment windows and their edges (spec 13, R301 to R305). -/

namespace Sys2Proof.Machine

/-! ## Engine balance (R301 to R305) -/

/-- Prompt tokens queued by SEQ_APPEND or held in unfinished chunks (R303). -/
def State.promptTokens (s : State) : Nat :=
  (s.seqs.entries.map (fun e => (e.2.appends.map (fun a => if a.begun then a.rows.length - a.done else a.tokens.length)).sum)).sum

/-- The phases that an edge assigns (R303, R304): of the Press engines and of the Drupe engines. A member that is not the stem counts its
shares of the stem's FORMED steps (R354). -/
def State.assign (s : State) : (Nat → Nat) × (Nat → Nat) :=
  let set_ := s.seqs.balInForce
  if set_.getD 0 0 = 1 then
    (fun e => if pressOrder.idxOf e < set_.getD 2 0 then 1 else 0,
     fun e => if 6 - set_.getD 1 0 ≤ e % 6 then 1 else 0)
  else
    let q := s.promptTokens
    let shares := s.vine.steps.filter (fun h => h.planned && !h.chunk)
    let long := fun (l : List StepSlot) => decide (s.drupe.drupeLimit < l.length)
    let d := b2n (s.seqs.steps.any (fun p => long p.slots) || shares.any (fun h => long h.slots))
    let np := min (ceilDiv q (64 * max 1 (set_.getD 4 0))) (8 - d)
    let dp := if !s.seqs.steps.isEmpty || !shares.isEmpty then 0 else if 0 < q then 1 else 2
    (fun e => if pressOrder.idxOf e < np then 1 else if d = 1 then 0 else 2, fun _ => dp)

/-- A Press engine changes phase: its open groups are saved (R193, R305). Firmware allocates the places in Orchard SRAM, which the spec
leaves open. (DEDUCED, log entry 27) -/
def rephasePress (e ph : Nat) (s : State) : State :=
  let v := s.pressEngine e
  if v.phase = ph then s else
  let s := v.groups.foldl (fun s g =>
    let (x, s) := s.free
    saveGroup e (64 * x) g.2 s) s
  drainPress e 65 (s.modPress e (fun v => { v with phase := ph, groups := [] }))

/-- An edge: the settings of MOD_ENG_BAL come into force, the phases are assigned and a new window begins (R302, R305).
(DEDUCED, log entry 48) -/
def edge (s : State) : State :=
  let g := s.seqs
  let s := s.setSeqs { g with
    balInForce := [b2n g.pinEn, g.drupePrompt, g.pressPrompt, g.maxMs, g.quota], edgeDue := false, edges := (g.edges + 1) % 2 ^ 32,
    windowBoundaries := 0, windowStart := s.now }
  let a := s.assign
  let s := (List.range 8).foldl (fun s e => rephasePress e (a.1 e) s) s
  s.setDrupe { s.drupe with
    engines := (List.range 24).foldl (fun t e => tmod DrupeEngine.reset t e (fun v => { v with phase := a.2 e })) s.drupe.engines }

/-- ASSIGN_WINDOW_END: the 64th boundary of the window has passed, or MAX_MS (R302). (DESIGN CHOICE, log entry 15) -/
def execAssignWindowEnd (s : State) : Host.Outcome State Fault Refusal :=
  .next (whenReleased (fun s =>
    if 64 ≤ s.seqs.windowBoundaries then edge s
    else edge (s.advanceTo (s.seqs.windowStart + msTicks (s.seqs.balInForce.getD 3 0)))) s)

/-- A condition that leaves work without an engine of its phase (R302); none while the assignment is pinned (R304). -/
def State.earlyDue (s : State) : Bool :=
  s.seqs.balInForce.getD 0 0 != 1 &&
    (s.seqs.steps.any (fun p => p.state == 2 && decide (p.cap.drupeLimit < p.batch) && !s.pressIn 0) ||
     s.vine.steps.any (fun h => h.planned && !h.chunk && !h.fin && decide (h.cap.drupeLimit < h.slots.length) && !s.pressIn 0) ||
     (s.seqs.steps.any (fun p => p.state == 2) || s.vine.steps.any (fun h => h.planned && !h.chunk && !h.fin)) && !s.drupesDecode ||
        (decide (0 < s.promptTokens) && !s.pressIn 1))

/-- An early edge where a condition calls for one, counted (R302). (DEDUCED, log entry 22) -/
def earlyEdge (s : State) : State :=
  if s.earlyDue then
    let s := edge s
    s.setSeqs { s.seqs with early := satAdd 8 s.seqs.early 1 }
  else s

/-- EARLY_EDGE. -/
def execEarlyEdge (s : State) : Host.Outcome State Fault Refusal := .next (whenReleased earlyEdge s)

end Sys2Proof.Machine
end

