-- ==== Sys2Proof/Machine/Bramble.lean ====
section
/-! DEFINITION. The bramble index: finding, pinning and unpinning prefixes (R259 to R261). -/

namespace Sys2Proof.Machine

/-- A node stands under the root of a model, variant and scope. -/
def BrambleNode.under (b : BrambleNode) (m v : Nat) (scope : Option Nat) : Bool := b.model == m && b.variant == v && b.scope == scope

/-- The longest run of whole blocks, at most max tokens, that a root's path matches (R260). -/
def State.brambleMatch (s : State) (m v : Nat) (scope : Option Nat) (toks : List Nat) (max : Nat) : Nat :=
  ((List.range (max / 16 + 1)).filter (fun d =>
    d == 0 || s.seqs.bramble.any (fun b => b.under m v scope && b.path == toks.take (16 * d)))).foldl Nat.max 0 * 16

/-- The page of place k that the deepest matched node gives (R260). -/
def State.bramblePage (s : State) (m v : Nat) (scope : Option Nat) (toks : List Nat) (k : Nat) : Option Nat :=
  (List.range (toks.length / 16)).foldl (fun best d =>
    match s.seqs.bramble.find? (fun b => b.under m v scope && b.path == toks.take (16 * (d + 1))) with
    | some b => ((b.pages.find? (fun r => r.1 == k)).map (·.2)).orElse (fun _ => best)
    | none => best) none

/-- A fresh sequence receives the pages of a matched prefix of len positions (R260). -/
def attachPrefix (q : Nat) (pages : List Nat) (len : Nat) (toks : List Nat) (s : State) : State :=
  let s := pages.foldl (fun s p => refPage p s) s
  let s := s.modSeq q (fun e => { e with
    len := len, pages := pages.map (fun p => { page := p, shared := true }),
    history := (toks.take len).drop (len - 255) })
  markShared (s.setSeqs { s.seqs with attached := satAdd 32 s.seqs.attached pages.length })

/-- PREFIX_FIND with its tokens read. With ATTACH the match is cut to MAX_LEN too, which LEN never exceeds (R250).
(DESIGN CHOICE, log entry 54) -/
def findPrefix (w : Nat) (t : Taken) (toks : List Nat) (s : State) : State :=
  let q := t.at 0x20 2
  let e := s.seq q
  let cap := (if t.at 0x23 1 = 0 then toks.length - 1 else min (toks.length - 1) e.maxLen) / 16 * 16
  let a := s.brambleMatch e.model e.variant (some t.tenant) toks cap
  let g := s.brambleMatch e.model e.variant none toks cap
  let scope := if g ≤ a then some t.tenant else none
  let m := max a g
  let res := fun (n : Nat) => done (natLe 4 m ++ natLe 4 n ++ natLe 1 (if m = 0 then 0xFF else if g ≤ a then 0 else 1))
  if t.at 0x23 1 = 0 || m = 0 then complete w t.n (res 0) s
  else
    let pages := (List.range (ceilDiv m (max 1 (s.modelOf q).perPage))).filterMap
      (fun k => s.bramblePage e.model e.variant scope (toks.take m) k)
    match takeListPage q s with
    | none => complete w t.n (noPages 1) s
    | some s => complete w t.n (res pages.length) (attachPrefix q pages m toks s)

/-- A sequence is fresh (R244). -/
def SeqEntry.fresh (e : SeqEntry) : Bool := e.state == 1 && e.len == 0 && e.pending.isNone && e.pages.isEmpty

/-- PREFIX_FIND (R260). -/
def prefixFind (src : Src) (w : Nat) (t : Taken) (s : State) : State :=
  let e := s.seq (t.at 0x20 2)
  checked w t.n [(e.state == 1, badState (notReady e.state)), (t.at 0x23 1 == 0 || e.fresh, badState 0x16)]
    (fun s => match readSource (t.at 0x22 1 == 1) (t.at 0x28 8) (4 * t.at 0x24 4) src s with
      | (.waiting, _) => s
      | (.poison a, s) => complete w t.n a s
      | (.bytes d, s) => findPrefix w t (wordsOf 4 d) (forwardWith t d s)) s

/-- PREFIX_FIND. -/
def execPrefixFind (w : Fin 16) (n : U32) (src : Src) (s : State) : Host.Outcome State Fault Refusal :=
  .next (inOrder 0x37 w.val n.toNat (fun _ => true) (prefixFind src) s)

/-- The root's scope that a PREFIX_PIN names. -/
def pinScope (t : Taken) : Option Nat := if t.at 0x21 1 = 0 then some t.tenant else none

/-- The nodes that a pinned path lacks. -/
def State.missingNodes (s : State) (m v : Nat) (scope : Option Nat) (toks : List Nat) : List Nat :=
  (List.range (toks.length / 16)).filter (fun d =>
    !s.seqs.bramble.any (fun b => b.under m v scope && b.path == toks.take (16 * (d + 1))))

/-- A new node of block d of a path, with its references on the source's pages (R261). -/
def newNode (q m v : Nat) (scope : Option Nat) (toks : List Nat) (d : Nat) (s : State) : State :=
  let p := max 1 (s.modelOf q).perPage
  let lo := 16 * d / p
  let pages := (List.range ((16 * d + 15) / p + 1 - lo)).filterMap (fun i => ((s.seq q).pages[lo + i]?).map (fun r => (lo + i, r.page)))
  let b : BrambleNode := { model := m, variant := v, scope := scope, path := toks.take (16 * (d + 1)), pages := pages, pins := 0 }
  let s := pages.foldl (fun s r => refPage r.2 s) s
  s.setSeqs { s.seqs with bramble := s.seqs.bramble ++ [b] }

/-- Pins of the node at the end of a path changed by f. -/
def modPins (m v : Nat) (scope : Option Nat) (toks : List Nat) (f : Nat → Nat) (s : State) : State :=
  s.setSeqs { s.seqs with
    bramble := mapIf (fun b => b.under m v scope && b.path == toks) (fun b => { b with pins := f b.pins }) s.seqs.bramble }

/-- PREFIX_PIN PIN with its tokens read. -/
def pinPrefix (w : Nat) (t : Taken) (toks : List Nat) (s : State) : State :=
  let q := t.at 0x22 2
  let e := s.seq q
  let scope := pinScope t
  let new := s.missingNodes e.model e.variant scope toks
  if 262144 < s.seqs.bramble.length + new.length then complete w t.n (badState 0x19) s
  else
    let s := new.foldl (fun s d => newNode q e.model e.variant scope toks d s) s
    complete w t.n (done []) (markShared (modPins e.model e.variant scope toks (· + 1) s))

/-- PREFIX_PIN PIN (R261). -/
def prefixPin (src : Src) (w : Nat) (t : Taken) (s : State) : State :=
  let e := s.seq (t.at 0x22 2)
  checked w t.n [(e.state == 1, badState (notReady e.state)), (decide (t.at 0x24 4 ≤ e.len), badField 0x24)]
    (fun s => match readSource true (t.at 0x28 8) (4 * t.at 0x24 4) src s with
      | (.waiting, _) => s
      | (.poison a, s) => complete w t.n a s
      | (.bytes d, s) => pinPrefix w t (wordsOf 4 d) (forwardWith t d s)) s

/-- Nodes without a pin and without a pinned descendant are deleted (R261). -/
def pruneBramble (m v : Nat) (scope : Option Nat) (s : State) : State :=
  let dead := fun (b : BrambleNode) => b.under m v scope &&
    !s.seqs.bramble.any (fun c => c.under m v scope && c.pins != 0 && c.path.take b.path.length == b.path)
  let gone := s.seqs.bramble.filter dead
  let s := s.setSeqs { s.seqs with bramble := s.seqs.bramble.filter (fun b => !dead b) }
  markShared (gone.foldl (fun s b => unrefPages (b.pages.map (·.2)) s) s)

/-- PREFIX_PIN UNPIN with its tokens read (R261). -/
def unpinPrefix (w : Nat) (t : Taken) (toks : List Nat) (s : State) : State :=
  let m := t.at 0x30 1
  let v := t.at 0x32 2
  let scope := pinScope t
  if s.seqs.bramble.any (fun b => b.under m v scope && b.path == toks && b.pins != 0) then
    complete w t.n (done []) (pruneBramble m v scope (modPins m v scope toks (· - 1) s))
  else complete w t.n (badState 0x1C) s

/-- PREFIX_PIN UNPIN. -/
def prefixUnpin (src : Src) (w : Nat) (t : Taken) (s : State) : State :=
  match readSource true (t.at 0x28 8) (4 * t.at 0x24 4) src s with
  | (.waiting, _) => s
  | (.poison a, s) => complete w t.n a s
  | (.bytes d, s) => unpinPrefix w t (wordsOf 4 d) (forwardWith t d s)

/-- PREFIX_PIN PIN. -/
def execPrefixPinPin (w : Fin 16) (n : U32) (src : Src) (s : State) : Host.Outcome State Fault Refusal :=
  .next (inOrder 0x38 w.val n.toNat (fun t => t.at 0x20 1 == 0) (prefixPin src) s)

/-- PREFIX_PIN UNPIN. -/
def execPrefixPinUnpin (w : Fin 16) (n : U32) (src : Src) (s : State) : Host.Outcome State Fault Refusal :=
  .next (inOrder 0x38 w.val n.toNat (fun t => t.at 0x20 1 == 1) (prefixUnpin src) s)

end Sys2Proof.Machine
end

