-- ==== Sys2Proof/Machine/PipExec.lean ====
section
/-! DEFINITION. The pips: how a pip reads and writes its plot, and its instructions (spec 06, R131 to R138, R148). A command names the
pip whose next instruction runs: as many of its plot rows as fit in the slice in progress. -/

namespace Sys2Proof.Machine

/-! ## Plots (R102, R110, R131, R146) -/

/-- Pip p of pip stack k changed by f. -/
def State.modPipUnit (s : State) (k p : Nat) (f : Pip → Pip) : State :=
  s.modPip k (fun v => { v with pips := tmod Pip.reset v.pips p f })

/-- Run slot i of pip stack k changed by f. -/
def State.modRun (s : State) (k i : Nat) (f : Run → Run) : State :=
  s.modPip k (fun v => { v with runs := tmod Run.free v.runs i f })

/-- Fault bit b of the run in slot i, met by pip p: the first fault's pip is kept (R147, R148). -/
def runFault (k i b p : Nat) (s : State) : State :=
  s.modRun k i (fun r => { r with faults := setBit r.faults b true, faultPip := if r.faults = 0 then p else r.faultPip })

/-- A PIP_FENCE event (R110, R146, R152): kind write, or read of a protected granule. -/
def pipFence (k i p row : Nat) (write outside : Bool) (s : State) : State :=
  let s := s.modPip k (fun v => { v with
    fenceCount := satAdd 32 v.fenceCount 1, fenceKind := write, fenceOutside := outside, fencePip := p, fenceRow := row % 32768 })
  let s := (runFault k i 0 p s).modRun k i (fun r => { r with fenceCount := satAdd 32 r.fenceCount 1 })
  logErr 0x13 6 k (plotRow k p row) p s

/-- The 2 KiB of a plot row as the arrays hold them: pip reads are direct and unchecked (R65, R109). -/
def State.plotBytes (s : State) (k p row : Nat) : List Byte :=
  (List.range 64).flatMap (fun i => s.arrayBurst (plotRow k p row / 32 + i))

/-- A completed write that stands in the write queue may have reached the arrays by the time a pip reads (R70): a free value says
whether it has. (DESIGN CHOICE, log entry 51) -/
def maybeLand (b : Nat) (s : State) : State :=
  let (x, s) := s.free
  if x % 2 = 0 then s.setMem { s.mem with unlanded := terase b s.mem.unlanded } else s

/-- Writes to a plot row that stand in the write queue, as a pip's read of the row meets them. -/
def settleRow (k p row : Nat) (s : State) : State :=
  (s.mem.unlanded.filter (fun e => e.1 / 64 == plotRow k p row / 2048)).foldl (fun s e => maybeLand e.1 s) s

/-- A pip reads a plot row: zeros from a protected granule. -/
def pipRead1 (k i p row : Nat) (s : State) : List Byte × State :=
  if s.isCompute (plotRow k p row) then ((settleRow k p row s).plotBytes k p row, settleRow k p row s)
  else (List.replicate 2048 0, pipFence k i p row false false s)

/-- A burst written by a pip: the data lanes change, the check lanes do not (R111). -/
def pipPut (b : Nat) (d : List Byte) (s : State) : State :=
  let keep := (padTo 36 (s.errsOf b)).drop 32
  let s := storeBurst b d s
  if keep.any (· != 0) then s.setMem { s.mem with errs := tset [] s.mem.errs b (List.replicate 32 0 ++ keep) } else s

/-- A pip writes a plot row: dropped outside the run's write range and in a protected granule. -/
def pipWrite1 (k i p row : Nat) (d : List Byte) (s : State) : State :=
  let r := tget Run.free (s.pip k).runs i
  let x := row % 32768
  if x < r.wrowFirst || r.wrowFirst + r.wrowCount ≤ x then pipFence k i p row true true s
  else if !s.isCompute (plotRow k p row) then pipFence k i p row true false s
  else (chunksOf 32 (padTo 2048 d)).zipIdx.foldl (fun s e => pipPut (plotRow k p row / 32 + e.2) e.1 s) s

/-! ## Instruction fields (R137) -/

/-- OP. -/
def iOp (w : Nat) : Nat := bits w 58 6
/-- FMT. -/
def iFmt (w : Nat) : Nat := bits w 55 3
/-- RD. -/
def iRd (w : Nat) : Nat := bits w 52 3
/-- RA. -/
def iRa (w : Nat) : Nat := bits w 49 3
/-- RB. -/
def iRb (w : Nat) : Nat := bits w 46 3
/-- INC. -/
def iInc (w : Nat) : Bool := bit w 45
/-- Plot rows: COUNT + 1. -/
def iCount (w : Nat) : Nat := bits w 32 8 + 1
/-- IMM. -/
def iImm (w : Nat) : Nat := bits w 0 32

/-! ## Which pip may run -/

/-- Pips that run together advance together (R144): no other active pip of the run is an instruction behind. -/
def State.inStep (s : State) (k p : Nat) (r : Run) : Bool :=
  (List.range r.pipCount).all (fun j =>
    let q := s.pipUnit k (r.pipFirst + j)
    !(s.pip k).active (r.pipFirst + j) || q.ready || decide ((s.pipUnit k p).done ≤ q.done))

/-- Plot rows that fit in a slice of so many cycles of the stack clock (R140): 14 ns to open the first row, and 128 ns for each at
16 GB/s, counted in eighths of a nanosecond. (DEDUCED, log entry 51) -/
def rowsOf (cycles : Nat) : Nat := (5 * cycles - 112) / 1024

/-- Plot rows that pip p can still do in the slice in progress. -/
def State.rowsLeft (s : State) (k p : Nat) : Nat :=
  let u := s.pipUnit k p
  (s.pip k).sliceRows - (if u.slice = (s.pip k).sliceNo then u.used else 0)

/-- Plot rows of the instruction w that pip p does now. -/
def State.rowsNow (s : State) (k p w : Nat) : Nat := min (iCount w - (s.pipUnit k p).row) (s.rowsLeft k p)

/-- Pip p has done n plot rows more of its instruction; row is where it stands in it. -/
def rowsSpent (k p n row : Nat) (s : State) : State :=
  let v := s.pip k
  s.modPipUnit k p (fun u => { u with
    row := row, slice := v.sliceNo, used := (if u.slice = v.sliceNo then u.used else 0) + n })

/-- Does f for each plot row of the instruction that fits in the slice (R140); fin when the last one is done. -/
def byRows (k p w : Nat) (f : Nat → State → State) (fin : State → State) (s : State) : State :=
  let n := s.rowsNow k p w
  let r := (s.pipUnit k p).row
  let t := (List.range n).foldl (fun s j => f (r + j) s) s
  if r + n = iCount w then fin (rowsSpent k p n 0 t) else rowsSpent k p n (r + n) t

/-- Pip p ends its instruction: the program counter moves on and, with INC, each of the registers used advances by COUNT. -/
def pipNext (k p w : Nat) (used : List Nat) (s : State) : State :=
  s.modPipUnit k p (fun v => { v with
    pc := (v.pc + 1) % 256, done := v.done + 1
    a := if iInc w then used.eraseDups.foldl (fun a r => tset 0 a r ((tget 0 a r + iCount w) % 32768)) v.a else v.a })

/-- Runs the instruction at pip p's program counter if it has the operation op, the pip is active and a slice runs. f receives the
run slot and the word. -/
def onPip (op k p : Nat) (f : Nat → Nat → State → State) (s : State) : State :=
  let v := s.pip k
  let u := s.pipUnit k p
  match v.runOf p with
  | none => s
  | some (i, r) =>
    let w := tget 0 u.store u.pc
    if s.released && v.inSlice && !u.ready && (s.stack (stackOfPip k)).thermal != 4 && v.active p && s.inStep k p r && iOp w == op
    then f i w s else s

/-! ## Row operations (R138) -/

/-- Address register r of pip p. -/
def State.pipA (s : State) (k p r : Nat) : Nat := tget 0 (s.pipUnit k p).a r

/-- D ← f A B, plot row by plot row; an operand that the operation lacks is not read. -/
def rowOp (k i p w : Nat) (useA useB : Bool) (f : List Byte → List Byte → List Byte) (s : State) : State :=
  let d := s.pipA k p (iRd w)
  let a := s.pipA k p (iRa w)
  let b := s.pipA k p (iRb w)
  byRows k p w (fun j s =>
    let (x, s) := if useA then pipRead1 k i p (a + j) s else ([], s)
    let (y, s) := if useB then pipRead1 k i p (b + j) s else ([], s)
    pipWrite1 k i p (d + j) (f x y) s)
    (pipNext k p w ([iRd w] ++ (if useA then [iRa w] else []) ++ (if useB then [iRb w] else []))) s

/-- Elements of a row, widened exactly to FP32: 0 BF16, 1 FP32. -/
def rowElems (fmt : Nat) (d : List Byte) : List F32 :=
  if fmt = 0 then (chunksOf 2 d).map (fun c => f32OfBf16 (BitVec.ofNat 16 (leNat c)))
  else (chunksOf 4 d).map (fun c => BitVec.ofNat 32 (leNat c))

/-- Element-wise operation on two rows: by g on BF16 and by h on FP32 elements. -/
def elemOp (fmt : Nat) (g : BF16 → BF16 → BF16) (h : F32 → F32 → F32) (x y : List Byte) : List Byte :=
  if fmt = 0 then
    List.flatten (List.zipWith (fun a b => natLe 2 (g (BitVec.ofNat 16 (leNat a)) (BitVec.ofNat 16 (leNat b))).toNat)
      (chunksOf 2 x) (chunksOf 2 y))
  else
    List.flatten (List.zipWith (fun a b => natLe 4 (h (BitVec.ofNat 32 (leNat a)) (BitVec.ofNat 32 (leNat b))).toNat)
      (chunksOf 4 x) (chunksOf 4 y))

/-- An FP32 result written in an element format. -/
def elemBytes (fmt : Nat) (x : F32) : List Byte := if fmt = 0 then natLe 2 (bf16Of .nearest x).toNat else natLe 4 x.toNat

/-- D ← A × IMM: each product rounded once to the element format. -/
def scaleRow (fmt : Nat) (c : F32) (x : List Byte) : List Byte :=
  if fmt = 0 then
    (chunksOf 2 x).flatMap (fun a => natLe 2 (bfOf (valMul (valBf (BitVec.ofNat 16 (leNat a))) (val32 c))).toNat)
  else (chunksOf 4 x).flatMap (fun a => natLe 4 (f32Mul (BitVec.ofNat 32 (leNat a)) c).toNat)

/-! ## Statistics (R132, R138, R236) -/

/-- Statistics lane l of a pip. -/
def Pip.welford (u : Pip) (l : Nat) : Welford := { n := tget 0 u.cnt l, mean := tget 0 u.mean l, m2 := tget 0 u.m2 l }

/-- Statistics lane l replaced. -/
def Pip.setWelford (u : Pip) (l : Nat) (v : Welford) : Pip :=
  { u with cnt := tset 0 u.cnt l v.n, mean := tset 0 u.mean l v.mean, m2 := tset 0 u.m2 l v.m2 }

/-- A row joins the statistic, lane by lane, and the merged mean and variance follow. -/
def Pip.stat (u : Pip) (xs : List F32) : Pip :=
  let u := (List.range 8).foldl (fun (u : Pip) l => u.setWelford l ((laneOf l xs).foldl wfStep (u.welford l))) u
  let t := wfTree u.welford
  { u with rowMean := t.mean, rowVar := wfVar t.m2 t.n }

/-- STAT: the Welford update over A; IMM bit 0 restarts the statistic. -/
def pipStat (k p i w : Nat) (s : State) : State :=
  let a := s.pipA k p (iRa w)
  let s := if bit (iImm w) 0 && (s.pipUnit k p).row == 0 then s.modPipUnit k p (fun u => { u with cnt := [], mean := [], m2 := [] })
    else s
  byRows k p w (fun j s =>
    let (x, s) := pipRead1 k i p (a + j) s
    s.modPipUnit k p (fun u => u.stat (rowElems (iFmt w) x))) (pipNext k p w [iRa w]) s

/-- NORM: D ← (A − mean) × rsqrt(var + ε) × B. -/
def pipNorm (k p i w : Nat) (s : State) : State :=
  let u := s.pipUnit k p
  let rho := normRho u.rowVar (BitVec.ofNat 32 (iImm w))
  rowOp k i p w true true (fun x y =>
    List.flatten (List.zipWith (fun a b => elemBytes (iFmt w) (f32Mul (f32Mul (f32Sub a u.rowMean) rho) b))
      (rowElems (iFmt w) x) (rowElems (iFmt w) y))) s

/-! ## GEMV and REDUCE (R133 to R136, R206, R213) -/

/-- Column counts whose row fills exactly the plot rows that an instruction names, for a unit with so many lanes.
(DEDUCED, log entry 28) -/
def gemvWidths (fmt lanes rows limit : Nat) : List Nat :=
  ((List.range limit).map (· + 1)).filter (fun c => ceilDiv (rowCodeBytes fmt c lanes + rowSlotBytes fmt c) 2048 == rows)

/-- The columns that a GEMV covers. (DEDUCED, log entry 28) -/
def gemvColumns (w fmt lanes rows limit : Nat) : Nat :=
  match gemvWidths fmt lanes rows limit with
  | [] => 0
  | c :: cs => (c :: cs).getD (Config.gemvColumns w % (cs.length + 1)) c

/-- a(s, j) as the stage streams it (R133, R213): BF16 as it stands, or INT8 through the input column table. -/
def PipStack.activation (v : PipStack) (bf : Bool) (seq col : Nat) : F32 :=
  if bf then f32OfBf16 (BitVec.ofNat 16 (leNat (tslice 0 v.stage (seq * 16384 + 2 * col) 2)))
  else
    let q := (tget 0 v.stage (seq * 16384 + col)).toInt
    f32Add (f32Mul (f32OfInt q) (tget f32One v.colScale col)) (tget 0 v.colOffset col)

/-- The products of a decoded row join the lane accumulators of nseq sequences, in index order. -/
def Pip.accumulate (u : Pip) (nseq : Nat) (row : List RowTerm) (act : Nat → Nat → F32) : Pip :=
  row.foldl (fun (u : Pip) t =>
    { u with acc := (List.range nseq).foldl (fun acc q =>
        let x := 8 * q + t.col % 8
        tset 0 acc x (f32Add (tget 0 acc x) (product t.v (act q t.col) t.b))) u.acc }) u

/-- The products of a GEMV whose plot rows the pip has read. A skewed or malformed block stops the GEMV work of the whole run (R148); it
is recorded only in the run's slot and its reply (R158). (DEDUCED, log entry 28) -/
def gemvRows (k p i w : Nat) (s : State) : State :=
  let imm := iImm w
  let fmt := iFmt w
  let lanes := 2 ^ bits imm 3 2
  let first := bits imm 24 8
  let bf := bit imm 5
  let col0 := bits imm 8 16
  let nseq := bits imm 0 3 + 1
  let cols := gemvColumns w fmt lanes (iCount w) ((if bf then 8192 else 16384) - col0)
  let d := (s.pipUnit k p).buf
  let s := s.modPipUnit k p (fun u => { u with buf := [] })
  let nb := ceilDiv cols 256
  let cb := rowCodeBytes fmt cols lanes
  match decodeRow fmt cols first lanes (s.pipUnit k p).bsn 0 (d.take cb) (bytesAt d cb (rowSlotBytes fmt cols)) with
  | .ok row =>
    let v := s.pip k
    pipNext k p w [iRa w] (s.modPipUnit k p (fun u =>
      { u.accumulate nseq row (fun q c => v.activation bf q (col0 + c)) with
          bsn := (u.bsn + nb) % 65536, laneFirst := first, lanes := lanes, nseq := nseq }))
  | .error _ => pipNext k p w [iRa w] (runFault k i 1 p s)

/-- GEMV over A: its plot rows are read slice by slice, and then decoded. -/
def pipGemv (k p i w : Nat) (s : State) : State :=
  if bit (tget Run.free (s.pip k).runs i).faults 1 then
    pipNext k p w [iRa w] (s.modPipUnit k p (fun u => { u with row := 0, buf := [] }))
  else
    let a := s.pipA k p (iRa w)
    byRows k p w (fun j s =>
      let (y, s) := pipRead1 k i p (a + j) s
      s.modPipUnit k p (fun u => { u with buf := u.buf ++ y })) (gemvRows k p i w) s

/-- The row result of a complete gatherer slot leaves: 8 FP32 values at OUT_BASE + tag · 32 (R136). -/
def gatherOut (k i : Nat) (g : GatherSlot) (nseq : Nat) (s : State) : Bool × State :=
  let r := tget Run.free (s.pip k).runs i
  let sum := fun q l => ((g.sums.find? (fun e => e.1 == 8 * q + l)).map (·.2)).getD 0
  let vals := (List.range 8).map (fun q => if q < nseq then octetTree f32Add (sum q) else 0)
  match writeMem 6 (r.outBase + 32 * g.tag) (vals.flatMap (fun x => natLe 4 x.toNat)) s with
  | (false, _) => (false, s)
  | (true, s) =>
    (true, (s.modPip k (fun v => { v with
        gather := v.gather.filter (fun h => !(h.run == i && h.tag == g.tag)), rowsRc := satAdd 32 v.rowsRc 1 })).modRun k i
      (fun r => { r with rowsOut := r.rowsOut + 1 }))

/-- The pip's lane sums for a tag. -/
def Pip.laneSums (u : Pip) : List (Nat × F32) :=
  (List.range u.nseq).flatMap (fun q => (List.range u.lanes).map (fun j =>
    (8 * q + u.laneFirst + j, tget 0 u.acc (8 * q + u.laneFirst + j))))

/-- REDUCE: the lane sums go to the gatherer and the accumulators are cleared. It stalls, and the run with it, while its row slot holds
another tag or its result cannot leave. Which of the run's slots a tag takes the spec does not say: it is the tag modulo GATHER_SLOTS.
(DESIGN CHOICE, log entry 51) -/
def pipReduce (k p i w : Nat) (s : State) : State :=
  let v := s.pip k
  let r := tget Run.free v.runs i
  let u := s.pipUnit k p
  let tag := bits (iImm w) 0 16
  let go := fun (s : State) => pipNext k p w [] (s.modPipUnit k p (fun u => { u with acc := [] }))
  if bit r.faults 1 then pipNext k p w [] s
  else if r.outRows ≤ tag then go (runFault k i 4 p s)
  else if u.lanes = 0 then go s
  else
    let room := max 1 r.gatherSlots
    let clash := v.gather.any (fun g => g.run == i && g.tag != tag && g.tag % room == tag % room)
    if clash then s
    else
      let old := v.gather.find? (fun g => g.run == i && g.tag == tag)
      let had := match old with | some g => g.sums | none => []
      let new := u.laneSums
      let g : GatherSlot :=
        { run := i, tag := tag, sums := had.filter (fun e => !new.any (fun x => x.1 == e.1)) ++ new }
      let rest := v.gather.filter (fun h => !(h.run == i && h.tag == tag))
      let s1 := s.modPip k (fun v => { v with gather := rest ++ [g] })
      let full := (List.range u.nseq).all (fun q => (List.range 8).all (fun l => g.sums.any (fun e => e.1 == 8 * q + l)))
      if !full then go s1
      else match gatherOut k i g u.nseq s1 with
        | (true, s2) => go s2
        | (false, _) => s

/-! ## END -/

/-- A run ends its computing: REBUILD follows (R143). -/
def endRun (k i : Nat) (s : State) : State := s.modRun k i (fun r => { r with state := 3 })

/-- END: the pip raises ready; when every pip of the run has, the run enters REBUILD. -/
def pipEnd (k p i : Nat) (s : State) : State :=
  let s := s.modPipUnit k p (fun u => { u with ready := true })
  let r := tget Run.free (s.pip k).runs i
  if (List.range r.pipCount).all (fun j => (s.pipUnit k (r.pipFirst + j)).ready) then endRun k i s else s

/-! ## The commands -/

/-- PIP_END (R138, R143). -/
def execPipEnd (k : Fin 8) (p : Fin 1536) (s : State) : Host.Outcome State Fault Refusal :=
  .next (onPip 0x00 k.val p.val (fun i _ => pipEnd k.val p.val i) s)

/-- SETA (R138). -/
def execPipSeta (k : Fin 8) (p : Fin 1536) (s : State) : Host.Outcome State Fault Refusal :=
  .next (onPip 0x01 k.val p.val (fun _ w s =>
    pipNext k.val p.val w [] (s.modPipUnit k.val p.val (fun u => { u with a := tset 0 u.a (iRd w) (bits (iImm w) 0 15) }))) s)

/-- SETL (R138). -/
def execPipSetl (k : Fin 8) (p : Fin 1536) (s : State) : Host.Outcome State Fault Refusal :=
  .next (onPip 0x02 k.val p.val (fun _ w s =>
    pipNext k.val p.val w [] (s.modPipUnit k.val p.val (fun u => { u with l := bits (iImm w) 0 16 }))) s)

/-- LOOP (R138). -/
def execPipLoop (k : Fin 8) (p : Fin 1536) (s : State) : Host.Outcome State Fault Refusal :=
  .next (onPip 0x03 k.val p.val (fun _ w s =>
    if (s.pipUnit k.val p.val).l = 0 then pipNext k.val p.val w [] s
    else s.modPipUnit k.val p.val (fun u =>
      { u with l := u.l - 1, pc := (u.pc + 256 - bits (iImm w) 0 8) % 256, done := u.done + 1 })) s)

/-- COPY (R138). -/
def execPipCopy (k : Fin 8) (p : Fin 1536) (s : State) : Host.Outcome State Fault Refusal :=
  .next (onPip 0x08 k.val p.val (fun i w => rowOp k.val i p.val w true false (fun x _ => x)) s)

/-- FILL (R138). -/
def execPipFill (k : Fin 8) (p : Fin 1536) (s : State) : Host.Outcome State Fault Refusal :=
  .next (onPip 0x09 k.val p.val (fun i w => rowOp k.val i p.val w false false
    (fun _ _ => (List.replicate 512 (natLe 4 (iImm w))).flatten)) s)

/-- AND (R138). -/
def execPipAnd (k : Fin 8) (p : Fin 1536) (s : State) : Host.Outcome State Fault Refusal :=
  .next (onPip 0x0A k.val p.val (fun i w => rowOp k.val i p.val w true true (List.zipWith (· &&& ·))) s)

/-- OR (R138). -/
def execPipOr (k : Fin 8) (p : Fin 1536) (s : State) : Host.Outcome State Fault Refusal :=
  .next (onPip 0x0B k.val p.val (fun i w => rowOp k.val i p.val w true true (List.zipWith (· ||| ·))) s)

/-- XOR (R138). -/
def execPipXor (k : Fin 8) (p : Fin 1536) (s : State) : Host.Outcome State Fault Refusal :=
  .next (onPip 0x0C k.val p.val (fun i w => rowOp k.val i p.val w true true (List.zipWith (· ^^^ ·))) s)

/-- NOT (R138). -/
def execPipNot (k : Fin 8) (p : Fin 1536) (s : State) : Host.Outcome State Fault Refusal :=
  .next (onPip 0x0D k.val p.val (fun i w => rowOp k.val i p.val w true false (fun x _ => x.map (fun b => ~~~ b))) s)

/-- ADD (R138). -/
def execPipAdd (k : Fin 8) (p : Fin 1536) (s : State) : Host.Outcome State Fault Refusal :=
  .next (onPip 0x10 k.val p.val (fun i w => rowOp k.val i p.val w true true (elemOp (iFmt w) bf16Add f32Add)) s)

/-- MUL (R138). -/
def execPipMul (k : Fin 8) (p : Fin 1536) (s : State) : Host.Outcome State Fault Refusal :=
  .next (onPip 0x11 k.val p.val (fun i w => rowOp k.val i p.val w true true (elemOp (iFmt w) bf16Mul f32Mul)) s)

/-- SCALE (R138). -/
def execPipScale (k : Fin 8) (p : Fin 1536) (s : State) : Host.Outcome State Fault Refusal :=
  .next (onPip 0x12 k.val p.val (fun i w => rowOp k.val i p.val w true false
    (fun x _ => scaleRow (iFmt w) (BitVec.ofNat 32 (iImm w)) x)) s)

/-- STAT (R138). -/
def execPipStat (k : Fin 8) (p : Fin 1536) (s : State) : Host.Outcome State Fault Refusal :=
  .next (onPip 0x18 k.val p.val (pipStat k.val p.val) s)

/-- NORM (R138). -/
def execPipNorm (k : Fin 8) (p : Fin 1536) (s : State) : Host.Outcome State Fault Refusal :=
  .next (onPip 0x19 k.val p.val (pipNorm k.val p.val) s)

/-- GEMV (R134). -/
def execPipGemv (k : Fin 8) (p : Fin 1536) (s : State) : Host.Outcome State Fault Refusal :=
  .next (onPip 0x20 k.val p.val (pipGemv k.val p.val) s)

/-- CLR (R138). -/
def execPipClr (k : Fin 8) (p : Fin 1536) (s : State) : Host.Outcome State Fault Refusal :=
  .next (onPip 0x21 k.val p.val (fun _ w s =>
    pipNext k.val p.val w [] (s.modPipUnit k.val p.val (fun u => { u with acc := [] }))) s)

/-- REDUCE (R135). -/
def execPipReduce (k : Fin 8) (p : Fin 1536) (s : State) : Host.Outcome State Fault Refusal :=
  .next (onPip 0x28 k.val p.val (pipReduce k.val p.val) s)

end Sys2Proof.Machine
end

