-- ==== Sys2Proof/Machine/HostPort.lean ====
section
/-! DEFINITION. The host port: bias commands, HDM decoders, CXL.mem accesses, snoops, training, resets and link errors (spec 03). -/

namespace Sys2Proof.Machine

/-! ## Bias (R61 to R64) -/

/-- A module write that waits in a stopped stack's controller lies in a range. -/
def State.waitingIn (s : State) (a n : Nat) : Bool :=
  s.mem.hbm.any (fun e => e.2.waiting.any (fun w => decide (a ≤ w.dpa) && decide (w.dpa < a + n)))

/-- The bias command in progress completes (R64); granules that have become compute meanwhile stay in device bias (R61). -/
def biasDone (s : State) : State :=
  match s.host.biasCmd with
  | none => s
  | some c =>
    let a := 4096 * c.first
    let n := 4096 * c.count
    let fin := fun (s : State) => s.setHost { s.host with biasResult := 0, biasCmd := none }
    if c.toHost then
      if s.waitingIn a n then s
      else fin (s.setHost { s.host with
        hostBias := (List.range c.count).foldl (fun l i =>
          if s.isCompute (4096 * (c.first + i)) then l else sinsert (c.first + i) l) s.host.hostBias })
    else fin (recallRange a n s)

/-- BIAS_TO_HOST (R64): a write of MOD_BIAS_CMD with GO and TARGET 1. -/
def execBiasToHost (s : State) : Host.Outcome State Fault Refusal := .next (hostRegWrite 0x114 4 0x101 s)

/-- BIAS_TO_DEVICE (R64): a write of MOD_BIAS_CMD with GO and TARGET 0. -/
def execBiasToDevice (s : State) : Host.Outcome State Fault Refusal := .next (hostRegWrite 0x114 4 0x001 s)

/-- BIAS_COMPLETE (R64). -/
def execBiasComplete (s : State) : Host.Outcome State Fault Refusal := .next (whenReleased biasDone s)

/-! ## HDM decoders (R58) -/

/-- HDM decoder d. -/
def State.decoder (s : State) (d : Nat) : HdmDecoder := tget HdmDecoder.reset s.host.decoders d

/-- DPA size of a decoder: its window divided by its ways, given as a power of two. -/
def HdmDecoder.dpaSize (d : HdmDecoder) : Nat := d.size / 2 ^ d.ways

/-- DPA_START of decoder d, with its own DPA_SKIP given (R58). -/
def State.dpaStart (s : State) (d skip : Nat) : Nat :=
  ((List.range d).map (fun i => (s.decoder i).dpaSkip + (s.decoder i).dpaSize)).sum + skip

/-- Ways and granularity that a decoder can have (R52): 1 to 16 ways, 256 B to 16 KiB. -/
def interleaveOk (ways gran : Nat) : Bool := decide (ways ≤ 4) && inRange gran 8 14

/-- A commit, or its withdrawal, of decoder d (R58). The spec gives no answer for a withdrawal while a higher decoder is committed: it is
turned away as a commit would be. (DESIGN CHOICE, log entry 49) -/
def decoderCommit (d : Nat) (commit : Bool) (v : HdmDecoder) (s : State) : State :=
  let higherFree := (List.range 4).all (fun i => decide (i ≤ d) || !(s.decoder i).committed)
  let lowerSet := (List.range d).all (fun i => (s.decoder i).committed)
  let ok := higherFree && (!commit ||
    (lowerSet && interleaveOk v.ways v.gran && v.size % 2 ^ v.ways == 0 && v.dpaSize % 0x10000000 == 0 &&
      decide (s.dpaStart d v.dpaSkip + v.dpaSize ≤ 0x20000000000)))
  if !ok then send (.decoderAnswer false) s
  else
    let nv := if commit then { v with committed := true } else { s.decoder d with committed := false }
    send (if commit then .decoderAnswer true else .decoderReleased) (s.setHost { s.host with
      decoders := tset HdmDecoder.reset s.host.decoders d nv })

/-- HDM_DECODER_COMMIT (R58). The decoders lie in BAR4, which answers as the other BARs do. -/
def execHdmDecoderCommit (d : Fin 4) (commit : Bool) (hpaBase size ways gran dpaSkip : Nat) (s : State) :
    Host.Outcome State Fault Refusal :=
  .next (if s.barOpen then decoderCommit d.val commit
    { committed := false, hpaBase := hpaBase, size := size, ways := ways, gran := gran, dpaSkip := dpaSkip } s else s)

/-- The DPA that a committed decoder translates an HPA to (R58). -/
def HdmDecoder.translate (d : HdmDecoder) (start hpa : Nat) : Nat :=
  let off := hpa - d.hpaBase
  (start + (off / 2 ^ (d.gran + d.ways) * 2 ^ d.gran + off % 2 ^ d.gran)) % 2 ^ 41

/-- The DPA of an HPA; none where no committed decoder's window holds it. -/
def State.hdmDpa (s : State) (hpa : Nat) : Option Nat :=
  ((List.range 4).find? (fun i =>
    let d := s.decoder i
    d.committed && decide (d.hpaBase ≤ hpa) && decide (hpa < d.hpaBase + d.size))).map
    (fun i => (s.decoder i).translate (s.dpaStart i (s.decoder i).dpaSkip) hpa)

/-! ## CXL.mem (R59, R70, R71, R75, R382) -/

/-- CXL.mem reaches the module: CXL is negotiated, the host has enabled CXL.mem, and memory is active (R52, R432). -/
def State.memOpen (s : State) : Bool := decide (2 ≤ s.host.proto) && s.host.memEn && s.host.memActive

/-- n free bytes. -/
def freeBytes (n : Nat) (s : State) : List Byte × State :=
  ((List.range n).map (fun i => BitVec.ofNat 8 (Config.freeValue (s.freeCtr + i))), { s with freeCtr := s.freeCtr + n })

/-- An access that a STOPPED stack turns away is logged as STACK_STOPPED (R418). -/
def noteStopped (dpa : Nat) (s : State) : State := logErr 0x31 9 (s.stackOf dpa) 0 (s.stack (s.stackOf dpa)).temp s

/-- A CXL.mem read that meets an unsealed block is logged (R75), as ECC_UNCORR, since R369 has no code of its own for it.
(DEDUCED, log entry 49) -/
def noteUnsealed (dpa : Nat) (s : State) : State :=
  if s.isCompute dpa && (s.entryOf (dpa / 4096)).isOpen && !s.stopped dpa then logErr 0x10 9 (s.stackOf dpa) (dpa / 32 * 32) 10 s else s

/-- A CXL.mem read of one line at a DPA: data, or the data read with poison set (R75); in FATAL poison over data that the spec leaves
open (R382). -/
def cxlRead (dpa : Nat) (s : State) : State :=
  if s.boot.stage = 10 then
    let (d, s) := freeBytes 64 s
    send (.memData d true) s
  else if s.hole dpa then send (.memData (List.replicate 64 0xFF#8) true) (logErr 4 10 0 dpa 0 s)
  else
    match readBursts (ledgerReader 10) (dpa / 32) 2 s with
    | (o, s) =>
      if o.bad.isNone then send (.memData o.bytes false) s
      else
        let s := if s.stopped dpa && !s.diverted (dpa / 32) then noteStopped dpa s else s
        send (.memData (s.laneBurst (dpa / 32) ++ s.laneBurst (dpa / 32 + 1)) true) (noteUnsealed dpa s)

/-- A CXL.mem write of one line at a DPA. One that finds the entries of a stopped stack full is completed and dropped (R418). -/
def cxlWrite (dpa : Nat) (data : List Byte) (poison : Bool) (s : State) : State :=
  if s.boot.stage = 10 then send .memDone s
  else if s.hole dpa then send .memDone (logErr 4 10 0 dpa 1 s)
  else
    match writeBurst 10 (dpa / 32) (data.take 32) poison s with
    | (false, _) => send .memDone (noteStopped dpa s)
    | (true, s1) =>
      match writeBurst 10 (dpa / 32 + 1) (padTo 32 (data.drop 32)) poison s1 with
      | (false, _) => send .memDone (noteStopped dpa s)
      | (true, s2) => send .memDone s2

/-- Serves one access. -/
def serveAccess (x : HeldAccess) (s : State) : State :=
  match x.write with
  | none => cxlRead x.dpa s
  | some (d, p) => cxlWrite x.dpa d p s

/-- An access of a bank pair whose pip computes in a slice waits for the slice's end, and an access of a line behind one that waits for it
(R142). -/
def cxlAccess (x : HeldAccess) (s : State) : State :=
  if s.closedAt x.dpa || s.host.held.any (fun y => y.dpa == x.dpa) then s.setHost { s.host with held := s.host.held ++ [x] }
  else serveAccess x s

/-- A slice has ended: the accesses that waited for it are served in their order. -/
def serveHeld (s : State) : State :=
  let l := s.host.held
  l.foldl (fun s x => cxlAccess x s) (s.setHost { s.host with held := [] })

/-- An access of the line that holds an HPA; it completes as unsupported while Memory_Active is 0 (R425). -/
def onLine (hpa : Nat) (f : Nat → State → State) (s : State) : State :=
  if !s.memOpen then (if 2 ≤ s.host.proto && s.host.memEn then send .memUnsupported s else s) else
  match s.hdmDpa (hpa / 64 * 64) with
  | none => s
  | some a => f a s

/-- CXL_MEM_READ (R75). -/
def execCxlMemRead (hpa : Nat) (errs : List SymErr) (s : State) : Host.Outcome State Fault Refusal :=
  .next (onLine hpa (fun a s => cxlAccess { dpa := a, write := none } (addErrs errs s)) s)

/-- CXL_MEM_WRITE (R70). -/
def execCxlMemWrite (hpa : Nat) (data : List Byte) (poison : Bool) (s : State) : Host.Outcome State Fault Refusal :=
  .next (onLine hpa (fun a => cxlAccess { dpa := a, write := some (data, poison) }) s)

/-- SNOOP_RESPONSE (R67): every snoop is answered without data. -/
def execSnoopResponse (line : Nat) (s : State) : Host.Outcome State Fault Refusal :=
  .next (if 2 ≤ s.host.proto && s.host.cacheEn then send (.snoopResp line) s else s)

end Sys2Proof.Machine
end

