-- ==== Sys2Proof/Machine/Collect.lean ====
section
/-! DEFINITION. COLLECT: collectives over device memory on a set of members (spec 16, R357, R359, R370). -/

namespace Sys2Proof.Machine

/-! ## The set -/

/-- The members of a COLLECT's set, in ascending order. A module in no group is a group of one. -/
def State.collectSet (s : State) (t : Taken) : List Nat :=
  let r := t.at 0x22 2
  match t.at 0x21 1 with
  | 0 => if s.inCascade then s.vine.members else [s.vine.member]
  | 1 => s.replicaMembers r
  | 2 => (List.range s.shapeW).map (fun k => s.memberAt r (t.at 0x24 1) k)
  | _ => (List.range s.shapeD).map (fun d => s.memberAt r d (t.at 0x25 1))

/-- The checks on a set: that it lies in the shape, that ROOT is in it, and that every member of it is confirmed. -/
def State.collectChecks (s : State) (t : Taken) : List (Bool × Answer) :=
  let set_ := t.at 0x21 1
  let ms := s.collectSet t
  let lost := ms.find? (fun m => s.inCascade && !s.vine.members.contains m)
  [(set_ == 0 || decide (t.at 0x22 2 < s.shapeR), badField 0x22), (set_ != 2 || decide (t.at 0x24 1 < s.shapeD), badField 0x24),
   (set_ != 3 || decide (t.at 0x25 1 < s.shapeW), badField 0x25), (t.at 0x20 1 != 0 || ms.contains (t.at 0x26 2), badField 0x26),
   (lost.isNone, { leaseLost 9 with result := natLe 4 ms.length ++ natLe 4 (lost.getD 0) })]

/-- A COLLECT as its record describes it. -/
def collectOf (w : Nat) (t : Taken) (s : State) : Collect :=
  { w := w % 16, n := fld t.bytes 4 4, answer := (w, t.n), op := t.at 0x20 1, members := s.collectSet t,
    root := t.at 0x26 2, src := t.at 0x28 8, dst := t.at 0x30 8,
    len := t.at 0x38 8, coding := t.at 0x40 1, raw := false, got := [], done := [], stopped := none }

/-- The number under which a member's FAULT names the COLLECT of record (w, n); no step has one as large. -/
def collectId (w n : Nat) : Nat := 2 ^ 63 + w * 2 ^ 32 + n

/-! ## State of a COLLECT -/

/-- The COLLECT of record (w, n) at this module. -/
def State.collect (s : State) (w n : Nat) : Option Collect := s.vine.collects.find? (fun c => c.w == w && c.n == n)

/-- It leaves. -/
def dropCollect (w n : Nat) (s : State) : State :=
  s.setVine { s.vine with collects := s.vine.collects.filter (fun c => !(c.w == w && c.n == n)) }

/-- It is replaced, or enters. -/
def putCollect (c : Collect) (s : State) : State :=
  let s := dropCollect c.w c.n s
  s.setVine { s.vine with collects := s.vine.collects ++ [c] }

/-- RESULT: members of the set, and the first that failed. -/
def collectResult (c : Collect) (failed : Nat) : List Byte := natLe 4 c.members.length ++ natLe 4 failed

/-- A COLLECT fails at a member: the record completes at the stem; a member tells the stem. -/
def failCollect (c : Collect) (a : Answer) (member : Nat) (s : State) : State :=
  let s := dropCollect c.w c.n s
  if s.follows then vineSend 0x14 s.vine.stem [collectId c.w c.n, a.status, 0, a.detail] [] s
  else complete c.answer.1 c.answer.2 { a with flags := if c.raw then flagRaw else 0, result := collectResult c member } s

/-! ## Values (R185, R189) -/

/-- FP32 words of some bytes. -/
def f32sOf (b : List Byte) : List F32 := (chunksOf 4 b).map (fun x => BitVec.ofNat 32 (leNat x))

/-- What every member writes to its DST: data by rank. -/
def collectValue (c : Collect) (lenLog2 : Nat) (data : List (List Byte)) : List Byte :=
  let xs := data.map f32sOf
  let row := fun i => xs.map (fun x => x.getD i 0)
  let n := c.len / 4
  let win := fun (beats : F32 → F32 → Bool) =>
    (List.range n).map (fun i => (pickWinner beats ((row i).zipIdx.map (fun e => (e.2, e.1)))).getD (0, 0))
  let both := fun (ws : List (Nat × F32)) => f32Bytes (ws.map (·.2)) ++ ws.flatMap (fun w => natLe 4 w.1)
  match c.op with
  | 1 => f32Bytes ((List.range n).map (fun i => octetTree f32Add (fun l => laneKeep (2 ^ lenLog2) (laneOf l (row i)))))
  | 2 => both (win maxBeats)
  | 3 => both (win minBeats)
  | _ => data.flatten

/-- Bytes that a member writes to its DST: the values, and for MAX and MIN the winning ranks behind them. -/
def Collect.written (c : Collect) : Nat :=
  match c.op with
  | 2 | 3 => 2 * c.len
  | 4 => c.members.length * c.len
  | _ => c.len

/-- Members whose data a COLLECT needs. -/
def Collect.sources (c : Collect) : List Nat := if c.op = 0 then [c.root] else c.members

/-! ## Progress -/

/-- A member of the set has written its DST; with the last one the record completes. -/
def memberDone (w n member : Nat) (s : State) : State :=
  match s.collect w n with
  | none => s
  | some c =>
    let c := { c with done := sinsert member c.done }
    if c.members.all c.done.contains then
      complete c.answer.1 c.answer.2 { done (collectResult c 0xFFFFFFFF) with flags := if c.raw then flagRaw else 0 } (dropCollect w n s)
    else putCollect c s

/-- This module writes its DST once it has the data of every source and no slice keeps a bank pair of it closed (R142), and says so to the
stem. -/
def finishCollect (w n : Nat) (s : State) : State :=
  match s.collect w n with
  | none => s
  | some c =>
    let me := s.vine.member
    let ready := c.sources.all (fun m => c.got.any (fun g => g.1 == m))
    if c.members.isEmpty || !c.members.contains me || c.done.contains me || !ready || s.closedIn c.dst c.written then s else
    let data := c.sources.map (fun m => ((c.got.find? (fun g => g.1 == m)).map (·.2)).getD [])
    let (ok, s) := writeMem 7 c.dst (collectValue c s.press.lenLog2 data) s
    if !ok then failCollect c (ans 0x0306 (s.stackOf c.dst)) me s
    else if s.follows then vineSend 0x40 s.vine.stem [w, n] [] (dropCollect w n s)
    else memberDone w n me s

/-- The first line of a range that lies in a STOPPED stack and has no mirror (R359). -/
def State.stoppedLine (s : State) (a n : Nat) : Option Nat :=
  ((List.range (n / 64)).map (fun i => a + 64 * i)).find? (fun x => s.stopped x && (s.mirrorPair x).isNone)

/-- This module's SRC goes to the other members of the set, once no slice keeps a bank pair of it closed (R142). -/
def contribute (c : Collect) (errs : List SymErr) (s : State) : State :=
  let me := s.vine.member
  if !c.sources.contains me || s.closedIn c.src c.len then s else
  match s.stoppedLine c.src c.len with
  | some x => failCollect c (ans 0x0306 (s.stackOf x)) me s
  | none =>
    let (o, s) := moduleRead (plainReader 7) c.src c.len (addErrs errs s)
    match o.bad with
    | some b => failCollect c (eccUncorrected (s.stackOf (32 * b))) me s
    | none =>
      let raw := c.members.any (· != me) && (chunksOf segmentBytes o.bytes).any (fun d => s.vineMode 0x40 [c.w, c.n] d == 0)
      let s := vineSendAll 0x40 c.members [c.w, c.n] o.bytes s
      match s.collect c.w c.n with
      | some c => putCollect { c with got := c.got ++ [(me, o.bytes)], raw := raw } s
      | none => s

/-- The COLLECTs that a slice kept from their SRC or DST go on. -/
def resumeCollects (s : State) : State :=
  s.vine.collects.foldl (fun s c => finishCollect c.w c.n
    (if c.got.any (fun g => g.1 == s.vine.member) then s else contribute c [] s)) s

/-- A slice has ended, or the pips of a stack have stopped: what waited for its bank pairs goes on (R142). -/
def serveWaiting (s : State) : State := resumeCollects (serveHeld s)

/-- A COLLECT begins at this module; data that came before it is kept. -/
def beginCollect (c : Collect) (errs : List SymErr) (s : State) : State :=
  let early := ((s.collect c.w c.n).map (·.got)).getD []
  finishCollect c.w c.n (contribute c errs (putCollect { c with got := early } s))

/-- COLLECT at the stem, or at a module in no group. -/
def collect (errs : List SymErr) (w : Nat) (t : Taken) (s : State) : State :=
  checked w t.n (s.collectChecks t) (fun s =>
    let c := collectOf w t s
    let s := vineSendAll 0x10 c.members [] (t.bytes ++ natLe 1 c.w ++ natLe 4 c.n) (startRecord w t.n s)
    beginCollect c errs s) s

/-- Data of a COLLECT arrives from a member; at the stem, an empty hand-off says that the member has written its DST. -/
def bulkArrive (w n src : Nat) (data : List Byte) (s : State) : State :=
  if data.isEmpty then memberDone w n src s else
  let c := (s.collect w n).getD
    { w := w, n := n, answer := (16, 0), op := 0, members := [], root := 0, src := 0, dst := 0, len := 0,
      coding := 0, raw := false, got := [], done := [], stopped := none }
  finishCollect w n (putCollect { c with got := c.got ++ [(src, data)] } s)

/-- Runs a COLLECT of an operation: a stem in DOZE or deeper starts none (R410). -/
def onCollect (op w n : Nat) (errs : List SymErr) (s : State) : State :=
  onRecord 0x62 w n (fun t => t.at 0x20 1 == op && s.workStarts) (collect errs) s

/-- COLLECT with OP BROADCAST (R357). -/
def execCollectBroadcast (w : Fin 16) (n : U32) (errs : List SymErr) (s : State) : Host.Outcome State Fault Refusal :=
  .next (onCollect 0 w.val n.toNat errs s)

/-- COLLECT with OP SUM (R357). -/
def execCollectSum (w : Fin 16) (n : U32) (errs : List SymErr) (s : State) : Host.Outcome State Fault Refusal :=
  .next (onCollect 1 w.val n.toNat errs s)

/-- COLLECT with OP MAX (R357). -/
def execCollectMax (w : Fin 16) (n : U32) (errs : List SymErr) (s : State) : Host.Outcome State Fault Refusal :=
  .next (onCollect 2 w.val n.toNat errs s)

/-- COLLECT with OP MIN (R357). -/
def execCollectMin (w : Fin 16) (n : U32) (errs : List SymErr) (s : State) : Host.Outcome State Fault Refusal :=
  .next (onCollect 3 w.val n.toNat errs s)

/-- COLLECT with OP GATHER (R357). -/
def execCollectGather (w : Fin 16) (n : U32) (errs : List SymErr) (s : State) : Host.Outcome State Fault Refusal :=
  .next (onCollect 4 w.val n.toNat errs s)

end Sys2Proof.Machine
end

