-- ==== Sys2Proof/Machine/PipRuns.lean ====
section
/-! DEFINITION. Pip programs and runs: PIP_LOAD, PIP_RUN, PIP_STATUS, slices, the rebuild of a run's ledger entries, and what heat does
to runs (spec 06, R137 to R151). -/

namespace Sys2Proof.Machine

/-! ## Programs (R137 to R139) -/

/-- What an operation uses: its element formats, RD, RA, RB, whether it names plot rows (COUNT, INC), and its IMM bits. -/
structure OpForm where
  fmts : List Nat
  rd : Bool
  ra : Bool
  rb : Bool
  rows : Bool
  imm : Nat
  deriving DecidableEq, Repr

/-- The table of operations (R138). -/
def opForm (op : Nat) : Option OpForm :=
  let f := fun (fmts : List Nat) (rd ra rb rows : Bool) (imm : Nat) =>
    some ({ fmts := fmts, rd := rd, ra := ra, rb := rb, rows := rows, imm := imm } : OpForm)
  match op with
  | 0x00 => f [0] false false false false 0
  | 0x01 => f [0] true false false false 0x7FFF
  | 0x02 => f [0] false false false false 0xFFFF
  | 0x03 => f [0] false false false false 0xFF
  | 0x08 => f [0] true true false true 0
  | 0x09 => f [0] true false false true 0xFFFFFFFF
  | 0x0A | 0x0B | 0x0C => f [0] true true true true 0
  | 0x0D => f [0] true true false true 0
  | 0x10 | 0x11 => f [0, 1] true true true true 0
  | 0x12 => f [0, 1] true true false true 0xFFFFFFFF
  | 0x18 => f [0, 1] false true false true 1
  | 0x19 => f [0, 1] true true true true 0xFFFFFFFF
  | 0x20 => f [2, 3, 4, 5, 6] false true false true 0xFFFFFF3F
  | 0x21 => f [0] false false false false 0
  | 0x28 => f [0] false false false false 0xFFFF
  | _ => none

/-- Instruction w, to stand at store index x, passes R139. -/
def wordOk (x w : Nat) : Bool :=
  match opForm (iOp w) with
  | none => false
  | some f =>
    f.fmts.contains (iFmt w) && (f.rd || iRd w == 0) && (f.ra || iRa w == 0) && (f.rb || iRb w == 0) &&
    (f.rows || (!iInc w && bits w 32 8 == 0)) && bits w 40 5 == 0 && Nat.land (iImm w) f.imm == iImm w &&
    (iOp w != 3 || decide (64 ≤ x - bits (iImm w) 0 8))

/-- The words of a store from an entry to its first END; none when no END lies at or below instruction 255. -/
def programOf (store : Table Nat) (entry : Nat) : Option (List Nat) :=
  let ws := (List.range (256 - entry)).map (fun i => tget 0 store (entry + i))
  match ws.findIdx? (fun w => iOp w == 0) with
  | some i => some (ws.take i)
  | none => none

/-! ## Which pips a record names -/

/-- Two ranges of pips overlap. -/
def pipsMeet (f n g m : Nat) : Bool := overlaps f n g m

/-- A record taken earlier and not yet begun, of one of the opcodes, names a pip of the same stack that t names. -/
def State.earlierPips (s : State) (t : Taken) (ops : List Nat) : Bool :=
  s.records.any (fun r =>
    let u := r.2
    ops.contains u.opcode && !u.started && decide (u.order < t.order) && u.at 0x20 1 == t.at 0x20 1 &&
    pipsMeet (u.at 0x22 2) (u.at 0x24 2) (t.at 0x22 2) (t.at 0x24 2))

/-- A run that is not COMPLETE holds or names a pip of a range (R145). -/
def PipStack.pipsBusy (v : PipStack) (first count : Nat) : Bool :=
  (v.runs.any (fun e => (e.2.state == 2 || e.2.state == 3) && pipsMeet e.2.pipFirst e.2.pipCount first count)) ||
  v.held.any (fun e => pipsMeet e.2.pipFirst e.2.pipCount first count)

/-! ## PIP_LOAD (R139, R145) -/

/-- The image, checked whole, enters the stores of the named pips. -/
def pipLoad (src : Src) (w : Nat) (t : Taken) (s : State) : State :=
  let k := t.at 0x20 1
  let x := t.at 0x26 1
  match readSource (t.at 0x2A 1 == 1) (t.at 0x30 8) (8 * t.at 0x28 2) src s with
  | (.waiting, _) => s
  | (.poison a, s) => complete w t.n a s
  | (.bytes d, s) =>
    let ws := (chunksOf 8 d).map leNat
    match ws.zipIdx.find? (fun e => !wordOk (x + e.2) e.1) with
    | some e => complete w t.n (badField (0x80000000 + e.2)) s
    | none =>
      complete w t.n (done []) ((List.range (t.at 0x24 2)).foldl (fun s i =>
        s.modPipUnit k (t.at 0x22 2 + i) (fun u => { u with store := tsets 0 u.store x ws })) s)

/-- PIP_LOAD (R139). It waits for runs of its pips, and for earlier records that name them. -/
def execPipLoad (w : Fin 16) (n : U32) (src : Src) (s : State) : Host.Outcome State Fault Refusal :=
  .next (onRecord 0x50 w.val n.toNat
    (fun t => !(s.pip (t.at 0x20 1)).pipsBusy (t.at 0x22 2) (t.at 0x24 2) && !s.earlierPips t [0x50, 0x51]) (pipLoad src) s)

/-! ## PIP_RUN and PIP_STATUS (R147, R148) -/

/-- The answer of a run on stack k: the highest fault decides (R148). -/
def runAnswer (k : Nat) (r : Run) : Answer :=
  let a := if bit r.faults 2 then ans 0x0306 (stackOfPip k) else if bit r.faults 1 then ans 0x0302 0xFFFFFFFF
    else if bit r.faults 0 then ans 0x0307 (stackOfPip k) else ans 0 0
  { a with result := runResult r }

/-- The field checks of R147 that need the programs of the named pips. -/
def State.programChecks (s : State) (t : Taken) : List (Bool × Answer) :=
  let k := t.at 0x20 1
  let ps := (List.range (t.at 0x24 2)).map (fun i => programOf (s.pipUnit k (t.at 0x22 2 + i)).store (t.at 0x26 1))
  let uses := fun op => ps.any (fun p => (p.getD []).any (fun w => iOp w == op))
  [(ps.all Option.isSome, badField 0x26), (!uses 0x28 || t.at 0x34 2 != 0, badField 0x34),
   (!uses 0x20 || t.at 0x58 4 != 0, badField 0x58)]

/-- The run that a PIP_RUN describes, HELD. -/
def runOfRecord (w : Nat) (t : Taken) : Run :=
  { Run.free with
    state := 1, pipFirst := t.at 0x22 2, pipCount := t.at 0x24 2, entry := t.at 0x26 1, aInit := t.at 0x28 8,
    wrowFirst := t.at 0x30 2, wrowCount := t.at 0x32 2, gatherSlots := t.at 0x34 2, sliceLimit := t.at 0x38 4,
    outBase := t.at 0x40 8, outRows := t.at 0x48 4, actSrc := t.at 0x50 8, actBytes := t.at 0x58 4, tenant := t.tenant,
    origin := some (w, t.n), order := t.order }

/-- A run joins the HELD runs in the order of taking (R144). -/
def holdRun (i : Nat) (r : Run) : List (Nat × Run) → List (Nat × Run)
  | [] => [(i, r)]
  | h :: hs => if r.order < h.2.order then (i, r) :: h :: hs else h :: holdRun i r hs

/-- PIP_RUN's effect: the run is HELD; on a stack that is HOT or STOPPED it ends with THERMAL_HOLD (R151). -/
def pipRun (w : Nat) (t : Taken) (s : State) : State :=
  let k := t.at 0x20 1
  checked w t.n ((s.programChecks t ++ [((s.stack (stackOfPip k)).thermal == 0, ans 0x0305 (stackOfPip k))]).map
      (fun c => (c.1, { c.2 with result := runResult Run.free })))
    (fun s => startRecord w t.n (s.modPip k (fun v => { v with held := holdRun (t.at 0x21 1) (runOfRecord w t) v.held }))) s

/-- PIP_RUN (R147). It waits for an earlier PIP_LOAD that names one of its pips (R145). -/
def execPipRun (w : Fin 16) (n : U32) (s : State) : Host.Outcome State Fault Refusal :=
  .next (onRecord 0x51 w.val n.toNat (fun t => !s.earlierPips t [0x50]) pipRun s)

/-- PIP_STATUS answers with the run's state at the moment its record was taken. -/
def pipStatus (w : Nat) (t : Taken) (s : State) : State := complete w t.n (done (padTo 20 t.shown)) s

/-- PIP_STATUS (R147). -/
def execPipStatus (w : Fin 16) (n : U32) (s : State) : Host.Outcome State Fault Refusal :=
  .next (onOp 0x52 w.val n.toNat pipStatus s)

/-! ## Write ranges (R112, R117, R126, R146) -/

/-- The 4 KiB blocks of a run's write range on stack k. -/
def Run.blocks (r : Run) (k : Nat) : List Nat :=
  (List.range r.pipCount).flatMap (fun j => (List.range (r.wrowCount / 2)).map (fun i =>
    plotRow k (r.pipFirst + j) (r.wrowFirst + 2 * i) / 4096))

/-- The region granules of a run's write range on stack k. -/
def Run.granules (r : Run) (k : Nat) : List Nat :=
  (List.range r.pipCount).flatMap (fun j => (List.range (r.wrowCount / 32)).map (fun i =>
    plotRow k (r.pipFirst + j) (r.wrowFirst + 32 * i) / 65536))

/-- A granule lies in a mirror pair. -/
def State.granuleMirrored (s : State) (g : Nat) : Bool :=
  s.mem.mirrors.any (fun p => overlaps (65536 * g) 65536 p.primary p.length || overlaps (65536 * g) 65536 p.mirror p.length)

/-- Ledger entries of blocks set OPEN. -/
def openBlocks (bs : List Nat) (s : State) : State :=
  bs.foldl (fun s b => forgetChecked b (writeEntry b { s.entryOf b with isOpen := true } s)) s

/-- Ledger entries of blocks computed anew from their data and set LIVE (R112). -/
def rebuildBlocks (bs : List Nat) (s : State) : State :=
  bs.foldl (fun s b => forgetChecked b (writeEntry b { isOpen := false, crc := crc32c (s.blockData b) } s)) s

/-- A range meets the region granules that a run names (R117, R146): those of all plots of its pip set, of its row results and of its
stage image. -/
def Run.names (r : Run) (k a n : Nat) : Bool :=
  let near := fun (b m : Nat) => decide (0 < m) && overlaps (b / 65536 * 65536) (ceilDiv (b % 65536 + m) 65536 * 65536) a n
  near (plotRow k r.pipFirst 0) (r.pipCount * 0x4000000) || near r.outBase (32 * r.outRows) || near r.actSrc r.actBytes

/-- A PIP_RUN taken before a record, and not completed, names a granule of a range (R117). -/
def State.runNames (s : State) (t : Taken) (a n : Nat) : Bool :=
  s.records.any (fun r =>
    r.2.opcode == 0x51 && decide (r.2.order < t.order) && (runOfRecord r.1 r.2).names (r.2.at 0x20 1) a n)

/-- A REGION_SET or REGION_SEAL taken before a run, and not completed, names a granule of it: the run is held (R117). -/
def State.regionNames (s : State) (k : Nat) (r : Run) : Bool :=
  s.records.any (fun x =>
    let u := x.2
    (u.opcode == 0x12 || u.opcode == 0x13) && decide (u.order < r.order) &&
    (r.names k (u.at 0x20 8) (u.at 0x28 8) || (u.at 0x38 8 != 0 && r.names k (u.at 0x38 8) (u.at 0x28 8))))

/-! ## Slices (R140, R141, R144) -/

/-- Gatherer slots that the runs of a stack have reserved. -/
def PipStack.slotsHeld (v : PipStack) : Nat :=
  ((v.runs.filter (fun e => e.2.state == 2 || e.2.state == 3)).map (·.2.gatherSlots)).sum

/-- A HELD run can be admitted: its pips are free, also of runs HELD longer (R145), no region record before it names its granules (R117),
and credit, the stage and gatherer slots are free (R144). -/
def State.admits (s : State) (k : Nat) (r : Run) : Bool :=
  let v := s.pip k
  !(v.runs.any (fun e => (e.2.state == 2 || e.2.state == 3) && pipsMeet e.2.pipFirst e.2.pipCount r.pipFirst r.pipCount)) &&
  !(v.held.any (fun e => decide (e.2.order < r.order) && pipsMeet e.2.pipFirst e.2.pipCount r.pipFirst r.pipCount)) &&
  !s.regionNames k r && decide (v.pipsHeld + r.pipCount ≤ s.pipEffective k) && (r.actBytes == 0 || v.stageOwner.isNone) &&
  decide (v.slotsHeld + r.gatherSlots ≤ 8192)

/-- The state checks made at admission (R147). -/
def State.admitChecks (s : State) (k i : Nat) (r : Run) : Option Answer :=
  let slot := tget Run.free (s.pip k).runs i
  let st := (s.stack (stackOfPip k)).state
  if (r.granules k).any s.granuleMirrored then some (badState 1)
  else if slot.state = 2 || slot.state = 3 then some (badState 2)
  else if (r.granules k).any (fun g => !s.mem.compute.contains g) then some (badState 3)
  else if st ≠ 1 && st ≠ 2 then some (badState 4)
  else none

/-- A run's record completes. -/
def endRunRecord (r : Run) (a : Answer) (s : State) : State :=
  match r.origin with
  | some (w, n) => complete w n a s
  | none => s

/-- Pip p begins a run: A0 to A3 from A_INIT, A4 to A7 and L at 0. Accumulators and statistics have been lost with the pip's last
run (R132): they hold free values. -/
def startPip (k : Nat) (r : Run) (j : Nat) (s : State) : State :=
  let c := s.freeCtr
  let v := fun (i : Nat) => (BitVec.ofNat 32 (Config.freeValue (c + i)) : F32)
  let vs := fun (lo n : Nat) => tsets 0 [] 0 ((List.range n).map (fun i => v (lo + i)))
  let s := { s with freeCtr := c + 90 }
  s.modPipUnit k (r.pipFirst + j) (fun u =>
    { Pip.reset with
      store := u.store, pc := r.entry, a := tsets 0 [] 0 ((List.range 4).map (fun i => bits r.aInit (16 * i) 15)),
      acc := vs 0 64, cnt := vs 64 8, mean := vs 72 8, m2 := vs 80 8, rowMean := v 88, rowVar := v 89,
      bsn := Config.firstBsn % 65536 })

/-- A run enters RUNNING in its slot: its write range opens, and its stage image is in place. -/
def startRun (k i : Nat) (r : Run) (image : List Byte) (s : State) : State :=
  let s := openBlocks (r.blocks k) s
  let s := (List.range r.pipCount).foldl (fun s j => startPip k r j s) s
  s.modPip k (fun v => { v with
    stepRuns := 0
    runs := tset Run.free v.runs i { r with state := 2 }
    stageOwner := if r.actBytes = 0 then v.stageOwner else some i
    stage := if r.actBytes = 0 then v.stage else tsets 0 v.stage 0 image
    colScale := if r.actBytes = 0 then v.colScale else []
    colOffset := if r.actBytes = 0 then v.colOffset else [] })

/-- A HELD run's turn at a slice start: admitted, turned away by a state check or a poisoned stage image, or left HELD. -/
def admitRun (k : Nat) (h : Nat × Run) (s : State) : State :=
  let r := h.2
  if !s.admits k r then s
  else
    let s := s.modPip k (fun v => { v with held := v.held.filter (fun e => e.2.origin != r.origin) })
    match s.admitChecks k h.1 r with
    | some a => endRunRecord r { a with result := runResult r } s
    | none =>
      let (o, s) := if r.actBytes = 0 then (({ bytes := [], bad := none } : ReadOut), s)
        else moduleRead (plainReader 6) r.actSrc r.actBytes s
      match o.bad with
      | some b => endRunRecord r { eccUncorrected (s.stackOf (32 * b)) with result := runResult r } s
      | none => startRun k h.1 r o.bytes s

/-- Runs may be admitted on stack k: it is COOL, and new work starts (R151, R408). -/
def State.admitting (s : State) (k : Nat) : Bool := s.workStarts && (s.stack (stackOfPip k)).thermal == 0

/-- A slice starts (R140, R141): refreshes that fell due have been issued, waiting runs are admitted, and each running run counts the
slice. Without a running run no slice starts. -/
def sliceStart (k : Nat) (s : State) : State :=
  let st := s.stack (stackOfPip k)
  if (s.pip k).inSlice || st.thermal = 4 || st.powerSr || !s.unitUp 6 k then s
  else
    let s := if s.admitting k then (s.pip k).held.foldl (fun s h => admitRun k h s) s else s
    if (s.pip k).runs.any (fun e => e.2.state == 2) then
      s.modPip k (fun v => { v with
        inSlice := true, refreshDue := 0, sliceNo := v.sliceNo + 1, sliceRows := rowsOf v.sliceCyc, credit := s.pipEffective k,
        runs := v.runs.map (fun e => if e.2.state = 2 then (e.1, { e.2 with slices := satAdd 32 e.2.slices 1 }) else e) })
    else s

/-- A slice ends (R140, R142, R148): a run at its SLICE_LIMIT stops, the refreshes that fell due are issued (R124), and the accesses that
waited are served. -/
def sliceEnd (k : Nat) (s : State) : State :=
  if !(s.pip k).inSlice then s else
  serveWaiting (s.modPip k (fun v => { v with
    inSlice := false, refreshDue := 0,
    runs := v.runs.map (fun e =>
      if e.2.state = 2 && decide (e.2.sliceLimit ≤ e.2.slices) then (e.1, { e.2 with state := 3, faults := setBit e.2.faults 3 true })
      else e) }))

/-- PIP_SLICE_START (R144). -/
def execPipSliceStart (k : Fin 8) (s : State) : Host.Outcome State Fault Refusal := .next (whenReleased (sliceStart k.val) s)

/-! ## The end of a run (R112, R143, R151) -/

/-- The state of a run's pips is lost; their instruction stores stay (R132). -/
def dropPips (k : Nat) (r : Run) (s : State) : State :=
  (List.range r.pipCount).foldl (fun s j => s.modPipUnit k (r.pipFirst + j) (fun u => { Pip.reset with store := u.store })) s

/-- What a run leaves behind when it ends: its pips' state, its gatherer slots and the stage. -/
def clearRun (k i : Nat) (r : Run) (s : State) : State :=
  let s := dropPips k r s
  s.modPip k (fun v => { v with
    gather := v.gather.filter (fun g => g.run != i), stageOwner := if v.stageOwner = some i then none else v.stageOwner })

/-- The rebuild of run slot i: it waits while the stack is in self-refresh. -/
def runRebuild (k i : Nat) (s : State) : State :=
  let r := tget Run.free (s.pip k).runs i
  let st := s.stack (stackOfPip k)
  if r.state ≠ 3 || st.thermal = 4 || st.powerSr then s
  else
    let s := clearRun k i r (rebuildBlocks (r.blocks k) s)
    let r := { r with state := 4 }
    let s := s.modRun k i (fun _ => { r with replied := true })
    if r.replied then s else endRunRecord r (runAnswer k r) s

/-- PIP_RUN_REBUILD (R143). -/
def execPipRunRebuild (k : Fin 8) (slot : Fin 16) (s : State) : Host.Outcome State Fault Refusal :=
  .next (whenReleased (runRebuild k.val slot.val) s)

/-- The stack has become HOT: host runs still HELD end with THERMAL_HOLD (R151). -/
def holdRuns (k : Nat) (s : State) : State :=
  let hs := (s.pip k).held
  hs.foldl (fun s h => endRunRecord h.2 { ans 0x0305 (stackOfPip k) with result := runResult h.2 } s)
    (s.modPip k (fun v => { v with held := [] }))

/-- Runs of stack k that have been admitted end with an answer; their write ranges wait for the rebuild. -/
def endRuns (k : Nat) (fault : Option Nat) (a : Run → Answer) (s : State) : State :=
  let live := (s.pip k).runs.filter (fun e => e.2.state == 2 || e.2.state == 3)
  live.foldl (fun s e =>
    let r := { e.2 with state := 3, faults := match fault with | some b => setBit e.2.faults b true | none => e.2.faults }
    let s := s.modRun k e.1 (fun _ => { r with replied := true })
    let s := dropPips k r (s.modPip k (fun v => { v with gather := v.gather.filter (fun g => g.run != e.1) }))
    if r.replied then s else endRunRecord r (a r) s) (serveWaiting (s.modPip k (fun v => { v with inSlice := false })))

/-- The stack has become STOPPED: its admitted runs reply at once with THERMAL_STOP (R151). -/
def stopRuns (k : Nat) (s : State) : State := endRuns k (some 2) (runAnswer k) (holdRuns k s)

end Sys2Proof.Machine
end

