-- ==== Sys2Proof/Machine/Heat.lean ====
section
/-! DEFINITION. Heat and refresh: stack and die temperatures, their step-downs, refreshes, the power cap and the stage monitors (spec 02,
05, 06, 19). -/

namespace Sys2Proof.Machine

/-! ## Stacks (R123, R124, R150, R151, R417, R418) -/

/-- The thermal row of a stack at a temperature: 0 COOL, 1 to 3 HOT, 4 STOPPED. -/
def thermalRow (pip : Bool) (temp : Nat) : Nat :=
  if 95 ≤ temp then 4 else if 93 ≤ temp && pip then 3 else if 90 ≤ temp then 2 else if 85 ≤ temp then 1 else 0

/-- The temperature at which a thermal row begins. -/
def rowStart (row : Nat) : Nat := (([0, 85, 90, 93, 95] : List Nat)[row]?).getD 0

/-- The refresh row of a temperature (R123): 0 ×1, 1 ×2, 2 ×4, 3 forced self-refresh; busy doubles it below ×4. -/
def refreshRow (temp : Nat) (busy : Bool) : Nat :=
  if 95 ≤ temp then 3 else if 85 ≤ temp then 2 else if 75 ≤ temp then (if busy then 2 else 1) else b2n busy

/-- The temperature at which a refresh row begins. -/
def refreshStart (row : Nat) : Nat := (([0, 75, 85, 95] : List Nat)[row]?).getD 0

/-- Whether a pip stack used more than 75 % of its credit in the last millisecond: the measure behind USE_1MS, a free value.
(DEDUCED, log entry 28) -/
def pipBusy (i : Nat) (s : State) : Bool × State :=
  if isPipStack i then let (x, s) := s.free; (decide (x % 513 * 4 > 3 * s.pipEffective (pipOfStack i)), s) else (false, s)

/-- A temperature has stayed 3 °C below a threshold since a tick. -/
def coolFrom (temp start : Nat) (since : Option Nat) (now : Nat) : Option Nat :=
  if temp + 3 ≤ start then some (since.getD now) else none

/-- The table of the ticks since which a temperature has been 3 °C below each row's threshold. -/
def coolRows (rows : List Nat) (start : Nat → Nat) (temp now : Nat) (t : Table (Option Nat)) : Table (Option Nat) :=
  rows.foldl (fun t r => tset none t r (coolFrom temp (start r) (tget none t r) now)) t

/-- The row that a step down leads to: the highest of the rows, from the present one down, that the temperature is in or has not stayed 3 °C
below for 10 ms (R123, R150, R416). -/
def coolTo (rows : List Nat) (own old now : Nat) (t : Table (Option Nat)) : Nat :=
  let past := fun (r : Nat) => match tget none t r with | some a => decide (a + msTicks 10 ≤ now) | none => false
  ((rows.filter (fun r => decide (r ≤ old))).find? (fun r => decide (r ≤ own) || !past r)).getD 0

/-- The thermal rows of a stack, highest first. -/
def thermalRows (pip : Bool) : List Nat := if pip then [4, 3, 2, 1] else [4, 2, 1]

/-- A HOT stack is reported (R151, R417): a plain stack's at once, a pip stack's at the module's next step boundary. A cascade member
reports it by R358. (DEDUCED, log entry 43) -/
def reportHot (i temp : Nat) (s : State) : State :=
  if s.inCascade then
    let s := logErr 0x30 9 i 0 temp s
    s.setVine { s.vine with coolDue := true }
  else if isPipStack i then s.modStack i (fun v => { v with hotDue := some temp })
  else msix 17 (logErr 0x30 9 i 0 temp s)

/-- A pip stack enters HOT or STOPPED: PIP_THERM counts it (R152). -/
def countHot (i : Nat) (s : State) : State :=
  if isPipStack i then s.modPip (pipOfStack i) (fun v => { v with hotCnt := satAdd 16 v.hotCnt 1 }) else s

/-- A row of the group's model on stack i has no mirror, or the stack holds KV pages, which have none (R359). -/
def State.unmirrored (s : State) (i : Nat) : Bool :=
  !isPipStack i || (s.model s.vine.model).map.any (fun e => e.stack == i &&
    !s.mem.mirrors.any (fun p => decide (p.primary ≤ e.codeDpa) && decide (e.codeDpa < p.primary + p.length)))

/-- A member tells the stem that a stack is STOPPED (R359). -/
def reportStop (i : Nat) (s : State) : State :=
  if s.vine.state = 2 && s.unmirrored i then vineSend 0x32 s.vine.stem [i] [] s else s

/-- A stack enters a higher thermal row (R150, R151, R417, R418). (DEDUCED, log entry 43) -/
def heatUp (i row : Nat) (s : State) : State :=
  let old := (s.stack i).thermal
  let temp := (s.stack i).temp
  let s := s.modStack i (fun v => { v with thermal := row, riseTo := 0 })
  let s := if old = 0 || row = 4 then countHot i s else s
  let s := if old = 0 && row < 4 then reportHot i temp s else s
  let s := if row = 4 then reportStop i (logErr 0x31 9 i 0 temp s) else s
  if !isPipStack i then s
  else if row = 4 then stopRuns (pipOfStack i) s
  else if old = 0 then holdRuns (pipOfStack i) s else s

/-- STACK_TEMP_SAMPLE: a rise takes effect at once, and on a pip stack in a slice at the next one, forced self-refresh apart (R150). While
training runs, a sample comes from sensors that answer (R130). -/
def stackTemp (i temp : Nat) (s : State) : State :=
  let v := s.stack i
  if !v.sensors && decide (s.boot.stage ≠ 5) then s else
  let temp := min temp 255
  let (busy, s) := pipBusy i s
  let row := thermalRow (isPipStack i) temp
  let mult := refreshRow temp busy
  let s := s.modStack i (fun v => { v with
    temp := temp, refresh := max v.refresh mult,
    cool := coolRows (thermalRows (isPipStack i)) rowStart temp s.now v.cool,
    refreshCool := coolRows [3, 2, 1] refreshStart temp s.now v.refreshCool })
  if row ≤ v.thermal then s
  else if row < 4 && isPipStack i && (s.pip (pipOfStack i)).inSlice then s.modStack i (fun v => { v with riseTo := max v.riseTo row })
  else heatUp i row s

/-- HBM sensors and refresh are live: from the start of MEMORY on (R130). -/
def State.sensing (s : State) : Bool := decide (5 ≤ s.boot.stage) && decide (s.boot.stage ≤ 7)

/-- STACK_TEMP_SAMPLE (R150, R417). -/
def execStackTempSample (s : Fin 16) (temp : Nat) (st : State) : Host.Outcome State Fault Refusal :=
  .next (if st.sensing then stackTemp s.val temp st else st)

/-- A rise that waited for the end of a slice takes effect (R150). -/
def riseNow (i : Nat) (s : State) : State :=
  let v := s.stack i
  if v.thermal < v.riseTo then heatUp i v.riseTo s else s.modStack i (fun v => { v with riseTo := 0 })

/-- PIP_SLICE_END (R140): a rise in temperature takes effect before the next slice. -/
def execPipSliceEnd (k : Fin 8) (s : State) : Host.Outcome State Fault Refusal :=
  .next (whenReleased (fun s => riseNow (stackOfPip k.val) (sliceEnd k.val s)) s)

/-- STACK_THERMAL_STEPDOWN: 10 ms below the present row's threshold, and at once past every lower row that has had its 10 ms; writes that
waited for a STOPPED stack land first (R418). -/
def thermalDown (i : Nat) (s : State) : State :=
  match (s.stack i).coolSince with
  | none => s
  | some t =>
    let s := s.advanceTo (t + msTicks 10)
    let old := (s.stack i).thermal
    let row := coolTo (thermalRows (isPipStack i)) (thermalRow (isPipStack i) (s.stack i).temp) old s.now (s.stack i).cool
    let s := s.modStack i (fun v => { v with thermal := row })
    let s := if old = 4 && row < 4 then landWaiting i s else s
    let s := if old = 4 && 0 < row && row < 4 then reportHot i (s.stack i).temp (countHot i s) else s
    if row = 0 && s.inCascade then s.setVine { s.vine with coolDue := true } else s

/-- STACK_THERMAL_STEPDOWN (R150, R417). -/
def execStackThermalStepdown (s : Fin 16) (st : State) : Host.Outcome State Fault Refusal :=
  .next (whenReleased (thermalDown s.val) st)

/-- REFRESH_STEPDOWN: 10 ms below the threshold of the multiple. -/
def refreshDown (i : Nat) (s : State) : State :=
  match (s.stack i).refreshSince with
  | none => s
  | some t =>
    let s := s.advanceTo (t + msTicks 10)
    let (busy, s) := pipBusy i s
    s.modStack i (fun v => { v with refresh := coolTo [3, 2, 1] (refreshRow v.temp busy) v.refresh s.now v.refreshCool })

/-- REFRESH_STEPDOWN (R123). -/
def execRefreshStepdown (s : Fin 16) (st : State) : Host.Outcome State Fault Refusal :=
  .next (whenReleased (refreshDown s.val) st)

/-- REFRESH_DUE: during a slice of a pip stack a refresh waits for the slice's end, at most four; at any other time it is issued. -/
def refreshDue (i : Nat) (s : State) : State :=
  if isPipStack i && (s.pip (pipOfStack i)).inSlice then
    s.modPip (pipOfStack i) (fun v => { v with refreshDue := min 4 (v.refreshDue + 1) })
  else s

/-- REFRESH_DUE (R124). -/
def execRefreshDue (s : Fin 16) (st : State) : Host.Outcome State Fault Refusal := .next (whenReleased (refreshDue s.val) st)

/-! ## The die (R416) -/

/-- The die state of a temperature: 0 NORMAL, 1 WARM, 2 HOT, 3 TRIP. -/
def dieRow (temp : Nat) : Nat := if 105 ≤ temp then 3 else if 100 ≤ temp then 2 else if 95 ≤ temp then 1 else 0

/-- The temperature at which a die state begins. -/
def dieStart (row : Nat) : Nat := (([0, 95, 100, 105] : List Nat)[row]?).getD 0

/-- MODULE_FATAL with a cause (R382): the module is FATAL; a trip during bring-up is also its failure code (R427). -/
def goFatal (cause : Nat) (s : State) : State :=
  let up := s.released
  let s := logErr 0x80 0 0 0 cause s
  serveWaiting (s.setBoot { s.boot with stage := 10, fail := if !up && cause = 3 then 8 else s.boot.fail })

/-- The thermal level moves one step of 25 mV, at most once a millisecond. (DEDUCED, log entry 43) -/
def thermalStep (w : Nat) (s : State) : State :=
  let v := s.wedge w
  let due := match v.steppedAt with | some t => decide (t + msTicks 1 ≤ s.now) | none => true
  let mv := if v.dieState = 2 then max 650 (v.thermalMv - 25) else if v.dieState = 0 then min 850 (v.thermalMv + 25) else v.thermalMv
  if !due || mv = v.thermalMv then s else s.modWedge w (fun v => { v with thermalMv := mv, steppedAt := some s.now })

/-- DIE_TEMP_SAMPLE: the hottest of the eight sensors of a wedge. -/
def dieTemp (w : Nat) (temps : List Nat) (s : State) : State :=
  let temp := min 255 ((temps.take 8).foldl max 0)
  let v := s.wedge w
  let row := dieRow temp
  if row = 3 then goFatal 3 (s.modWedge w (fun v => { v with temp := temp })) else
  let s := s.modWedge w (fun v => { v with
    temp := temp, dieState := max v.dieState row,
    cool := coolRows [3, 2, 1] dieStart temp s.now v.cool })
  thermalStep w (if v.dieState < row then msix 17 (logErr 0x32 0 0 0 temp s) else s)

/-- DIE_TEMP_SAMPLE (R416). -/
def execDieTempSample (w : Fin 4) (temps : List Nat) (s : State) : Host.Outcome State Fault Refusal :=
  .next (if s.boot.pg && decide (s.boot.stage ≤ 8) then dieTemp w.val temps s else s)

/-- DIE_THERMAL_STEPDOWN: 10 ms below the threshold. -/
def dieDown (w : Nat) (s : State) : State :=
  match (s.wedge w).coolSince with
  | none => s
  | some t =>
    let s := s.advanceTo (t + msTicks 10)
    thermalStep w (s.modWedge w (fun v => { v with dieState := coolTo [3, 2, 1] (dieRow v.temp) v.dieState s.now v.cool }))

/-- DIE_THERMAL_STEPDOWN (R416). -/
def execDieThermalStepdown (w : Fin 4) (s : State) : Host.Outcome State Fault Refusal := .next (whenReleased (dieDown w.val) s)

/-! ## The power cap (R414) and the stage monitors (R46) -/

/-- The cap level may move: a millisecond has passed since its last step. -/
def State.capDue (s : State) : Bool := match s.pwr.capSteppedAt with | some t => decide (t + msTicks 1 ≤ s.now) | none => true

/-- POWER_SAMPLE: one sample of the input power, in a window of a hundred. (DEDUCED, log entry 43) -/
def powerSample (watts : Nat) (s : State) : State :=
  let s := s.setPwr { s.pwr with
    samples := (watts :: s.pwr.samples).take 100, peakW := max s.pwr.peakW (min watts 65535), energy := s.pwr.energy + watts }
  let avg := s.avgWatts
  let s := s.setPwr { s.pwr with lowSince := if 100 * avg < 95 * s.pwr.watts then some (s.pwr.lowSince.getD s.now) else none }
  if s.pwr.watts < avg && s.capDue && 650 < s.pwr.capMv then
    s.setPwr { s.pwr with capMv := max 650 (s.pwr.capMv - 25), capSteppedAt := some s.now }
  else s

/-- POWER_SAMPLE (R414). -/
def execPowerSample (watts : Nat) (s : State) : Host.Outcome State Fault Refusal := .next (whenReleased (powerSample watts) s)

/-- CAP_STEP_UP: the average has stayed below 95 % of WATTS for 10 ms. -/
def capStepUp (s : State) : State :=
  match s.pwr.lowSince with
  | none => s
  | some t =>
    if 850 ≤ s.pwr.capMv then s else
    let s := s.advanceTo (max (t + msTicks 10) ((s.pwr.capSteppedAt.map (· + msTicks 1)).getD 0))
    s.setPwr { s.pwr with capMv := min 850 (s.pwr.capMv + 25), capSteppedAt := some s.now }

/-- CAP_STEP_UP (R414). -/
def execCapStepUp (s : State) : Host.Outcome State Fault Refusal := .next (whenReleased capStepUp s)

/-- POWER_CAP_UNMET: the average is above WATTS after 10 ms at the lowest cap level. -/
def capUnmet (s : State) : State :=
  if s.pwr.unmet || s.pwr.capMv ≠ 650 || s.avgWatts ≤ s.pwr.watts then s else
  let s := s.advanceTo ((s.pwr.capSteppedAt.getD 0) + msTicks 10)
  msix 17 (logErr 0x33 0 0 0 s.avgWatts (s.setPwr { s.pwr with unmet := true }))

/-- POWER_CAP_UNMET (R414). -/
def execPowerCapUnmet (s : State) : Host.Outcome State Fault Refusal := .next (whenReleased capUnmet s)

/-- Junction temperatures of R44's table. -/
def stageTemps : List Nat := [0, 25, 65, 85, 105]

/-- The largest stage times of R44's table in ps, by the core voltage in steps of 50 mV from 650 mV. -/
def stageTable : List (List Nat) :=
  [[632, 615, 580, 568, 563], [515, 505, 490, 485, 485], [420, 420, 420, 424, 428], [355, 359, 370, 377, 381], [316, 323, 340, 350, 357]]

/-- R44's bound at mv millivolts and temp degrees, as a fraction in ps: interpolated between the neighbouring points of the table. -/
def stageBound (mv temp : Nat) : Nat × Nat :=
  let i := min 3 ((mv - 650) / 50)
  let j := if temp < 25 then 0 else if temp < 65 then 1 else if temp < 85 then 2 else 3
  let t0 := stageTemps.getD j 0
  let t1 := stageTemps.getD (j + 1) 0
  let v := min 50 (mv - 650 - 50 * i)
  let t := min temp t1 - t0
  let at_ := fun x => (stageTable.getD x []).getD j 0 * (t1 - t0 - t) + (stageTable.getD x []).getD (j + 1) 0 * t
  (at_ i * (50 - v) + at_ (i + 1) * v, 50 * (t1 - t0))

/-- A stage time in whole ps that a monitor of wedge w can measure: from 0.92 of R44's bound at the wedge's rail and its sensors' last
temperature up to the bound. (DEDUCED, log entry 13) -/
def State.stageOk (s : State) (w ps : Nat) : Bool :=
  let (n, d) := stageBound (s.railMv w) (s.wedge w).temp
  decide (ps * d < n + d) && decide (92 * n < 100 * (ps + 1) * d)

/-- STAGE_MONITOR_MEASURE: one measurement of the eight monitors, two to a wedge, once the core rail is good. A wedge whose rail stands below
650 mV makes no handshakes and measures nothing (R46). -/
def stageMeasure (ps : List Nat) (s : State) : State :=
  let ms := (List.range 8).filter (fun i => decide (650 ≤ s.railMv (i / 2)))
  let m := (ms.map (fun i => ps.getD i 0)).foldl max 0
  if !s.boot.pg || !ms.all (fun i => s.stageOk (i / 2) (ps.getD i 0)) then s
  else s.setPwr { s.pwr with maxPs := max s.pwr.maxPs m, curPs := m }

/-- STAGE_MONITOR_MEASURE (R46). -/
def execStageMonitorMeasure (ps : List Nat) (s : State) : Host.Outcome State Fault Refusal := .next (stageMeasure ps s)

end Sys2Proof.Machine
end

