-- ==== Sys2Proof/Machine/Fences.lean ====
section
/-! DEFINITION. Fences of the cascade group: requests, answers, and what a fence waits for (R72, R94, R355). -/

namespace Sys2Proof.Machine

/-- A CASCADE-scope FENCE record. -/
def Taken.isGroupFence (t : Taken) : Bool := t.opcode == 1 && t.at 0x20 1 == 2

/-- Records taken and not completed, as windows and orders of taking. In a cascade, FENCE records of CASCADE scope are not waited for:
the stem handles them one by one (R355). -/
def State.openRecords (s : State) : List (Nat × Nat) :=
  (s.records.filter (fun r => !(s.inCascade && r.2.isGroupFence))).map (fun r => (r.1, r.2.order))

/-- Whether a record is still open. -/
def State.isOpen (s : State) (r : Nat × Nat) : Bool := s.openRecords.contains r

/-- Every record taken before order has completed, in window w or in every window. -/
def State.fencePassed (s : State) (w order : Nat) (all : Bool) : Bool :=
  s.openRecords.all (fun r => decide (order ≤ r.2) || (!all && r.1 % 16 != w % 16))

/-- A fence's number at the stem: the taking order of its record, and the member that took it. -/
def groupFenceId (order member : Nat) : Nat := order * 4096 + member

/-- The fence of the group ends at this module: its windows go on, and its own FENCE record may complete. -/
def fenceOver (id : Nat) (s : State) : State :=
  let s := s.setVine { s.vine with fenceWaits := s.vine.fenceWaits.filter (fun f => f.fence != id) }
  if id % 4096 ≠ s.vine.member then s else
  let ended := mapIf (fun (t : Taken) => t.isGroupFence && t.order == id / 4096) (fun t => { t with progress := 1 })
  (List.range 16).foldl (fun s w => s.modWin w (fun v => { v with taken := ended v.taken, orphans := ended v.orphans })) s

/-- The module is asked for a fence: it holds its windows, and waits for the records taken so far. -/
def fenceAsked (id : Nat) (s : State) : State :=
  s.setVine { s.vine with fenceWaits := s.vine.fenceWaits ++ [{ fence := id, ordinals := s.openRecords, answered := false }] }

/-- The stem begins the oldest fence that waits: FENCE_REQ to every member. -/
def startGroupFence (s : State) : State :=
  match s.vine.fences with
  | [] => s
  | f :: fs =>
    let s := s.setVine { s.vine with fences := { f with waits := s.vine.members } :: fs }
    fenceAsked f.id (vineSendAll 0x20 s.vine.members [f.id] [] s)

/-- A fence arrives at the stem: from a member, or from its own windows. -/
def queueGroupFence (order member : Nat) (s : State) : State :=
  let f : GroupFence := { id := groupFenceId order member, from_ := member, fid := order, waits := [] }
  let s1 := s.setVine { s.vine with fences := s.vine.fences ++ [f] }
  if s.vine.fences.isEmpty then startGroupFence s1 else s1

/-- A member's answer arrives at the stem: with the last one the fence ends everywhere and the next begins. -/
def fenceAnswered (id member : Nat) (s : State) : State :=
  match s.vine.fences with
  | [] => s
  | f :: fs =>
    if f.id ≠ id then s else
    let ws := f.waits.filter (fun m => m ≠ member)
    if !ws.isEmpty then s.setVine { s.vine with fences := { f with waits := ws } :: fs }
    else
      let s := vineSendAll 0x21 s.vine.members [id] [] (s.setVine { s.vine with fences := fs })
      startGroupFence (fenceOver id s)

/-- Answers every fence request whose records have completed. An answered request keeps the windows held until the fence is over. -/
def answerFences (s : State) : State :=
  s.vine.fenceWaits.foldl (fun s f =>
    let left := f.ordinals.filter s.isOpen
    let s := s.setVine { s.vine with
      fenceWaits := mapIf (fun g => g.fence == f.fence) (fun g => { g with ordinals := left, answered := left.isEmpty })
        s.vine.fenceWaits }
    if f.answered || !left.isEmpty then s
    else if s.vine.state = 3 then fenceAnswered f.fence s.vine.member s
    else vineSend 0x21 s.vine.stem [f.fence] [] s) s

/-- A CASCADE fence is handed to the stem (R355). -/
def askGroupFence (t : Taken) (s : State) : State :=
  if s.vine.state = 3 then queueGroupFence t.order s.vine.member s
  else vineSend 0x20 s.vine.stem [t.order] [] s

end Sys2Proof.Machine
end

