-- ==== Sys2Proof/Machine/Images.lean ====
section
/-! DEFINITION. Certificates and the configuration image: the checks of R391 to R396, the flash slots and the selector records
(spec 18). -/

namespace Sys2Proof.Machine

/-! ## Certificates (R391 to R393) -/

/-- The root public key, and whether it matches ROOT_HASH. -/
def rootKey : List Byte := natLe 32 Config.rootKey.toNat

/-- The root key matches the ROOT_HASH fuses. -/
def rootOk : Bool := sha512 rootKey == natLe 64 Config.rootHash.toNat

/-- PUBLIC_KEY of a certificate. -/
def certKey (c : List Byte) : List Byte := bytesAt c 0x18 32

/-- Checks a certificate for a role: its KIND and USAGE bits, the key of its anchor or issuer, and a revocation list. Answers the
stage code of the first check that fails (R393). -/
def certFault (c : List Byte) (kind usage : Nat) (anchor : List Byte) (anchorOk : Bool) (revoked : List Nat) : Option Nat :=
  if c.length < 256 || fld c 0 2 != 0x4357 || fld c 2 1 != 1 || !inRange (fld c 3 1) 1 5 || fld c 4 4 / 32 != 0 ||
    (bytesAt c 0x40 128).any (· != 0) then some 0x01
  else if fld c 3 1 ≠ kind || Nat.land (fld c 4 4) usage ≠ usage then some 0x02
  else if fld c 0x10 8 ≠ fingerprint anchor || !anchorOk then some 0x03
  else if !signs anchor (c.take 0xC0) (bytesAt c 0xC0 64) then some 0x04
  else if revoked.contains (fingerprint (certKey c)) || revoked.contains (fld c 0x10 8) then some 0x05
  else none

/-! ## The image (R394 to R396) -/

/-- Section entry i of an image: TYPE, OFFSET, LENGTH, and whether its reserved bytes are 0. -/
def sectionEntry (im : List Byte) (i : Nat) : List Byte := bytesAt im (0x140 + 80 * i) 80

/-- Place and length of the section of a type; none where the image has none. -/
def sectionOf (im : List Byte) (type : Nat) : List Byte :=
  match (List.range (fld im 7 1)).find? (fun i => fld (sectionEntry im i) 0 1 == type) with
  | some i => bytesAt im (fld (sectionEntry im i) 4 4) (fld (sectionEntry im i) 8 4)
  | none => []

/-- The header and section table obey R394 and R395. -/
def imageFormatOk (im : List Byte) : Bool :=
  let n := fld im 7 1
  let len := fld im 8 4
  let es := (List.range n).map (sectionEntry im)
  let types := es.map (fun e => fld e 0 1)
  let spans := es.map (fun e => (fld e 4 4, fld e 8 4))
  fld im 0 4 == 0x474D4957 && fld im 4 1 == 1 && decide (fld im 6 1 ≤ 64) && inRange n 5 16 &&
  len % 4096 == 0 && decide (len ≤ 67108864) && decide (len ≤ im.length) &&
  (bytesAt im 0x10 48).all (· == 0) && (bytesAt im 0x640 2432).all (· == 0) &&
  (bytesAt im (0x140 + 80 * n) (80 * (16 - n))).all (· == 0) &&
  es.all (fun e => (bytesAt e 1 3).all (· == 0) && (bytesAt e 0xC 4).all (· == 0)) &&
  spans.all (fun p => p.1 % 4096 == 0 && decide (4096 ≤ p.1) && decide (1 ≤ p.2) && decide (p.1 + p.2 ≤ len)) &&
  spans.zipIdx.all (fun p => (spans.take p.2).all (fun q => !overlaps p.1.1 p.1.2 q.1 q.2)) &&
  [1, 2, 3, 4, 5].all (fun k => (types.filter (· == k)).length == 1) &&
  types.all (fun k => inRange k 1 5 || inRange k 0x80 0xFE)

/-- Revoked fingerprints of an image's SETTINGS section (R395). -/
def imageRevoked (im : List Byte) : List Nat :=
  let t := sectionOf im 5
  (List.range (min 64 (fld t 40 4))).map (fun i => fld t (48 + 8 * i) 8)

/-- The punnet authority key of an image's SETTINGS section. -/
def imagePunnetKey (im : List Byte) : List Byte := bytesAt (sectionOf im 5) 8 32

/-- XTS_EN of an image's SETTINGS section. -/
def imageXts (im : List Byte) : Bool := bit (fld (sectionOf im 5) 0 1) 0

/-- Verifies an image against a fused SVN (R396): the stage code of the first failure. -/
def imageFault (im : List Byte) (svn : Nat) : Option Nat :=
  if !imageFormatOk im then some 0x06
  else
    match certFault (bytesAt im 0x40 256) 5 2 rootKey rootOk (imageRevoked im) with
    | some c => some c
    | none =>
      if fld im 5 1 ≠ 0xB0 then some 0x07
      else if fld im 6 1 < svn then some 0x08
      else if !edVerify (certKey (bytesAt im 0x40 256)) (imageDigest im) (bytesAt im 0xFC0 64) then some 0x09
      else if (List.range (fld im 7 1)).any (fun i =>
          let e := sectionEntry im i
          sha512 (bytesAt im (fld e 4 4) (fld e 8 4)) != bytesAt e 0x10 64) then some 0x0A
      else none

/-- A failed check is recorded in SEC_SIG_FAIL (R393). -/
def noteSigFail (code : Nat) (s : State) : State :=
  s.setSec { s.sec with failCount := satAdd 16 s.sec.failCount 1, failCode := code }

/-! ## Slots and selectors (R397) -/

/-- The slot that is not running. -/
def State.otherSlot (s : State) : Nat := 1 - s.sec.slot

/-- The other slot replaced, with its state. -/
def setOther (v : FlashSlot) (st : Nat) (s : State) : State :=
  s.setSec (if s.sec.slot = 0 then { s.sec with slotB := v, otherState := st } else { s.sec with slotA := v, otherState := st })

/-- Selector record 1 is in force: the highest COUNTER whose CRC is correct. -/
def Sec.second (v : Sec) : Bool := v.sel1.crcOk && (!v.sel0.crcOk || decide (v.sel0.counter < v.sel1.counter))

/-- The selector record in force. -/
def Sec.selector (v : Sec) : Selector := if v.second then v.sel1 else v.sel0

/-- A selector record is written in place of the one not in force (R397). -/
def writeSelector (boot : Nat) (trial : Bool) (fallback : Option Nat) (s : State) : State :=
  let r : Selector :=
    { counter := (s.sec.selector.counter + 1) % 2 ^ 32, boot := boot, trial := trial, fallback := fallback, crcOk := true }
  s.setSec (if s.sec.second then { s.sec with sel0 := r } else { s.sec with sel1 := r })

end Sys2Proof.Machine
end

