-- ==== Sys2Proof/Machine/Control.lean ====
section
/-! DEFINITION. Records of the control family: NOP, FENCE, QUERY, ATTEST, FW_STAGE and FW_COMMIT (spec 04, 18, R266, R284, R377). -/

namespace Sys2Proof.Machine

/-! ## NOP and fences (R72, R94, R95, R355) -/

/-- NOP (R95). -/
def execNop (w : Fin 16) (n : U32) (s : State) : Host.Outcome State Fault Refusal :=
  .next (onOp 0 w.val n.toNat (fun w t => complete w t.n (done [])) s)

/-- A FENCE record begins to hold its scope. -/
def fenceBegin (w : Nat) (t : Taken) (s : State) : State := startRecord w t.n s

/-- FENCE with SCOPE WINDOW (R94). -/
def execFenceWindow (w : Fin 16) (n : U32) (s : State) : Host.Outcome State Fault Refusal :=
  .next (onRecord 1 w.val n.toNat (fun t => t.at 0x20 1 == 0) fenceBegin s)

/-- FENCE with SCOPE MODULE (R72). -/
def execFenceModule (w : Fin 16) (n : U32) (s : State) : Host.Outcome State Fault Refusal :=
  .next (onRecord 1 w.val n.toNat (fun t => t.at 0x20 1 == 1) fenceBegin s)

/-- FENCE with SCOPE CASCADE (R72, R355): on a standalone module it acts as a MODULE fence. -/
def execFenceCascade (w : Fin 16) (n : U32) (s : State) : Host.Outcome State Fault Refusal :=
  .next (onRecord 1 w.val n.toNat (fun t => t.at 0x20 1 == 2)
    (fun w t s =>
      let s := fenceBegin w t s
      if s.inCascade then askGroupFence t s else s) s)

/-- A FENCE record's condition holds (R72). -/
def State.fenceEnds (s : State) (w : Nat) (t : Taken) : Bool :=
  if t.at 0x20 1 = 2 && s.inCascade then t.progress == 1 else s.fencePassed w t.order (t.at 0x20 1 != 0)

/-- The fence of a record completes once what it waits for has completed; requests of the group are answered likewise. -/
def fenceRelease (w n : Nat) (s : State) : State :=
  let s := answerFences s
  if !s.live then s else
  match s.called w n (fun t => t.opcode == 1 && t.started) with
  | none => s
  | some (w, t) => if s.fenceEnds w t then complete w t.n (done []) s else s

/-- FENCE_RELEASE (R72). -/
def execFenceRelease (w : Fin 16) (n : U32) (s : State) : Host.Outcome State Fault Refusal :=
  .next (fenceRelease w.val n.toNat s)

/-! ## QUERY (R95, R266, R284, R377, R392) -/

/-- Window w's entry of page 0 (R95). -/
def State.windowEntry (s : State) (w : Nat) : List Byte :=
  let v := s.win w
  natLe 4 v.expect ++ natLe 4 v.replyTail ++ natLe 4 v.outTail ++ natLe 2 v.inflight ++ natLe 1 (s.winState w) ++ natLe 1 0

/-- Sequence q's entry as window w sees it (R266). -/
def State.seqEntryFor (s : State) (w q : Nat) : List Byte :=
  let e := s.seq q
  if e.state = 0 || !(s.winPriv w || e.tenant == (s.win w).tenant) then natLe 32 0
  else
    natLe 4 e.len ++ natLe 4 (e.pending.getD 0xFFFFFFFF) ++ natLe 4 e.pages.length ++
    natLe 4 ((e.pages.filter (·.shared)).length) ++ natLe 2 e.tenant ++ natLe 2 e.customer ++ natLe 2 e.variant ++
    natLe 1 e.model ++ natLe 1 e.outWindow ++ natLe 1 e.state ++ natLe 1 (b2n e.stopped + 2 * b2n e.faulted) ++ natLe 2 0 ++
    natLe 4 (if e.faulted then e.faultPos else 0xFFFFFFFF)

/-- Customer c's entry of page 0x0300 (R284). -/
def State.customerEntry (s : State) (c : Nat) : List Byte :=
  let x := s.customer c
  natLe 4 x.budget ++ natLe 4 x.spent ++ natLe 4 (x.window % 2 ^ 32).toNat ++ natLe 1 (b2n (s.exhausted c s.now)) ++ natLe 3 0

/-- Slot i of the quarantine table (R377). -/
def State.quarBytes (s : State) (i : Nat) : List Byte :=
  let e := tget QuarEntry.free s.mem.quarantine i
  natLe 8 e.dpa ++ natLe 8 e.lines ++ natLe 8 e.stamp ++ natLe 4 e.detail ++ natLe 2 e.variant ++ natLe 1 e.state ++ natLe 1 0

/-- Certificate i of the identity memory (R392). -/
def identityCert (i : Nat) : List Byte := natLe 256 (Config.certificate i).toNat

/-- Page p as window w reads it. -/
def State.queryBytes (s : State) (w p : Nat) : List Byte :=
  if p = 0 then (List.range 16).flatMap s.windowEntry
  else if p = 0x300 then (List.range 1024).flatMap s.customerEntry
  else if p = 0x400 || p = 0x401 then (List.range 2048).flatMap (fun i => s.quarBytes (2048 * (p - 0x400) + i))
  else if p = 0x500 then rootKey ++ (List.range 6).flatMap identityCert
  else (List.range 16).flatMap (fun i => s.seqEntryFor w (16 * (p - 0x200) + i))

/-- QUERY's effect: the lesser of the page and LENGTH is written to DEST. -/
def query (w : Nat) (t : Taken) (s : State) : State :=
  let d := s.queryBytes w (t.at 0x20 2)
  complete w t.n (done (natLe 4 d.length)) (hostWrite (t.at 0x28 8) (d.take (t.at 0x30 4)) s)

/-- QUERY (R95). -/
def execQuery (w : Fin 16) (n : U32) (s : State) : Host.Outcome State Fault Refusal :=
  .next (onOp 2 w.val n.toNat query s)

/-! ## ATTEST (R402, R403) -/

/-- ATTEST's effect: the report measured when the record was taken, signed by the chosen key, goes to DEST (R402, R403). -/
def attest (w : Nat) (t : Taken) (s : State) : State :=
  complete w t.n (done [])
    (hostWrite (t.at 0x48 8) (t.shown ++ edSign (identityKey (t.at 0x20 1)) (sha512 t.shown)) s)

/-- ATTEST (R402). -/
def execAttest (w : Fin 16) (n : U32) (s : State) : Host.Outcome State Fault Refusal :=
  .next (onOp 5 w.val n.toNat attest s)

/-! ## FW_STAGE (R398, R401) -/

/-- A taken record of an opcode, earlier than another one. -/
def State.earlierTaken (s : State) (op : Nat) (t : Taken) : Bool :=
  s.records.any (fun r => r.2.opcode == op && decide (r.2.order < t.order))

/-- What FW_STAGE meets first. -/
def State.stageChecks (s : State) (t : Taken) : List (Bool × Answer) :=
  [(!s.earlierTaken 6 t, badState 0x80), (!s.sec.trial, badState 0x81), (decide (s.sec.otherState ≠ 3), badState 0x82)]

/-- SEC_STAGE shows a stage's bytes. -/
def showStage (bytes : Nat) (verify : Bool) (s : State) : State :=
  s.setSec { s.sec with stageBytes := bytes, stageVerify := verify }

/-- FW_STAGE WRITE: the copy into the other slot, its read-back and verification. (DESIGN CHOICE, log entry 46) -/
def stageWrite (src : Src) (flashOk : Bool) (w : Nat) (t : Taken) (s : State) : State :=
  checked w t.n (s.stageChecks t) (fun s =>
    let len := t.at 0x30 4
    match readSource (t.at 0x21 1 == 1) (t.at 0x28 8) len src s with
    | (.waiting, _) => s
    | (.poison a, s) => complete w t.n a (setOther .erased 0 s)
    | (.bytes d, s) =>
      if !flashOk then complete w t.n (badState 0x83) (showStage 0 false (setOther .erased 0 s))
      else
        match imageFault d s.sec.fusedSvn with
        | some c => complete w t.n (ans 0x0401 c) (showStage len true (noteSigFail c (setOther .erased 0 s)))
        | none =>
          complete w t.n
            (done (natLe 4 len ++ natLe 1 (fld d 6 1) ++ natLe 1 s.otherSlot ++ natLe 2 0 ++ (imageDigest d).take 8))
            (showStage len true (setOther (.image d) 2 s))) s

/-- FW_STAGE CLEAR: the other slot is erased. (DESIGN CHOICE, log entry 46) -/
def stageClear (flashOk : Bool) (w : Nat) (t : Taken) (s : State) : State :=
  checked w t.n (s.stageChecks t) (fun s =>
    complete w t.n (if flashOk then done [] else badState 0x83) (showStage 0 false (setOther .erased 0 s))) s

/-- FW_STAGE waits for an earlier FW_COMMIT (R401). -/
def State.stageTurn (s : State) (t : Taken) : Bool := !s.earlierTaken 7 t

/-- FW_STAGE WRITE (R398). -/
def execFwStageWrite (w : Fin 16) (n : U32) (src : Src) (flashOk : Bool) (s : State) : Host.Outcome State Fault Refusal :=
  .next (onRecord 6 w.val n.toNat (fun t => t.at 0x20 1 == 0 && s.stageTurn t) (stageWrite src flashOk) s)

/-- FW_STAGE CLEAR (R398). -/
def execFwStageClear (w : Fin 16) (n : U32) (flashOk : Bool) (s : State) : Host.Outcome State Fault Refusal :=
  .next (onRecord 6 w.val n.toNat (fun t => t.at 0x20 1 == 1 && s.stageTurn t) (stageClear flashOk) s)

/-! ## FW_COMMIT (R399) -/

/-- FW_COMMIT SELECT. In RECOVERY it confirms the slot, and the module restarts ten milliseconds after the reply (R428).
(DESIGN CHOICE, log entry 46) -/
def commitSelect (w : Nat) (t : Taken) (s : State) : State :=
  checked w t.n [(decide (s.sec.otherState = 2), badState 0x84)] (fun s =>
    let s := if s.recovery then writeSelector s.otherSlot false none s else writeSelector s.otherSlot true (some s.sec.slot) s
    let s := s.setSec { s.sec with
      otherState := 3, restartAt := if s.recovery then some (s.now + msTicks 10) else s.sec.restartAt }
    complete w t.n (done []) s) s

/-- FW_COMMIT CONFIRM. (DESIGN CHOICE, log entry 46) -/
def commitConfirm (w : Nat) (t : Taken) (s : State) : State :=
  checked w t.n [(s.sec.trial, badState 0x85)] (fun s =>
    let s := writeSelector s.sec.slot false none s
    let s := s.setSec { s.sec with
      trial := false, otherState := 2,
      fusedSvn := if t.at 0x21 1 = 1 then max s.sec.fusedSvn s.sec.imageSvn else s.sec.fusedSvn }
    complete w t.n (done []) s) s

/-- FW_COMMIT ABANDON. -/
def commitAbandon (w : Nat) (t : Taken) (s : State) : State :=
  let s :=
    if s.sec.otherState = 3 then
      let s := writeSelector s.sec.slot false none s
      s.setSec { s.sec with otherState := 2 }
    else if s.sec.trial then writeSelector s.otherSlot false none s
    else s
  complete w t.n (done []) s

/-- Runs a FW_COMMIT in its turn (R401). -/
def onCommit (op w n : Nat) (f : Nat → Taken → State → State) (s : State) : State :=
  inOrder 7 w n (fun t => t.at 0x20 1 == op && !s.earlierTaken 6 t) f s

/-- FW_COMMIT SELECT (R399). -/
def execFwCommitSelect (w : Fin 16) (n : U32) (s : State) : Host.Outcome State Fault Refusal :=
  .next (onCommit 0 w.val n.toNat commitSelect s)

/-- FW_COMMIT CONFIRM (R399). -/
def execFwCommitConfirm (w : Fin 16) (n : U32) (s : State) : Host.Outcome State Fault Refusal :=
  .next (onCommit 1 w.val n.toNat commitConfirm s)

/-- FW_COMMIT ABANDON (R399). -/
def execFwCommitAbandon (w : Fin 16) (n : U32) (s : State) : Host.Outcome State Fault Refusal :=
  .next (onCommit 2 w.val n.toNat commitAbandon s)

end Sys2Proof.Machine
end

