-- ==== Sys2Proof/Machine/Codec.lean ====
section
/-! DEFINITION. The Raisin codecs: modes, prefix codes, stored blocks and their checks, park keys, table slots and CODEC_TABLE (spec 14). -/

namespace Sys2Proof.Machine

/-! ## Bit streams and prefix codes (R310, R314) -/

/-- The first code of each length (RFC 1951 §3.2.2). -/
def firstCode (lens : List Nat) : Nat → Nat
  | 0 => 0
  | b + 1 => 2 * (firstCode lens b + (if b = 0 then 0 else (lens.filter (· == b)).length))

/-- The code of a symbol: its value among those of its length. -/
def codeOf (lens : List Nat) (sym : Nat) : Nat :=
  let n := lens.getD sym 0
  firstCode lens n + ((lens.take sym).filter (· == n)).length

/-- The bits of a symbol's code in stream order: most significant first (RFC 1951 §3.1.1). -/
def codeBits (lens : List Nat) (sym : Nat) : List Bool :=
  let n := lens.getD sym 0
  (List.range n).map (fun i => bit (codeOf lens sym) (n - 1 - i))

/-- The symbol that a code of a length stands for. -/
def symbolOf (lens : List Nat) (len code : Nat) : Option Nat :=
  findBelow 256 (fun x => lens.getD x 0 == len && codeOf lens x == code)

/-- Decodes symbols from a bit stream until todo are found: the symbols and the bits left; none where no code fits. -/
def decodeSyms (lens : List Nat) : List Bool → Nat → Nat → Nat → Option (List Nat × List Bool)
  | bs, 0, _, _ => some ([], bs)
  | [], _ + 1, _, _ => none
  | b :: bs, todo + 1, len, code =>
    let code := 2 * code + b2n b
    match symbolOf lens (len + 1) code with
    | some x => (decodeSyms lens bs todo 0 0).map (fun r => (x :: r.1, r.2))
    | none => if 15 ≤ len + 1 then none else decodeSyms lens bs (todo + 1) (len + 1) code

/-- The symbols of a stream coded; none when one of them has no code. -/
def encodeSyms (lens syms : List Nat) : Option (List Byte) :=
  if syms.all (fun x => lens.getD x 0 != 0) then some (packBits (syms.flatMap (codeBits lens))) else none

/-! ## Bodies (R309, R310) -/

/-- The low plane of a source. -/
def lowPlane (src : List Byte) : List Byte := packBits (src.flatMap (fun b => (byteBits b).take 3))

/-- A body in a mode; lens is the table's. None where a symbol cannot be coded, or a source is no whole number of elements. -/
def bodyOf (mode elem : Nat) (lens : List Nat) (src : List Byte) : Option (List Byte) :=
  match mode with
  | 0 => some src
  | 1 => if src.length % 2 ^ elem = 0 then some (zrunBody elem src) else none
  | 2 => encodeSyms lens (src.map (·.toNat))
  | _ => (encodeSyms lens (src.map (fun b => b.toNat / 8))).map (fun h => lowPlane src ++ h)

/-- Groups of a ZRUN body decoded: n elements of w bytes; none unless the body is used up exactly. -/
def zrunDecode (w : Nat) : Nat → Nat → List Byte → Option (List Byte)
  | _, 0, body => if body.isEmpty then some [] else none
  | 0, _ + 1, _ => none
  | fuel + 1, n + 1, body =>
    match body with
    | [] => none
    | m :: rest =>
      let k := min 8 (n + 1)
      let used := (List.range k).map (fun i => m.getLsbD i)
      let nz := (used.filter (· == true)).length
      if (List.range 8).any (fun i => decide (k ≤ i) && m.getLsbD i) || rest.length < nz * w then none
      else
        let g := (List.range k).flatMap (fun i =>
          if m.getLsbD i then bytesAt rest (((used.take i).filter (· == true)).length * w) w else List.replicate w 0)
        (zrunDecode w fuel (n + 1 - k) (rest.drop (nz * w))).map (fun r => g ++ r)

/-- Coded symbols decoded, n of them; none unless the bytes are used up exactly, with padding bits 0. -/
def decodeAll (lens : List Nat) (n : Nat) (d : List Byte) : Option (List Nat) :=
  match decodeSyms lens (d.flatMap byteBits) n 0 0 with
  | some (xs, left) => if left.length < 8 && left.all (· == false) then some xs else none
  | none => none

/-- Bits cut into groups of three. -/
def planeBits (n : Nat) (d : List Byte) : List Nat := ((chunksOf 3 ((d.flatMap byteBits).take (3 * n)))).map bitsNat

/-- The stream that a body decodes to, n bytes (R313, check 4). -/
def decodeBody (mode elem n : Nat) (lens : List Nat) (body : List Byte) : Option (List Byte) :=
  match mode with
  | 0 => if body.length = n then some body else none
  | 1 => if n % 2 ^ elem = 0 then zrunDecode (2 ^ elem) (n + 1) (n / 2 ^ elem) body else none
  | 2 => (decodeAll lens n body).map (fun xs => xs.map (BitVec.ofNat 8))
  | _ =>
    let k := ceilDiv (3 * n) 8
    let low := body.take k
    if body.length < k || ((low.flatMap byteBits).drop (3 * n)).any (· == true) then none
    else (decodeAll lens n (body.drop k)).bind (fun xs =>
      if xs.all (fun x => decide (x < 32)) then
        some (List.zipWith (fun h l => BitVec.ofNat 8 (8 * h + l)) xs (planeBits n low))
      else none)

/-! ## Stored blocks (R312, R318) -/

/-- The park key of a tenant (R318). -/
def State.parkKey (s : State) (tn : Nat) : List Byte :=
  hkdf (natLe 32 (Config.bootSecret s.sec.boots).toNat) (natLe 8 Config.serial.toNat) (ascii "GCM" ++ natLe 2 tn) 32

/-- The nonce of a park's stream (R318). -/
def parkNonce (handle idx : Nat) : List Byte := natLe 8 handle ++ natLe 4 idx

/-- The least size of a stored block that holds n bytes of body. -/
def blockSize (n : Nat) : Nat := ceilDiv (64 + n) 4096 * 4096

/-- The declared size of a park stream of n bytes at a percentage (R312, R319). -/
def declaredSize (pct n : Nat) : Nat := ceilDiv (6400 + pct * n) 409600 * 4096

/-- Header bytes 0x00 to 0x2F. -/
def blockHeader (size mode elem tslot tgen decl src body : Nat) (nonce : List Byte) : List Byte :=
  natLe 2 0x5243 ++ natLe 1 1 ++ natLe 1 (b2n (mode == 0) + 2 * b2n (decide (64 + body < size))) ++ natLe 1 mode ++
  natLe 1 (if mode = 1 then elem else 0) ++ natLe 1 tslot ++ natLe 1 0 ++ natLe 2 tgen ++ natLe 2 0 ++ natLe 4 decl ++
  natLe 4 src ++ natLe 4 body ++ natLe 8 0 ++ nonce ++ natLe 4 0

/-- The stored block of a body. -/
def storedBlock (key : List Byte) (size mode elem tslot tgen decl src : Nat) (nonce body : List Byte) : List Byte :=
  let h := blockHeader size mode elem tslot tgen decl src body.length nonce
  let (ct, tag) := gcmSeal key nonce h body
  padTo size (h ++ tag ++ ct)

/-- Bank b of slot i. -/
def State.codecBank (s : State) (b : Nat × Nat) : CodecBank := (s.codecSlot b.1).bank b.2

/-- Slot i replaced. -/
def setCodecSlot (i : Nat) (v : CodecSlot) (s : State) : State :=
  s.setCodec { s.codec with slots := tset CodecSlot.reset s.codec.slots i v }

/-- Bank b of slot i replaced. -/
def setCodecBank (b : Nat × Nat) (v : CodecBank) (s : State) : State :=
  let x := s.codecSlot b.1
  setCodecSlot b.1 (if b.2 = 0 then { x with bank0 := v } else { x with bank1 := v }) s

/-- One more reference on a bank, or one fewer (R315). -/
def bindBank (b : Option (Nat × Nat)) (s : State) : State :=
  match b with
  | some b => setCodecBank b { s.codecBank b with refs := (s.codecBank b).refs + 1 } s
  | none => s

/-- One reference fewer on a bank. -/
def unbindBank (b : Option (Nat × Nat)) (s : State) : State :=
  match b with
  | some b => setCodecBank b { s.codecBank b with refs := (s.codecBank b).refs - 1 } s
  | none => s

/-- What an encoder makes of a stream: the block, and whether it is stored raw (R311, R312). -/
def State.encodeBlock (s : State) (key : List Byte) (v : CodecStream) : List Byte × Bool :=
  let n := v.src.length
  let nonce := parkNonce v.handle v.idx
  let bank := (v.bind.map s.codecBank).getD { lens := [], gen := 0, refs := 0 }
  let coded := if v.mode != 0 then bodyOf v.mode v.elem bank.lens v.src else none
  match coded.filter (fun b => decide (b.length ≤ v.declLen - 64) && decide (b.length < n)) with
  | some b =>
    let (t, g) := match v.bind with | some x => (x.1, bank.gen) | none => (0xFF, 0)
    (storedBlock key v.declLen v.mode v.elem t g v.declLen n nonce b, false)
  | none => (storedBlock key (max v.declLen (blockSize n)) 0 0 0xFF 0 v.declLen n nonce v.src, true)

/-- Check 1 of R313: the header. -/
def headerOk (b : List Byte) : Bool :=
  let mode := fld b 4 1
  let body := fld b 0x14 4
  fld b 0 2 == 0x5243 && fld b 2 1 == 1 && fld b 7 1 == 0 && fld b 0x0A 2 == 0 && fld b 0x18 8 == 0 && fld b 0x2C 4 == 0 &&
  decide (mode ≤ 3) && fld b 3 1 == b2n (mode == 0) + 2 * b2n (decide (64 + body < b.length)) &&
  (if mode = 1 then decide (fld b 5 1 ≤ 2) else fld b 5 1 == 0) && (if mode ≤ 1 then fld b 6 1 == 0xFF else decide (fld b 6 1 < 16)) &&
  inRange (fld b 0x10 4) 1 1048576 && inRange body 1 1048576 && decide (64 + body ≤ b.length) &&
  (mode != 0 || body == fld b 0x10 4)

/-- The bank that a block's header names: loaded, and of its generation (check 3). -/
def State.blockBank (s : State) (b : List Byte) : Option (Nat × Nat) :=
  let i := fld b 6 1
  if fld b 4 1 < 2 || 16 ≤ i then none else
  (List.range 2).findSome? (fun k =>
    let v := (s.codecSlot i).bank k
    if !v.lens.isEmpty && v.gen == fld b 8 2 then some (i, k) else none)

/-- Reading a stored block (R313): its stream, or the first check that fails. -/
def State.decodeBlock (s : State) (key b : List Byte) : Except Nat (List Byte) :=
  if !headerOk b then .error 1 else
  match gcmOpen key (bytesAt b 0x20 12) (b.take 0x30) (bytesAt b 0x40 (fld b 0x14 4)) (bytesAt b 0x30 16) with
  | none => .error 2
  | some body =>
    let bank := s.blockBank b
    if 2 ≤ fld b 4 1 && bank.isNone then .error 3 else
    match decodeBody (fld b 4 1) (fld b 5 1) (fld b 0x10 4) ((bank.map (fun x => (s.codecBank x).lens)).getD []) body with
    | some d => .ok d
    | none => .error 4

/-- A corrupt block is logged, recorded and counted (R313, R319, R369). -/
def noteCorrupt (codec idx kind : Nat) (b : List Byte) (s : State) : State :=
  let s := logErr 0x17 5 codec 0 kind s
  s.setCodec { s.codec with
    corrupt := satAdd 32 s.codec.corrupt 1, faultStream := idx, faultSlot := if fld b 6 1 = 0xFF then 0 else fld b 6 1 % 16,
    faultCodec := codec, faultKind := kind }

/-! ## Queues -/

/-- The streams queued at codec c. -/
def State.codecQueue (s : State) (c : Nat) : List CodecStream := tget [] s.codec.queues c

/-- The queue of codec c replaced. -/
def setQueue (c : Nat) (q : List CodecStream) (s : State) : State := s.setCodec { s.codec with queues := tset [] s.codec.queues c q }

/-- A stream is queued at a codec, and its bank takes a reference (R315). -/
def queueStream (c : Nat) (v : CodecStream) (s : State) : State := setQueue c (s.codecQueue c ++ [v]) (bindBank v.bind s)

/-- Every queued stream for which p holds leaves its codec, and gives its reference back. -/
def dropStreams (p : Nat → CodecStream → Bool) (s : State) : State :=
  (List.range 8).foldl (fun s c =>
    let q := s.codecQueue c
    let s := (q.filter (p c)).foldl (fun s v => unbindBank v.bind s) s
    setQueue c (q.filter (fun v => !p c v)) s) s

/-! ## CODEC_TABLE (R314, R315) -/

/-- The generation after a slot's last one, 0 and the current bank's left out. -/
def nextGen (last current : Nat) : Nat :=
  let up := fun g => if (g + 1) % 65536 = 0 then 1 else (g + 1) % 65536
  if up last = current then up (up last) else up last

/-- The index at which a table image fails: the first length above 15, or all ones. -/
def codecImageFault (lens : List Nat) : Option Nat :=
  match findBelow lens.length (fun i => decide (15 < lens.getD i 0)) with
  | some i => some i
  | none =>
    let kraft := (lens.map (fun l => if l = 0 then 0 else 2 ^ (15 - l))).sum
    if lens.all (· == 0) || decide (2 ^ 15 < kraft) then some 0xFFFFFFFF else none

/-- CODEC_TABLE LOAD. -/
def codecLoad (src : Src) (w : Nat) (t : Taken) (s : State) : State :=
  let i := t.at 0x21 1
  match readSource (t.at 0x22 1 == 1) (t.at 0x28 8) 256 src s with
  | (.waiting, _) => s
  | (.poison a, s) => complete w t.n a s
  | (.bytes d, s) =>
    let lens := d.map (·.toNat)
    let v := s.codecSlot i
    let sh := 1 - v.current
    match codecImageFault lens with
    | some k => complete w t.n { badField 0x28 with result := natLe 4 k } s
    | none =>
      if (v.bank sh).refs ≠ 0 then complete w t.n (ans 0x0203 i) s else
      let g := nextGen v.lastGen (v.bank v.current).gen
      let s := setCodecBank (i, sh) { lens := lens, gen := g, refs := 0 } s
      complete w t.n (done (natLe 2 g ++ natLe 1 sh)) (setCodecSlot i { s.codecSlot i with lastGen := g } s)

/-- CODEC_TABLE SWAP. -/
def codecSwap (w : Nat) (t : Taken) (s : State) : State :=
  let i := t.at 0x21 1
  let v := s.codecSlot i
  let sh := 1 - v.current
  checked w t.n [(!(v.bank sh).lens.isEmpty, badState 1)] (fun s =>
    complete w t.n (done (natLe 2 (v.bank sh).gen ++ natLe 1 sh)) (setCodecSlot i { v with current := sh } s)) s

/-- CODEC_TABLE with OP LOAD (R315). -/
def execCodecTableLoad (w : Fin 16) (n : U32) (src : Src) (s : State) : Host.Outcome State Fault Refusal :=
  .next (inOrder 0x27 w.val n.toNat (fun t => t.at 0x20 1 == 0) (codecLoad src) s)

/-- CODEC_TABLE with OP SWAP (R315). -/
def execCodecTableSwap (w : Fin 16) (n : U32) (s : State) : Host.Outcome State Fault Refusal :=
  .next (inOrder 0x27 w.val n.toNat (fun t => t.at 0x20 1 == 1) codecSwap s)

end Sys2Proof.Machine
end

