-- ==== Sys2Proof/Machine/Parks.lean ====
section
/-! DEFINITION. Parks: the directory, the image and its streams, SEQ_PARK, SEQ_RESUME and the expiry scan; the codec streams of parks and
resumes (R262 to R264, R311, R313, R317, R325 to R328). -/

namespace Sys2Proof.Machine

/-! ## The port's commands and errors (R320, R324, R331) -/

/-- A port changes its state: vector 18 and the error log. -/
def setPortState (p st : Nat) (s : State) : State :=
  if (s.punPort p).state = st then s
  else msix 18 (logErr 0x50 8 p 0 st (s.modPun p (fun v => { v with state := st })))

/-- A punnet error is counted, logged and signalled (R331, R335). -/
def punError (p kind : Nat) (status : Option Nat) (s : State) : State :=
  msix 18 (logErr 0x51 8 p 0 kind (s.modPun p (fun v => { v with
    errCount := satAdd 16 v.errCount 1, errKind := kind, errStatus := status.getD v.errStatus })))

/-- WEAR as the ledger gives it. -/
def PunPort.wearNow (v : PunPort) : Nat :=
  if v.wear = 3 || v.usedBp = 10000 then 3 else if 9500 ≤ v.usedBp then 2 else if 8000 ≤ v.usedBp then 1 else 0

/-- WEAR steps up with the ledger; at 100 % a BOUND port enters READ_ONLY (R330). -/
def noteWear (p : Nat) (s : State) : State :=
  let v := s.punPort p
  let wn := v.wearNow
  if wn ≤ v.wear then s else
  let s := msix 18 (logErr 0x50 8 p 0 (if wn = 3 && v.state = 2 then 3 else v.state) (s.modPun p (fun v => { v with wear := wn })))
  if wn = 3 && v.state = 2 then s.modPun p (fun v => { v with state := 3 }) else s

/-- An NVMe command is issued on port p. -/
def issueCmd (p opcode handle idx lba lbas : Nat) (s : State) : State :=
  let s := s.modPun p (fun v => { v with
    cmds := v.cmds ++ [{ cid := v.nextCid, opcode := opcode, handle := handle, idx := idx, lba := lba, lbas := lbas, issued := s.now,
                         aborted := none }],
    nextCid := (v.nextCid + 1) % 65536, writtenSince := v.writtenSince + (if opcode = 1 then lbas * lbaBytes else 0) })
  if opcode = 1 then noteWear p s else s

/-- A stored block is written or read, in commands of at most MDTS bytes (R321). -/
def issueBlock (p opcode handle idx lba lbas : Nat) (s : State) : State :=
  let m := (s.punPort p).mdts
  if m = 0 then issueCmd p opcode handle idx lba lbas s
  else (List.range (ceilDiv lbas m)).foldl (fun s i => issueCmd p opcode handle idx (lba + i * m) (min m (lbas - i * m)) s) s

/-- A command waits for a place in its I/O queue: that of the codec that serves its stream, which holds 255 commands at once (R320).
(PRESUMED, log entry 35) -/
def PunPort.queued (v : PunPort) (c : NvmeCmd) : Bool :=
  decide (255 ≤ ((v.cmds.takeWhile (fun x => x.cid != c.cid)).filter (fun x => x.idx % 2 == c.idx % 2)).length)

/-- Commands leave a port's queues: those that had waited and need no longer are issued now. -/
def PunPort.leave (now : Nat) (keep : NvmeCmd → Bool) (v : PunPort) : PunPort :=
  let u := { v with cmds := v.cmds.filter keep }
  { u with cmds := u.cmds.map (fun c => if v.queued c && !u.queued c then { c with issued := now } else c) }

/-- The port's link carries commands. -/
def PunPort.works (v : PunPort) : Bool := inRange v.state 2 4

/-- Frees and deallocates LBAs of a port. -/
def deallocate (p lba lbas : Nat) (s : State) : State :=
  if lbas = 0 then s else
  let s := s.modPun p (fun v => { v with flash := tclear v.flash lba (lba + lbas) })
  if (s.punPort p).works then issueCmd p 9 0 0 lba lbas s else s

/-! ## The end of parks and resumes (R263, R317, R327, R328, R332) -/

/-- A park changed by f. -/
def modPark (h : Nat) (f : Park → Park) (s : State) : State :=
  s.setPun { s.pun with parks := mapIf (fun k => k.handle == h) f s.pun.parks }

/-- An unbound port shows no fingerprint, no rated life and no park space (R335). (DEDUCED, log entry 36) -/
def unbindPort (p : Nat) (s : State) : State :=
  s.modPun p (fun v => { v with retiring := [], cmds := [], fingerprint := 0, rated := 0, lbas := 0, flash := [], resetAt := none })

/-- The PUNNET_RETIRE records of a port complete. -/
def answerRetires (rs : List (Nat × Nat × Nat)) (s : State) : State :=
  rs.foldl (fun s r => complete r.1 r.2.1 (done (natLe 4 r.2.2)) s) s

/-- A RETIRING port is RETIRED once its last park has ended; its records complete (R333). (DEDUCED, log entry 36) -/
def settlePort (p : Nat) (s : State) : State :=
  if (s.punPort p).state ≠ 4 || !(s.parksOn p).isEmpty then s else
  let rs := (s.punPort p).retiring
  let s := setPortState p 5 (unbindPort p s)
  answerRetires rs s

/-- A park leaves the directory: its streams and references go, its space is freed and deallocated (R315, R328). -/
def reclaimPark (k : Park) (s : State) : State :=
  let s := dropStreams (fun _ v => v.handle == k.handle) s
  let s := k.blocks.foldl (fun s b => unbindBank b.bind s) s
  let s := s.setPun { s.pun with parks := s.pun.parks.filter (fun x => x.handle != k.handle) }
  let used := (k.blocks.filterMap (fun b => b.lba.map (fun _ => b.lbas))).sum
  settlePort k.port (deallocate k.port k.lba used s)

/-- A live park ends without a resume: its handle is answered EXPIRED from now on. -/
def endPark (k : Park) (s : State) : State :=
  let s := s.setPun { s.pun with ended := s.pun.ended ++ [(k.handle, k.tenant)] }
  reclaimPark k s

/-- A live park ends by expiry, or as at expiry (R169, R328). -/
def expirePark (k : Park) (s : State) : State :=
  endPark k (s.setPun { s.pun with expired := satAdd 32 s.pun.expired 1 })

/-- RAW_STORED of a park's reply (R312). -/
def Park.rawFlag (k : Park) : Nat := if k.blocks.any (·.raw) then flagRaw else 0

/-- A park that ends before its reply: its sequence is READY again, unchanged. -/
def undoPark (k : Park) (s : State) : State :=
  let s := s.setSeqs { s.seqs with effects := s.seqs.effects.filter (fun e => e.eff != .parkStart k.q) }
  reclaimPark k (s.modSeq k.q (fun e => if e.state = 3 then { e with state := 1 } else e))

/-- A park that fails before its reply (R327). -/
def failPark (k : Park) (s : State) : State :=
  complete k.w k.n { eccUncorrected (16 + k.port) with flags := k.rawFlag } (undoPark k s)

/-- A resume that fails (R317): the entry is FREE, its pages go at the next step boundary, and the park is reclaimed. -/
def failResume (r : Resume) (s : State) : State :=
  let s := s.setPun { s.pun with resumes := s.pun.resumes.filter (fun x => x.handle != r.handle) }
  let port := ((s.park r.handle).map (·.port)).getD 0
  let s := complete r.w r.n (eccUncorrected (16 + port)) (releaseEntry r.q s)
  match s.park r.handle with
  | some k => reclaimPark k s
  | none => s

/-- What was being written or read under a handle fails. -/
def failHandle (h : Nat) (s : State) : State :=
  match s.pun.resumes.find? (fun r => r.handle == h), s.park h with
  | some r, _ => failResume r s
  | none, some k => if k.state < 4 then failPark k s else s
  | none, none => s

/-- Every resume, and every park not yet durable, on a port fails. -/
def failInFlight (p : Nat) (s : State) : State :=
  (s.parksOn p).foldl (fun s k => failHandle k.handle s) s

/-- Every park of a port ends: those in flight fail, the others are answered EXPIRED (R331, R332). -/
def endAllParks (p : Nat) (s : State) : State :=
  let s := failInFlight p s
  (s.parksOn p).foldl (fun s k => endPark k s) s

/-! ## Admission (R325) -/

/-- KV bytes of a sequence's first n positions (R326). -/
def Model.kvImage (m : Model) (n : Nat) : Nat := n * m.layers * m.kvBytes

/-- Z, in bytes, of a KV image of k bytes. -/
def parkMax (k : Nat) : Nat :=
  let r := k % 1048576
  k / 1048576 * 1052672 + (if r = 0 then 0 else blockSize r) + 4096

/-- The lowest place for n contiguous LBAs on port p: the start of the park area, or behind a park. (DESIGN CHOICE, log entry 35) -/
def State.freeExtent (s : State) (p n : Nat) : Option Nat :=
  let ks := s.parksOn p
  let fits := fun a => decide (a + n ≤ (s.punPort p).lbas) && !ks.any (fun k => overlaps k.lba k.lbas a n)
  ((0 :: ks.map (fun k => k.lba + k.lbas)).filter fits).foldl (fun b a => match b with
    | some x => some (min x a)
    | none => some a) none

/-- Port p admits a park of z bytes (R325). -/
def State.admitsPark (s : State) (p z : Nat) : Bool :=
  let v := s.punPort p
  let writing := (((s.parksOn p).filter (fun k => decide (k.state < 4))).map (fun k => k.lbas * lbaBytes)).sum
  v.state == 2 && decide (z ≤ s.punFreeLbas p * lbaBytes) && (s.freeExtent p (ceilDiv z lbaBytes)).isSome &&
    decide (v.written + writing + z ≤ v.rated)

/-- The port for a park: the one named, or of those that admit it the one with the most free space, the lowest first. -/
def State.choosePort (s : State) (named z : Nat) : Option Nat :=
  let ps := (List.range 4).filter (fun p => s.admitsPark p z && (named == 0xFF || named == p))
  ps.find? (fun p => ps.all (fun x => decide (s.punFreeLbas x ≤ s.punFreeLbas p)))

/-! ## SEQ_PARK (R262) -/

/-- SEQ_PARK is taken, under a handle of its own or the stem's: an extent is reserved for every position that the sequence can reach by
its effect boundary, and the sequence stops taking part in steps there. -/
def seqParkAs (h : Option Nat) (w : Nat) (t : Taken) (s : State) : State :=
  let q := t.at 0x20 2
  let e := s.seq q
  let formed := ((s.stepsNaming q).filter (fun p => p.state == 2)).length
  let z := parkMax ((s.modelOf q).kvImage (e.len + formed))
  match s.choosePort (t.at 0x22 1) z with
  | none => checked w t.n [(e.state == 1, badState (notReady e.state))] (complete w t.n (badState 0x1B)) s
  | some p => checked w t.n [(e.state == 1, badState (notReady e.state))] (fun s =>
      let lbas := ceilDiv z lbaBytes
      let k : Park :=
        { handle := h.getD s.pun.nextHandle, tenant := e.tenant, port := p, lba := (s.freeExtent p lbas).getD 0, lbas := lbas, streams := 0,
          blocks := [], deadline := 0, state := 0, q := q, w := w, n := t.n, ttl := t.at 0x24 4, saved := SeqEntry.free,
          reader := none }
      let s := forwardWith t (natLe 8 k.handle) s
      let s := s.setPun { s.pun with parks := s.pun.parks ++ [k], nextHandle := max s.pun.nextHandle (k.handle + 1) }
      let s := startRecord w t.n (s.modSeq q (fun e => { e with state := 3 }))
      addEffect { w := w, n := t.n, reply := false, at_ := s.effectAt t, eff := .parkStart q } s) s

/-- SEQ_PARK under a handle of the module's own. -/
def seqPark (w : Nat) (t : Taken) (s : State) : State := seqParkAs none w t s

/-- SEQ_PARK. -/
def execSeqPark (w : Fin 16) (n : U32) (s : State) : Host.Outcome State Fault Refusal :=
  .next (inOrder 0x34 w.val n.toNat (fun _ => s.workStarts) seqPark s)

/-! ## The image (R326) -/

/-- The KV bytes of sequence q below LEN: its pages in order, within each its layers. -/
def readImage (q : Nat) (s : State) : ReadOut × State :=
  let e := s.seq q
  let m := s.modelOf q
  e.pages.zipIdx.foldl (fun (a : ReadOut × State) pk =>
    let n := min m.perPage (e.len - pk.2 * m.perPage)
    (List.range m.layers).foldl (fun (a : ReadOut × State) l =>
      a.1.andThen (readPage (plainReader 5) pk.1.page (l * m.perPage * m.kvBytes) (n * m.kvBytes) a.2)) a)
    ({ bytes := [], bad := none }, s)

/-- Mode and bank for KV data queued now (R311, R315, R319): RAW without compression, PLANE for FP8 KV with a loaded table, else
ZRUN. -/
def State.kvCoding (s : State) (m : Model) : Nat × Option (Nat × Nat) :=
  let i := s.codec.kvSlot
  let b := (s.codecSlot i).current
  if !s.codec.compressEn then (0, none)
  else if i < 16 && m.kvFormat != 0 && !((s.codecSlot i).bank b).lens.isEmpty then (3, some (i, b)) else (1, none)

/-- The streams of an image: those of the KV data, and the state stream, whose 2,048 bytes the spec leaves to firmware. -/
def imageStreams (k : Park) (m : Model) (kv : List Byte) (s : State) : List CodecStream × State :=
  let (mode, bind) := s.kvCoding m
  let parts := chunksOf 1048576 kv
  let vs := parts.zipIdx.map (fun e =>
    { encode := true, handle := k.handle, idx := e.2, src := e.1, declLen := declaredSize s.codec.declPct e.1.length, mode := mode,
      elem := 0, bind := bind : CodecStream })
  let (d, s) := freeBytes 2048 s
  let state : CodecStream :=
    { encode := true, handle := k.handle, idx := parts.length, src := d, declLen := 4096, mode := b2n s.codec.compressEn, elem := 0,
      bind := none }
  (vs ++ [state], s)

/-- The codec of a park's stream: the two of the port's wedge by turns. -/
def streamCodec (port idx : Nat) : Nat := 2 * port + idx % 2

/-- The boundary of every step that named the sequence has passed, and the park's effect boundary too (R262). -/
def State.parkDue (s : State) (k : Park) : Bool :=
  k.state == 0 && (s.stepsNaming k.q).isEmpty && !s.seqs.effects.any (fun e => e.eff == .parkStart k.q)

/-- PARK_IMAGE_WRITE: the image is read and its streams are queued; poison ends the park (R370). -/
def parkImage (q : Nat) (errs : List SymErr) (s : State) : State :=
  match s.pun.parks.find? (fun k => k.q == q && s.parkDue k) with
  | none => s
  | some k =>
    let (o, s) := readImage q (addErrs errs s)
    if o.bad.isSome then failPark k s else
    let (vs, s) := imageStreams k (s.modelOf q) o.bytes s
    let s := modPark k.handle (fun k => { k with state := 1, streams := vs.length, saved := s.seq q }) s
    vs.foldl (fun s v => queueStream (streamCodec k.port v.idx) v s) s

/-- PARK_IMAGE_WRITE. -/
def execParkImageWrite (q : Fin 4096) (errs : List SymErr) (s : State) : Host.Outcome State Fault Refusal :=
  .next (whenReleased (parkImage q.val errs) s)

/-- The block of stream i of a park. -/
def Park.block (k : Park) (i : Nat) : Option ParkBlock := k.blocks.find? (fun b => b.idx == i)

/-- The LBA at which block i begins, when every block before it has been coded (R326). -/
def Park.blockLba (k : Park) : Nat → Option Nat
  | 0 => some k.lba
  | i + 1 => match k.blockLba i, k.block i with
    | some a, some b => some (a + b.lbas)
    | _, _ => none

/-- Blocks whose place has become known are written, in order. (DESIGN CHOICE, log entry 35) -/
def writeBlocks (h : Nat) (s : State) : State :=
  match s.park h with
  | none => s
  | some k =>
    (List.range k.streams).foldl (fun s i =>
      match k.block i, k.blockLba i with
      | some b, some a =>
        if b.lba.isSome then s else
        let s := modPark h (fun k => { k with blocks := mapIf (fun b => b.idx == i) (fun b => { b with lba := some a }) k.blocks }) s
        issueBlock k.port 1 h i a b.lbas s
      | _, _ => s) s

/-- CODEC_STREAM_ENCODE: the stream at the head of a codec's queue is coded, or stored raw; its reference stays with a block that
names the bank (R311, R315). -/
def codecEncode (c : Nat) (s : State) : State :=
  match s.codecQueue c with
  | [] => s
  | v :: vs =>
    if !v.encode then s else
    match s.park v.handle with
    | none => setQueue c vs (unbindBank v.bind s)
    | some k =>
      let (blk, raw) := s.encodeBlock (s.parkKey k.tenant) v
      let s := setQueue c vs (if raw then unbindBank v.bind s else s)
      let s := if raw then s.setCodec { s.codec with raw := satAdd 32 s.codec.raw 1 } else s
      let b : ParkBlock :=
        { idx := v.idx, bytes := blk, lba := none, lbas := blk.length / lbaBytes, bind := if raw then none else v.bind, raw := raw,
          acked := false }
      writeBlocks v.handle (modPark v.handle (fun k => { k with blocks := k.blocks ++ [b] }) s)

/-- CODEC_STREAM_ENCODE (R311). -/
def execCodecStreamEncode (codec : Fin 8) (s : State) : Host.Outcome State Fault Refusal :=
  .next (whenReleased (fun s => if s.unitUp 5 codec.val then codecEncode codec.val s else s) s)

/-! ## Durability (R327) -/

/-- PARK_DURABLE: the reply, the deadline, and the LBAs behind the last block; the entry is released at the next boundary. -/
def parkDurable (q : Nat) (s : State) : State :=
  match s.pun.parks.find? (fun k => k.q == q && k.state == 3) with
  | none => s
  | some k =>
    let used := (k.blocks.map (·.lbas)).sum
    let s := complete k.w k.n { done (natLe 8 k.handle ++ natLe 8 (used * lbaBytes)) with flags := k.rawFlag } s
    let s := modPark k.handle (fun k => { k with state := 4, lbas := used, deadline := s.now + k.ttl * 100000000 }) s
    addEffect { w := 16, n := k.n, reply := false, at_ := none, eff := .parkEnd q } s

/-- PARK_DURABLE (R327). -/
def execParkDurable (q : Fin 4096) (s : State) : Host.Outcome State Fault Refusal := .next (whenReleased (parkDurable q.val) s)

/-! ## SEQ_RESUME (R263) -/

/-- What a SEQ_RESUME finds of its handle: live when it was taken, ended (EXPIRED), or consumed or never issued. -/
def State.handleFault (s : State) (t : Taken) : Option Answer :=
  let h := t.at 0x28 8
  match s.park h with
  | some k => if k.state = 4 then (if t.at_ < k.deadline then none else some (ans 0x0304 0)) else some (badState 0x1A)
  | none => some (if s.pun.ended.any (fun e => e.1 == h) then ans 0x0304 0 else badState 0x1A)

/-- A resume that was taken earlier reads the park of a handle. -/
def State.beingRead (s : State) (h : Nat) : Bool := s.pun.resumes.any (fun r => r.handle == h)

/-- Pages that a resume of a saved entry takes: those of its positions and its list page. -/
def State.resumePages (s : State) (q : Nat) (e : SeqEntry) : Nat :=
  let n := ceilDiv e.len (max 1 (s.model e.model).perPage)
  if s.holdsSeq q && n != 0 then n + 1 else 0

/-- The pages of a resuming sequence, place after place. -/
def takeResumePages (q n : Nat) (s : State) : State :=
  if n = 0 then s else
  let s := withListPage q s
  (List.range (n - 1)).foldl (fun s k =>
    match takePage (s.pageHome q k) 1 (tenantKey (s.seq q).tenant) s with
    | some (p, s) => placePage q k p s
    | none => s) s

/-- SEQ_RESUME RESUME: the entry opens in RESUMING with the image's values, its pages are taken, and the park's blocks are read. -/
def seqResume (w : Nat) (t : Taken) (s : State) : State :=
  let q := t.at 0x22 2
  let h := t.at 0x28 8
  if s.beingRead h then s else
  match s.park h with
  | none => checked w t.n [((s.seq q).state == 0, badState 0x10)] (complete w t.n ((s.handleFault t).getD (badState 0x1A))) s
  | some k =>
    let need := s.resumePages q k.saved
    checked w t.n
      [((s.seq q).state == 0, badState 0x10), ((s.handleFault t).isNone, (s.handleFault t).getD (badState 0x1A)),
       (s.keyRoom t.tenant, badState 0x40), (decide (need ≤ s.freePages), noPages (need - s.freePages))] (fun s =>
      let s := giveKey t.tenant (s.modSeq q (fun e => { k.saved with
        state := 4, tenant := t.tenant, outWindow := t.at 0x21 1, pages := [], listPage := none, appends := [], gen := e.gen }))
      let s := startRecord w t.n (takeResumePages q need s)
      let s := modPark h (fun k => { k with reader := some q }) s
      let s := s.setPun { s.pun with resumes := s.pun.resumes ++ [{ q := q, handle := h, w := w, n := t.n, got := [], failed := false }] }
      k.blocks.foldl (fun s b => issueBlock k.port 2 h b.idx (b.lba.getD 0) b.lbas s) s) s

/-- SEQ_RESUME with OP RESUME (R263). -/
def execSeqResumeResume (w : Fin 16) (n : U32) (s : State) : Host.Outcome State Fault Refusal :=
  .next (inOrder 0x35 w.val n.toNat (fun t => t.at 0x20 1 == 0 && s.workStarts) seqResume s)

/-- SEQ_RESUME DROP. -/
def seqDrop (w : Nat) (t : Taken) (s : State) : State :=
  let h := t.at 0x28 8
  if s.beingRead h then s else
  match s.park h, s.handleFault t with
  | some k, none => complete w t.n (done []) (reclaimPark k s)
  | _, a => complete w t.n (a.getD (badState 0x1A)) s

/-- SEQ_RESUME with OP DROP (R263). -/
def execSeqResumeDrop (w : Fin 16) (n : U32) (s : State) : Host.Outcome State Fault Refusal :=
  .next (inOrder 0x35 w.val n.toNat (fun t => t.at 0x20 1 == 1) seqDrop s)

/-- A stored block has been read: it is queued for its codec, with a reference on the bank that its header names (R315). -/
def queueRead (k : Park) (idx : Nat) (b : List Byte) (s : State) : State :=
  queueStream (streamCodec k.port idx)
    { encode := false, handle := k.handle, idx := idx, src := b, declLen := b.length, mode := 0, elem := 0, bind := s.blockBank b } s

/-- CODEC_STREAM_DECODE: the block at the head of a codec's queue is checked and decoded; a corrupt one fails its resume (R313, R317). -/
def codecDecode (c : Nat) (s : State) : State :=
  match s.codecQueue c with
  | [] => s
  | v :: vs =>
    if v.encode then s else
    let s := setQueue c vs (unbindBank v.bind s)
    match s.pun.resumes.find? (fun r => r.handle == v.handle), s.park v.handle with
    | some r, some k =>
      match s.decodeBlock (s.parkKey k.tenant) v.src with
      | .ok d => s.setPun { s.pun with
          resumes := mapIf (fun x => x.handle == v.handle) (fun x => { x with got := x.got ++ [(v.idx, d)] }) s.pun.resumes }
      | .error f => failResume r (punError k.port 4 none (noteCorrupt c v.idx f v.src s))
    | _, _ => s

/-- CODEC_STREAM_DECODE (R313). -/
def execCodecStreamDecode (codec : Fin 8) (s : State) : Host.Outcome State Fault Refusal :=
  .next (whenReleased (fun s => if s.unitUp 5 codec.val then codecDecode codec.val s else s) s)

/-- Writes the KV bytes of an image back into sequence q's pages. -/
def writeImage (q : Nat) (kv : List Byte) (s : State) : State :=
  let e := s.seq q
  let m := s.modelOf q
  (e.pages.zipIdx.foldl (fun (a : List Byte × State) pk =>
    let n := min m.perPage (e.len - pk.2 * m.perPage) * m.kvBytes
    (List.range m.layers).foldl (fun (a : List Byte × State) l =>
      (a.1.drop n, (writePage 5 pk.1.page (l * m.perPage * m.kvBytes) (a.1.take n) a.2).2)) a) (kv, s)).2

/-- RESUME_COMPLETE: the image is loaded, the sequence is READY, and the park is reclaimed (R263). -/
def resumeComplete (q : Nat) (s : State) : State :=
  match s.pun.resumes.find? (fun r => r.q == q) with
  | none => s
  | some r =>
    match s.park r.handle with
    | none => s
    | some k =>
      if r.got.length < k.streams then s else
      let kv := (List.range (k.streams - 1)).flatMap (fun i => ((r.got.find? (fun g => g.1 == i)).map (·.2)).getD [])
      let s := writeImage q kv s
      let s := s.modSeq q (fun e => { e with state := 1 })
      let s := s.setPun { s.pun with resumes := s.pun.resumes.filter (fun x => x.handle != r.handle) }
      complete r.w r.n (done (natLe 4 (s.seq q).len)) (reclaimPark k s)

/-- RESUME_COMPLETE (R263). -/
def execResumeComplete (q : Fin 4096) (s : State) : Host.Outcome State Fault Refusal := .next (whenReleased (resumeComplete q.val) s)

/-! ## Expiry (R328) -/

/-- A park is read by a resume, or named by one that has been taken. -/
def State.parkWanted (s : State) (h : Nat) : Bool :=
  s.beingRead h || s.records.any (fun r => r.2.opcode == 0x35 && r.2.at 0x28 8 == h)

/-- PARK_EXPIRY_SCAN: 100 ms after the last scan, every expired park that no resume is reading is reclaimed. -/
def expiryScan (s : State) : State :=
  let s := s.advanceTo (s.pun.lastScan + msTicks 100)
  let s := s.setPun { s.pun with lastScan := s.now }
  (s.pun.parks.filter (fun k => k.state == 4 && decide (k.deadline ≤ s.now) && !s.parkWanted k.handle)).foldl
    (fun s k => expirePark k s) s

/-- PARK_EXPIRY_SCAN (R328). -/
def execParkExpiryScan (s : State) : Host.Outcome State Fault Refusal := .next (whenReleased expiryScan s)

end Sys2Proof.Machine
end

