-- ==== Sys2Proof/Machine/Plans.lean ====
section
/-! DEFINITION. What a member does with a PLAN: a record that the stem forwards, or a step or chunk of its replica (spec 16, R349, R354,
R410). -/

namespace Sys2Proof.Machine

/-- A forwarded record: it belongs to no window of this module. -/
def forwardedRecord (bytes : List Byte) (s : State) : Taken :=
  { n := fld bytes 4 4, bytes := bytes.take 256, ordinal := s.seqs.boundaryCnt, stamp := s.now, list := [], reserved := [],
    started := false, orphan := true, core := 0, at_ := s.now, order := s.seqs.nextId, formed := none, shown := [], progress := 0 }

/-- SEQ_CLOSE as the stem forwards it: the commit that follows ends it. -/
def closeForwarded (q : Nat) (s : State) : State :=
  if (s.seq q).state = 0 then s
  else addEffect { w := 16, n := 0, reply := false, at_ := none, eff := .close q } (s.modSeq q (fun e => { e with state := 6 }))

/-- A member applies a forwarded record to its own share; more is what stands behind the record's bytes. -/
def applyForwarded (bytes : List Byte) (s : State) : State :=
  let t := forwardedRecord bytes s
  let more := bytes.drop 256
  let toks := wordsOf 4 more
  let inl := (List.range (t.at 0x24 4)).map (fun i => t.at (0x30 + 4 * i) 4)
  match t.opcode with
  | 0x30 => seqOpen 16 t s
  | 0x31 =>
    let st := (s.seq (t.at 0x20 2)).state
    if st = 1 || st = 2 then appendTokens 16 t (if t.at 0x22 1 = 0 then inl else toks) s else s
  | 0x33 => seqCancel 16 t s
  | 0x34 => seqParkAs (some (leNat more)) 16 t s
  | 0x35 => if t.at 0x20 1 = 0 then seqResume 16 t s else seqDrop 16 t s
  | 0x36 => seqTrim 16 t s
  | 0x37 => findPrefix 16 t toks s
  | 0x38 => if t.at 0x20 1 = 0 then pinPrefix 16 t toks s else unpinPrefix 16 t toks s
  | 0x39 => closeForwarded (t.at 0x20 2) s
  | 0x40 => if t.at 0x20 1 = 0 then budgetSet 16 t s else budgetWindow 16 t s
  | 0x41 => samplerSet 16 t s
  | 0x42 => stopSetWith more 16 t s
  | 0x43 => if t.at 0x20 1 = 0 then maskLoadWith more 16 t s else maskFree 16 t s
  | 0x62 => beginCollect { collectOf (fld more 0 1) t s with n := fld more 1 4, answer := (16, 0) } [] s
  | _ => s

/-- A chunk that the stem has given up leaves, and its fills fail. -/
def abandonChunk (id : Nat) (s : State) : State :=
  match s.share id with
  | some h => if h.chunk then failFills h.slots 0x0204 9 (dropShare id s) else s
  | none => s

/-- Fills of some sequences that the stem has failed fail here, and their rows are carried on for nothing. -/
def abandonFills (qs : List Nat) (s : State) : State := qs.foldl (fun s q => failFill q 0x0303 0 s) s

/-- A PLAN takes effect: a forwarded record, the end of a chunk or, under model number 16, of fills, or a step or chunk.
(DESIGN CHOICE, log entry 37) -/
def applyPlan (p : HeldPlan) (s : State) : State :=
  if !p.record.isEmpty then applyForwarded p.record s
  else if p.chunk && p.pairs.isEmpty then abandonChunk p.id s
  else if p.chunk && p.model = 16 then abandonFills (p.pairs.map (·.2)) s
  else planShare p.id p.model p.chunk p.pairs p.srEn p.srKey p.force p.limit s

/-- A PLAN arrives: below ACTIVE and TRIM it is held (R410). -/
def planArrive (p : HeldPlan) (s : State) : State :=
  if s.workStarts && s.vine.plans.isEmpty then applyPlan p s else s.setVine { s.vine with plans := s.vine.plans ++ [p] }

/-- The PLANs held take effect in their order. -/
def releasePlans (s : State) : State :=
  let ps := s.vine.plans
  ps.foldl (fun s p => applyPlan p s) (s.setVine { s.vine with plans := [] })

end Sys2Proof.Machine
end

