-- ==== Sys2Proof/Machine/Punnets.lean ====
section
/-! DEFINITION. Punnet ports: binding, query, retirement, insertion and removal, timeouts, completions and wear (spec 15). -/

namespace Sys2Proof.Machine

/-! ## Binding (R321 to R324) -/

/-- The controller and namespace meet R321. -/
def punnetFits (f : PunnetFacts) : Bool :=
  decide (2 ≤ f.nvmeMajor) && f.namespaceActive && f.lbaBytes == lbaBytes && !f.metadata && !f.protection && decide (256 ≤ f.mqes) &&
    decide (2 ≤ f.ioPairs)

/-- The identity check of R322: the stage code of its first failure. -/
def State.punnetIdFault (s : State) (f : PunnetFacts) : Option Nat :=
  let im := s.runningImage
  match certFault f.certificate 4 16 (imagePunnetKey im) true (imageRevoked im) with
  | some c => some c
  | none => if signs (certKey f.certificate) (padTo 32 f.challenge) f.signature then none else some 0x0B

/-- The fingerprint that a punnet shows. -/
def punnetPrint (f : PunnetFacts) : Nat := fingerprint (certKey f.certificate)

/-- The port is bound (step 5 of R323): its namespace is empty, its ledger seeded. -/
def bindPort (p : Nat) (f : PunnetFacts) (s : State) : State :=
  let s := s.modPun p (fun v => { v with
    wear := 0, fingerprint := punnetPrint f, writtenRead := f.dataUnitsWritten * 512000, writtenSince := 0,
    rated := fld f.certificate 0x38 8, lbas := f.lbas,
    mdts := if f.mdts = 0 then 0 else max 1 (f.mdts / lbaBytes), polledAt := s.now, flash := [], cmds := [], resetAt := none,
    retiring := [] })
  let v := s.punPort p
  let full := v.usedBp = 10000 || f.mediaReadOnly
  let s := s.modPun p (fun v => { v with wear := if full then 3 else v.wearNow })
  setPortState p (if full then 3 else 2) s

/-- PUNNET_BIND. (DESIGN CHOICE, log entry 35) -/
def punnetBind (f : PunnetFacts) (w : Nat) (t : Taken) (s : State) : State :=
  let p := t.at 0x20 1
  let v := s.punPort p
  let want := t.at 0x28 8
  checked w t.n
    [(v.state != 0 && v.width != 0, badState 0x70), (!inRange v.state 2 4, badState 0x71), (punnetFits f, badState 0x72)] (fun s =>
    match s.punnetIdFault f with
    | some c => complete w t.n (ans 0x0401 c) (punError p 5 none (noteSigFail c s))
    | none =>
      checked w t.n [(want == 0 || want == punnetPrint f, badState 0x74)] (fun s =>
        let s := bindPort p f s
        complete w t.n (done (natLe 4 (f.lbas * lbaBytes / 2 ^ 30) ++ natLe 2 (s.punPort p).usedBp ++ natLe 2 0 ++
          natLe 8 (punnetPrint f))) s) s) s

/-- PUNNET_BIND (R323). -/
def execPunnetBind (w : Fin 16) (n : U32) (facts : PunnetFacts) (s : State) : Host.Outcome State Fault Refusal :=
  .next (inOrder 0x70 w.val n.toNat (fun _ => true) (punnetBind facts) s)

/-! ## Query and retirement (R333, R334) -/

/-- PUNNET_QUERY (R334): the state of the port when the record was taken. -/
def execPunnetQuery (w : Fin 16) (n : U32) (s : State) : Host.Outcome State Fault Refusal :=
  .next (onOp 0x71 w.val n.toNat (fun w t s => complete w t.n (done (padTo 20 t.shown)) s) s)

/-- The port enters RETIRING for a record that has ended ended parks. -/
def beginRetire (w : Nat) (t : Taken) (ended : Nat) (s : State) : State :=
  let p := t.at 0x20 1
  setPortState p 4 (startRecord w t.n (s.modPun p (fun v => { v with retiring := v.retiring ++ [(w, t.n, ended)] })))

/-- The state check of PUNNET_RETIRE. -/
def State.retireChecks (s : State) (t : Taken) : List (Bool × Answer) := [((s.punPort (t.at 0x20 1)).works, badState 0x77)]

/-- PUNNET_RETIRE DRAIN. (DEDUCED, log entry 36) -/
def retireDrain (w : Nat) (t : Taken) (s : State) : State :=
  checked w t.n (s.retireChecks t) (fun s => settlePort (t.at 0x20 1) (beginRetire w t 0 s)) s

/-- A SEQ_RESUME taken before t reads a park or is about to. -/
def State.readBefore (s : State) (t : Taken) (h : Nat) : Bool :=
  s.beingRead h || s.records.any (fun r => r.2.opcode == 0x35 && r.2.at 0x28 8 == h && decide (r.2.order < t.order))

/-- PUNNET_RETIRE NOW. (DEDUCED, log entry 36) -/
def retireNow (w : Nat) (t : Taken) (s : State) : State :=
  checked w t.n (s.retireChecks t) (fun s =>
    let p := t.at 0x20 1
    let ends := (s.parksOn p).filter (fun k => k.state == 4 && !s.readBefore t k.handle)
    let flying := (s.parksOn p).filter (fun k => decide (k.state < 4))
    let s := beginRetire w t ends.length s
    let s := flying.foldl (fun s k => failPark k s) s
    settlePort p (ends.foldl (fun s k => endPark k s) s)) s

/-- PUNNET_RETIRE with OP DRAIN (R333). -/
def execPunnetRetireDrain (w : Fin 16) (n : U32) (s : State) : Host.Outcome State Fault Refusal :=
  .next (onRecord 0x72 w.val n.toNat (fun t => t.at 0x21 1 == 0) retireDrain s)

/-- PUNNET_RETIRE with OP NOW (R333). -/
def execPunnetRetireNow (w : Fin 16) (n : U32) (s : State) : Host.Outcome State Fault Refusal :=
  .next (onRecord 0x72 w.val n.toNat (fun t => t.at 0x21 1 == 1) retireNow s)

/-! ## Insertion, removal and failure (R331, R332, R450) -/

/-- PUNNET_INSERT: the link trains, and the port is PRESENT. -/
def punnetInsert (p rate width : Nat) (s : State) : State :=
  if (s.punPort p).state ≠ 0 then s else
  let up := inRange rate 1 6 && [1, 2, 4].contains width
  let s := s.setBoot { s.boot with present := sinsert p s.boot.present }
  setPortState p 1 (s.modPun p (fun v => { v with rate := if up then rate else 0, width := if up then width else 0 }))

/-- PUNNET_INSERT (R450). -/
def execPunnetInsert (port : Fin 4) (rate width : Nat) (s : State) : Host.Outcome State Fault Refusal :=
  .next (whenReleased (punnetInsert port.val rate width) s)

/-- The port leaves service for state st: what was in flight fails, every other park ends, and retirements complete.
(DEDUCED, log entry 36) -/
def closePort (p st : Nat) (s : State) : State :=
  let rs := (s.punPort p).retiring
  let s := endAllParks p (setPortState p st s)
  answerRetires rs (unbindPort p s)

/-- PUNNET_REMOVAL: the port is EMPTY. -/
def punnetRemoval (p : Nat) (s : State) : State :=
  if (s.punPort p).state = 0 then s else
  let s := closePort p 0 (punError p 3 none s)
  let s := s.setBoot { s.boot with present := serase p s.boot.present }
  s.modPun p (fun v => { v with width := 0, rate := 0, wear := 0, writtenRead := 0, writtenSince := 0 })

/-- PUNNET_REMOVAL (R332). -/
def execPunnetRemoval (port : Fin 4) (s : State) : Host.Outcome State Fault Refusal :=
  .next (whenReleased (punnetRemoval port.val) s)

/-- A command of port p. -/
def State.nvme (s : State) (p cid : Nat) : Option NvmeCmd := (s.punPort p).cmds.find? (fun c => c.cid == cid)

/-- PUNNET_CMD_TIMEOUT: 2,000 ms after its issue a command is aborted, and what it carried fails. (DESIGN CHOICE, log entry 15) -/
def cmdTimeout (p cid : Nat) (s : State) : State :=
  match s.nvme p cid with
  | none => s
  | some c =>
    if c.aborted.isSome || (s.punPort p).resetAt.isSome || (s.punPort p).queued c then s else
    let s := s.advanceTo (c.issued + msTicks 2000)
    let s := s.modPun p (fun v => { v with cmds := mapIf (fun x => x.cid == cid) (fun x => { x with aborted := some s.now }) v.cmds })
    failHandle c.handle (punError p 2 none s)

/-- PUNNET_CMD_TIMEOUT (R331). -/
def execPunnetCmdTimeout (port : Fin 4) (cid : Nat) (s : State) : Host.Outcome State Fault Refusal :=
  .next (whenReleased (cmdTimeout port.val cid) s)

/-- PUNNET_ABORT_TIMEOUT: 500 ms after an abort the controller is reset; the commands outstanding are lost. -/
def abortTimeout (p : Nat) (s : State) : State :=
  match (s.punPort p).cmds.findSome? (fun c => c.aborted) with
  | none => s
  | some t =>
    if (s.punPort p).resetAt.isSome then s else
    let s := s.advanceTo (t + msTicks 500)
    let lost := (s.punPort p).cmds
    let s := s.modPun p (fun v => { v with cmds := [], resetAt := some s.now })
    lost.foldl (fun s c => if c.aborted.isSome then s else failHandle c.handle (punError p 2 none s)) s

/-- PUNNET_ABORT_TIMEOUT (R331). -/
def execPunnetAbortTimeout (port : Fin 4) (s : State) : Host.Outcome State Fault Refusal :=
  .next (whenReleased (abortTimeout port.val) s)

/-- PUNNET_CONTROLLER_READY: within 10 s of its reset; commands that waited are issued. -/
def controllerReady (p : Nat) (s : State) : State :=
  match (s.punPort p).resetAt with
  | none => s
  | some t =>
    if t + msTicks 10000 ≤ s.now then s else
    s.modPun p (fun v => { v with resetAt := none, cmds := v.cmds.map (fun c => { c with issued := s.now }) })

/-- PUNNET_CONTROLLER_READY (R331). -/
def execPunnetControllerReady (port : Fin 4) (s : State) : Host.Outcome State Fault Refusal :=
  .next (whenReleased (controllerReady port.val) s)

/-- PUNNET_READY_TIMEOUT: 10 s after the reset the port is FAILED. -/
def readyTimeout (p : Nat) (s : State) : State :=
  match (s.punPort p).resetAt with
  | none => s
  | some t => closePort p 6 (s.advanceTo (t + msTicks 10000))

/-- PUNNET_READY_TIMEOUT (R331). -/
def execPunnetReadyTimeout (port : Fin 4) (s : State) : Host.Outcome State Fault Refusal :=
  .next (whenReleased (readyTimeout port.val) s)

/-! ## Completions (R320) and wear (R329, R330) -/

/-- A Write has completed: the block is on the flash; after the last one Flush follows (R327). -/
def writeDone (p : Nat) (c : NvmeCmd) (s : State) : State :=
  match s.park c.handle with
  | none => s
  | some k =>
    match k.block c.idx with
    | none => s
    | some b =>
      let s := s.modPun p (fun v => { v with flash := tset [] v.flash (b.lba.getD c.lba) b.bytes })
      let s := modPark c.handle (fun k => { k with blocks := mapIf (fun b => b.idx == c.idx) (fun b => { b with acked := true }) k.blocks }) s
      match s.park c.handle with
      | some k =>
        if k.state == 1 && k.blocks.length == k.streams && k.blocks.all (·.acked) then
          issueCmd p 0 c.handle 0 0 0 (modPark c.handle (fun k => { k with state := 2 }) s)
        else s
      | none => s

/-- A command has completed with success: the block is done when no other command carries a part of it. -/
def cmdDone (p : Nat) (c : NvmeCmd) (s : State) : State :=
  if (s.punPort p).cmds.any (fun x => x.opcode == c.opcode && x.handle == c.handle && x.idx == c.idx) then s else
  match c.opcode, s.park c.handle with
  | 1, _ => writeDone p c s
  | 0, some k => if k.state = 2 then modPark c.handle (fun k => { k with state := 3 }) s else s
  | 2, some k =>
    if s.beingRead c.handle then
      queueRead k c.idx (tget [] (s.punPort p).flash (((k.block c.idx).bind (·.lba)).getD c.lba)) s
    else s
  | _, _ => s

/-- NVME_COMPLETION: a command completes with its status field. (DESIGN CHOICE, log entry 35) -/
def nvmeCompletion (p cid : Nat) (status : BitVec 15) (s : State) : State :=
  match s.nvme p cid with
  | none => s
  | some c =>
    if (s.punPort p).resetAt.isSome || (s.punPort p).queued c then s else
    let s := s.modPun p (PunPort.leave s.now (fun x => x.cid != cid))
    if c.aborted.isSome then s
    else if status.toNat % 2048 = 0 then cmdDone p c s
    else failHandle c.handle (punError p 1 (some status.toNat) s)

/-- NVME_COMPLETION (R320). -/
def execNvmeCompletion (port : Fin 4) (cid : Nat) (status : BitVec 15) (s : State) : Host.Outcome State Fault Refusal :=
  .next (whenReleased (nvmeCompletion port.val cid status) s)

/-- WEAR_POLL, 60 s after the last SMART read: the ledger takes the larger of the punnet's count and its own (R329).
(DESIGN CHOICE, log entry 15, DESIGN CHOICE, log entry 35) -/
def wearPoll (p units : Nat) (mediaReadOnly : Bool) (s : State) : State :=
  if !(s.punPort p).works then s else
  let s := s.advanceTo ((s.punPort p).polledAt + msTicks 60000)
  let s := s.modPun p (fun v => { v with writtenRead := max (units * 512000) v.written, writtenSince := 0, polledAt := s.now })
  if mediaReadOnly && (s.punPort p).wear ≠ 3 then
    let s := msix 18 (logErr 0x50 8 p 0 (if (s.punPort p).state = 2 then 3 else (s.punPort p).state)
      (s.modPun p (fun v => { v with wear := 3 })))
    s.modPun p (fun v => { v with state := if v.state = 2 then 3 else v.state })
  else noteWear p s

/-- WEAR_POLL (R329). -/
def execWearPoll (port : Fin 4) (dataUnitsWritten : Nat) (mediaReadOnly : Bool) (s : State) : Host.Outcome State Fault Refusal :=
  .next (whenReleased (wearPoll port.val dataUnitsWritten mediaReadOnly) s)

end Sys2Proof.Machine
end

