-- ==== Sys2Proof/Machine/PowerStates.lean ====
section
/-! DEFINITION. POWER_SET and the moves between sub-states (spec 19, R406 to R411). -/

namespace Sys2Proof.Machine

/-! ## Sub-states (R406, R407) -/

/-- The sub-states of a state, shallowest first. -/
def subsOf (state : Nat) : List Nat :=
  match state with
  | 2 => [0, 1, 2]
  | 3 => [0, 1]
  | _ => [0]

/-- The target sub-state of a state for a next event (R407): the deepest whose entry and wake fit, or the shallowest. -/
def chooseSub (state nextUs : Nat) : Nat :=
  let fits := fun b => nextUs = 0xFFFFFFFF || decide ((entryWake state b).1 + (entryWake state b).2 ≤ nextUs)
  (((subsOf state).filter fits).getLast?).getD 0

/-- RESULT of POWER_SET for a sub-state. -/
def powerResult (state sub : Nat) : List Byte := natLe 1 state ++ natLe 1 sub ++ natLe 2 0 ++ natLe 4 (entryWake state sub).2

/-- The tick at which the module leaves the target on its own (R407). -/
def wakeTick (taken state sub nextUs : Nat) : Option Nat :=
  if nextUs = 0xFFFFFFFF || sub = 0 then none
  else some (taken + usTicks (nextUs - ((entryWake state sub).2 - (entryWake state 0).2)))

/-! ## What the sub-states do (R406, R409, R410, R418) -/

/-- Into D1: engine-local and accumulator memory, and what the Zest sections hold in flight, are lost; prefetches are discarded. Firmware
restores the Zest banks from their images before any job starts again, so that they read as they stood (R409). -/
def enterGated (s : State) : State :=
  let s := s.setPress { s.press with
    engines := s.press.engines.map (fun e => (e.1, { e.2 with queue := [], groups := [] })) }
  let s := s.setDrupe { s.drupe with
    engines := s.drupe.engines.map (fun e => (e.1, { e.2 with scaleBank := 0, scaleLayer := none })) }
  let s := s.setZest { s.zest with jobs := [] }
  s.setSeqs { s.seqs with steps := mapIf (fun p => p.state == 1) (fun p => { p with state := 0 }) s.seqs.steps }

/-- Every stack in self-refresh for the power state, or out of it. -/
def setSelfRefresh (on : Bool) (s : State) : State :=
  (List.range 16).foldl (fun s i => s.modStack i (fun v => { v with powerSr := on })) s

/-- The leases for which p holds are timed anew from now on: their holders have come back (R409). -/
def restartLeases (p : Lease → Bool) (s : State) : State :=
  s.setCtl { s.ctl with leases := mapIf p (fun l => { l with renewed := s.now }) s.ctl.leases }

/-- Stone cores 1 to 7 go into retention, or come out of it. -/
def retainCores (on : Bool) (s : State) : State :=
  (List.range 7).foldl (fun s i => s.modCore (i + 1) (fun v =>
    if on && v.state = 1 then { v with state := 4 }
    else if !on && v.state = 4 then { v with state := 1, lastBeat := s.now } else v)) s

/-- Vine ports off. -/
def vineOff (s : State) : State := (List.range 12).foldl (fun s p => s.modVinePort p (fun v => v.down s.now)) s

/-- Every punnet is retired as by PUNNET_RETIRE NOW. -/
def retireAll (s : State) : State :=
  (List.range 4).foldl (fun s p =>
    if !(s.punPort p).works then s
    else settlePort p (endAllParks p (setPortState p 4 s))) s

/-- The module moves from one depth to another: each boundary that it crosses has its effect. -/
def crossDepth (a b : Nat) (s : State) : State :=
  let down := fun d => decide (a < d) && decide (d ≤ b)
  let up := fun d => decide (b < d) && decide (d ≤ a)
  let s := if down 3 then enterGated s else s
  let s := if down 4 then setSelfRefresh true s else s
  let s := if down 5 then retainCores true s else s
  let s := if down 6 then vineOff s else s
  let s := if down 7 then retireAll s else s
  let s := if up 5 then restartLeases (fun l => l.cls != 5 && l.holder != 0) (retainCores false s) else s
  let s := if up 4 then setSelfRefresh false s else s
  if up 3 then restartLeases (fun l => l.cls == 1 || l.cls == 5) s else s

/-- The time in µs that a move takes from one sub-state to another, by the differences of entry and wake (R406). -/
def moveTime (a b : Nat × Nat) : Nat :=
  let x := entryWake a.1 a.2
  let y := entryWake b.1 b.2
  if depth a.1 a.2 ≤ depth b.1 b.2 then y.1 - x.1 else x.2 - y.2

/-- The time that the present move takes in all. -/
def moveUs (v : Power) : Nat := moveTime (v.state, v.sub) (v.target, v.targetSub)

/-- The sub-states other than O0, whose entry takes the punnets' shutdown besides (R406). -/
def substates : List (Nat × Nat) := [(0, 0), (1, 0), (2, 0), (2, 1), (2, 2), (3, 0), (3, 1)]

/-- The sub-state that a move has reached at tick t: the last on its way to the target whose time has passed (R411). -/
def Power.soFar (v : Power) (t : Nat) : Nat × Nat :=
  let a := v.depthNow
  let b := v.depthTarget
  let deeper := decide (a ≤ b)
  let ahead := fun (x : Nat × Nat) =>
    let d := depth x.1 x.2
    (if deeper then decide (a < d) && decide (d ≤ b) else decide (b ≤ d) && decide (d < a)) &&
      decide (v.takenAt + usTicks (moveTime (v.state, v.sub) x) ≤ t)
  let way := substates.filter ahead
  ((if deeper then way.getLast? else way.head?)).getD (v.state, v.sub)

/-- A move under way stops where it has come to at tick t (R411). -/
def stopMove (t : Nat) (s : State) : State :=
  if !s.pwr.transit || !s.pwr.descending then s else
  let x := s.pwr.soFar t
  let s := crossDepth s.pwr.depthNow (depth x.1 x.2) s
  s.setPwr { s.pwr with state := x.1, sub := x.2 }

/-! ## POWER_SET (R407, R411) -/

/-- POWER_SET: the target is set; an earlier one in progress completes with the sub-state reached so far (R411). -/
def powerSet (w : Nat) (t : Taken) (s : State) : State :=
  let st := t.at 0x20 1
  let next := t.at 0x24 4
  checked w t.n [(decide (st < 3) || s.vine.state == 0, badState 0x90)] (fun s =>
    let s := stopMove t.at_ s
    let s := match s.pwr.record with
      | some r => complete r.1 r.2 (done (powerResult s.pwr.state s.pwr.sub)) s
      | none => s
    let sub := chooseSub st next
    let s := startRecord w t.n s
    s.setPwr { s.pwr with
      target := st, targetSub := sub, transit := true, record := some (w, t.n), takenAt := t.at_, nextEventUs := next,
      wakeAt := wakeTick t.at_ st sub next, descending := decide (st ≤ 1) || decide (depth st sub ≤ s.pwr.depthNow) }) s

/-- POWER_SET (R407). -/
def execPowerSet (w : Fin 16) (n : U32) (s : State) : Host.Outcome State Fault Refusal :=
  .next (onOp 3 w.val n.toNat powerSet s)

/-! ## Descent (R408) -/

/-- Work that a descent waits for is in progress. -/
def State.working (s : State) : Bool :=
  s.seqs.steps.any (fun p => p.state == 2) || !s.seqs.chunks.isEmpty || s.vine.steps.any (fun h => h.planned && !h.fin) ||
  s.pips.any (fun k => k.2.runs.any (fun r => r.2.state == 2 || r.2.state == 3)) || !s.vine.collects.isEmpty ||
  s.pun.parks.any (fun k => decide (k.state < 4)) || !s.pun.resumes.isEmpty ||
  s.records.any (fun r => r.2.opcode == 6)

/-- POWER_DESCEND: the waits are over, and the module begins to descend. -/
def powerDescend (s : State) : State :=
  if !s.pwr.transit || s.pwr.descending || s.working then s
  else s.setPwr { s.pwr with descending := true, takenAt := max s.pwr.takenAt s.now }

/-- POWER_DESCEND (R408). -/
def execPowerDescend (s : State) : Host.Outcome State Fault Refusal := .next (whenReleased powerDescend s)

/-- POWER_SUBSTATE_REACHED: the target is reached, and the record that commanded it completes. -/
def substateReached (s : State) : State :=
  if !s.pwr.transit || !s.pwr.descending then s else
  let s := s.advanceTo (s.pwr.takenAt + usTicks (moveUs s.pwr))
  let s := crossDepth s.pwr.depthNow s.pwr.depthTarget s
  let v := s.pwr
  let s := s.setPwr { v with state := v.target, sub := v.targetSub, transit := false, record := none }
  let s := if v.target ≤ 1 then releasePlans s else s
  match v.record with
  | some r => complete r.1 r.2 (done (powerResult v.target v.targetSub)) s
  | none => s

/-- POWER_SUBSTATE_REACHED (R407). -/
def execPowerSubstateReached (s : State) : Host.Outcome State Fault Refusal := .next (whenReleased substateReached s)

/-- POWER_SELF_WAKE: the module begins to leave its target for the shallowest sub-state; a descent that still waits by R408 goes on waiting,
and ends there. -/
def selfWake (s : State) : State :=
  match s.pwr.wakeAt with
  | none => s
  | some t =>
    let s := stopMove t (s.advanceTo t)
    s.setPwr { s.pwr with targetSub := 0, transit := true, descending := s.pwr.descending || !s.pwr.transit, takenAt := t, wakeAt := none }

/-- POWER_SELF_WAKE (R407). -/
def execPowerSelfWake (s : State) : Host.Outcome State Fault Refusal := .next (whenReleased selfWake s)

end Sys2Proof.Machine
end

