-- ==== Sys2Proof/Machine/Steps.lean ====
section
/-! DEFINITION. Decode steps and prompt chunks: taking a STEP, HEADING, formation, the layers, the boundary, holds for quarantined
blocks and their repair (spec 01, 08, 11, 13, 17). -/

namespace Sys2Proof.Machine

/-! ## STEP (R286 to R289) -/

/-- A step as its record makes it. -/
def newStep (w : Nat) (t : Taken) (s : State) : Step :=
  { id := t.order, w := w, n := t.n, group := t.at 0x20 2, model := t.at 0x22 1, dest := t.at 0x30 8, state := 0,
    slots := t.list.map (fun q => s.slotOf q 0 0), cap := Captured.none, batch := 0, layer := 0, started := false, fault := none,
    hold := none, wideLayers := 0, customer := (s.seq (t.list.headD 0)).customer, toks := none }

/-- The step is QUEUED. -/
def queueStep (w : Nat) (t : Taken) (s : State) : State :=
  startRecord w t.n (s.setSeqs { s.seqs with steps := s.seqs.steps ++ [newStep w t s] })

/-- STEP (R288): its output entries are reserved since its taking (R81), where they were never to be had it is rejected (R82). Where a
sequence that it names was opened anew in between, the reservation follows first. (DESIGN CHOICE, log entry 53) -/
def stepRecord (w : Nat) (t : Taken) (s : State) : State :=
  match s.stepFault w t with
  | some a => complete w t.n a s
  | none =>
    let rs := s.stepReserve t.list
    let never := if t.shown.isEmpty && rs != t.reserved then s.stepOutFault t.list else t.shown
    if !never.isEmpty then complete w t.n { badState 0x33 with result := never } s
    else if rs = t.reserved then queueStep w t s
    else
      let s1 := releaseOutput t.reserved s
      if !s1.stepOutRoom t.list then s
      else queueStep w t (modRecord w t.n (fun t => { t with reserved := rs }) (reserveOutput rs s1))

/-- STEP. -/
def execStep (w : Fin 16) (n : U32) (s : State) : Host.Outcome State Fault Refusal :=
  .next (inOrder 0x32 w.val n.toNat (fun _ => true) stepRecord s)

/-! ## HEADING (R38, R40, R290) -/

/-- The step may enter HEADING: it is the next of its group, no other step of the group is HEADING, and with PREFETCH_EN 0 every
earlier step of the group is BOUNDED. -/
def State.mayHead (s : State) (p : Step) : Bool :=
  let mine := s.seqs.steps.filter (fun x => x.group == p.group)
  p.state == 0 && !mine.any (fun x => x.state == 1) && !mine.any (fun x => x.state == 0 && decide (x.id < p.id)) &&
    (s.seqs.prefetchEn || !mine.any (fun x => decide (x.id < p.id)))

/-- STEP_HEADING. (DESIGN CHOICE, log entry 12) -/
def stepHeading (id : Nat) (s : State) : State :=
  match s.step id with
  | none => s
  | some p => if s.workStarts && s.mayHead p then modStep id (fun p => { p with state := 1 }) s else s

/-- STEP_HEADING. -/
def execStepHeading (id : Nat) (s : State) : Host.Outcome State Fault Refusal := .next (stepHeading id s)

/-! ## Formation (R23, R25, R289 to R291) -/

/-- Two steps name one opening of a sequence entry. -/
def sharesSeq (p x : Step) : Bool := p.slots.any (fun a => x.slots.any (fun b => a.q == b.q && a.gen == b.gen))

/-- Every earlier step that names one of its sequences is BOUNDED, and every earlier step of its group has formed. -/
def State.canForm (s : State) (p : Step) : Bool :=
  decide (p.state < 2) && s.seqs.steps.all (fun x => decide (p.id ≤ x.id) || (!sharesSeq p x && (x.group != p.group || x.state == 2)))

/-- FORMED steps that count against MAX_INFLIGHT for a step (R23, R354): those of its replica in a cascade. (DEDUCED, log entry 40) -/
def State.inflight (s : State) (p : Step) : Nat :=
  let r := fun (x : Step) => (x.slots.headD (s.slotOf 0 0 0)).q % s.shapeR
  (s.seqs.steps.filter (fun x => x.state == 2 && (!s.inCascade || r x == r p))).length

/-- Steps that may be FORMED at once: one while a member of the replica is held for a HOT stack (R358). -/
def State.inflightLimit (s : State) (p : Step) : Nat :=
  let r := (p.slots.headD (s.slotOf 0 0 0)).q % s.shapeR
  if s.inCascade && s.vine.held.any (fun h => s.replicaOf h.1 == r) then min 1 s.seqs.maxInflight else s.seqs.maxInflight

/-- The step may form now, in its turn (R290). -/
def State.mayForm (s : State) (p : Step) : Bool :=
  p.state == 1 && s.canForm p && decide (s.inflight p < s.inflightLimit p) &&
    !s.seqs.steps.any (fun x => decide (x.id < p.id) && s.canForm x && decide (s.inflight x < s.inflightLimit x) &&
      (x.state == 1 || s.mayHead x))

/-- The page that position LEN of sequence q needs, reserved (R25, R248, R249, R460); none when the pool cannot give it.
(DEDUCED, log entry 18) -/
def reserveNext (q : Nat) (s : State) : Option State :=
  let e := s.seq q
  let k := e.len / max 1 (s.modelOf q).perPage
  if s.inCascade && s.vine.lacking.contains q then none
  else if !s.holdsSeq q || !s.needsPage q e.len then some s
  else match e.appends.findSome? (fun a => a.reserved.find? (fun r => r.1 == k)) with
  | some (_, p) =>
    some (placePage q k p (s.modSeq q (fun e => { e with
      appends := e.appends.map (fun a => { a with reserved := a.reserved.filter (fun r => r.1 != k) }) })))
  | none =>
    if s.freePages < 1 + b2n e.listPage.isNone then none
    else
      let s := withListPage q s
      (takePage (s.pageHome q k) 1 (tenantKey e.tenant) s).map (fun r => placePage q k r.1 r.2)

/-- The outcome of one slot at formation (R291), and the slot as it forms. (DEDUCED, log entry 24) -/
def formSlot (a : List StepSlot × State) (x : StepSlot) : List StepSlot × State :=
  let s := a.2
  let e := s.seq x.q
  let left := fun o => (a.1 ++ [{ x with outcome := o }], s)
  if e.gen ≠ x.gen || e.state = 0 then left 9
  else if e.state = 5 then left 3
  else if e.state = 3 then left 4
  else if e.faulted then left 8
  else if e.stopped || e.pending.isNone then left 2
  else if s.exhausted e.customer s.now then left 5
  else if e.maxLen ≤ e.len then left 7
  else match reserveNext x.q s with
  | none => left 6
  | some s => (a.1 ++ [s.slotOf x.q e.len (e.pending.getD 0)], s)

/-- A step forms: its slots' outcomes, its pages and its captured settings; with nothing to run, or for a suspect model, its null
boundary follows at once (R293, R376), behind the early edge that its passing through FORMED calls for (R302).
(DEDUCED, log entry 22) -/
def formStep (p : Step) (s : State) : State :=
  let (slots, s) := p.slots.foldl formSlot ([], s)
  let live := slots.filter (fun e => e.outcome == 13)
  let cap := s.capture p.model (live.filterMap (fun e => e.sampler.mask))
  let p := { p with state := 2, slots := slots, batch := live.length, cap := cap }
  let s := modStep p.id (fun _ => p) s
  if bit s.mem.suspect p.model then nullBoundary p 0x0301 0xFFFFFFFF (earlyEdge s)
  else if live.isEmpty then boundary (some p) true [] (earlyEdge s)
  else if s.vine.state = 3 then
    let pairs := (slots.zipIdx.filter (fun e => e.1.outcome == 13)).map (fun e => (e.2, e.1.q))
    planReplica p.id p.model false pairs cap s
  else s

/-- STEP_FORM. -/
def stepForm (id : Nat) (s : State) : State :=
  match s.step id with
  | none => s
  | some p => if s.workStarts && s.mayForm p then formStep p s else s

/-- STEP_FORM. -/
def execStepForm (id : Nat) (s : State) : Host.Outcome State Fault Refusal := .next (stepForm id s)

/-! ## Layers (R26, R27, R32) -/

/-- What a stop does to a FORMED step. -/
def stopStep (p : Step) (e : Stop) (layer : Nat) (s : State) : State :=
  let f := fun s => faultStep p.id (e.status layer).1 (e.status layer).2 s
  match e with
  | .hold b => if s.holdOver b then f s else modStep p.id (fun p => { p with hold := some (b, layer) }) s
  | .kv bad => f (markFaulted (p.slots.filter (fun x => x.outcome == 13)) bad s)
  | _ => f s

/-- The next layer of a FORMED step that this module runs alone. An uncorrectable word of its own memories ends the step at the layer,
before the layer has written anything (R177, R233, R371). (DEDUCED, log entry 25, DESIGN CHOICE, log entry 44) -/
def runStep (p : Step) (errs : List SymErr) (own : OwnReads) (s : State) : State :=
  if p.state ≠ 2 || p.fault.isSome || (s.model p.model).layers < p.layer then s else
  match p.hold with
  | some (b, l) => if s.holdOver b then faultStep p.id 0x0301 l s else s
  | none =>
    if !s.enginesReady p.cap p.batch || !s.layerOpen p.model p.cap p.layer p.batch then s else
    let s := noteCorrected own.corrected (addErrs errs s)
    match own.bad with
    | some f => faultStep p.id 0x0303 p.layer (ownFault p.layer f s)
    | none =>
    match runSlots (s.layerIn p.model p.cap p.layer p.batch false) (p.slots.filter (fun x => x.outcome == 13)) s with
    | (.ok (es, wide), s) => modStep p.id (fun p => { p with
        started := true, slots := p.slots.map (fun x => (es.find? (fun e => e.q == x.q)).getD x), layer := p.layer + 1,
        wideLayers := p.wideLayers + b2n wide }) (pipLayerDone (s.layerIn p.model p.cap p.layer p.batch false) s)
    | (.error (e, l, wide), s) => stopStep p e l (modStep p.id (fun p => { p with wideLayers := p.wideLayers + b2n wide }) s)

/-- STEP_LAYER: the next layer of a step, or of this member's share of it. (DESIGN CHOICE, log entry 31) -/
def stepLayer (id : Nat) (errs : List SymErr) (own : OwnReads) (s : State) : State :=
  match s.share id with
  | some _ => runShare id errs own s
  | none => match s.step id with
    | some p => if s.inCascade then s else runStep p errs own s
    | none => s

/-- STEP_LAYER. -/
def execStepLayer (id : Nat) (errs : List SymErr) (own : OwnReads) (s : State) : Host.Outcome State Fault Refusal :=
  .next (whenReleased (stepLayer id errs own) s)

/-! ## The boundary (R34, R37) -/

/-- What the sampling member reported, by slot. -/
def reportedPicks (p : Step) (toks : List SlotToken) : List SlotPick :=
  p.slots.zipIdx.map (fun e =>
    match toks.find? (fun t => t.slot == e.2) with
    | some t => { token := if t.token = 0xFFFFFFFF then none else some t.token.toNat, logprob := t.logprob,
                  stop := if p.cap.perStep then none else some (t.stopReason, t.stopIndex) }
    | none => { token := none, logprob := 0, stop := none })

/-- STEP_BOUNDARY: the commit, or the null boundary of a step that a fault or an ended hold has stopped. -/
def stepBoundary (id : Nat) (s : State) : State :=
  match s.step id with
  | none => s
  | some p =>
    if p.state ≠ 2 then s
    else if p.fault.isSome then boundary (some p) true [] s
    else match p.hold, p.toks with
    | some (b, l), _ => if s.holdOver b then nullBoundary p 0x0301 l s else s
    | none, some toks => boundary (some p) false (reportedPicks p toks) s
    | none, none =>
      if !s.inCascade && decide ((s.model p.model).layers < p.layer) && s.kindsUp [4] then
        boundary (some p) false (s.picks p.model p.cap p.slots) s
      else s

/-- STEP_BOUNDARY. -/
def execStepBoundary (id : Nat) (s : State) : Host.Outcome State Fault Refusal := .next (whenReleased (stepBoundary id) s)

/-! ## Prompt chunks (R194, R462) -/

/-- The queued appends of model m that have begun and have rows left, in the order of their records. -/
def State.promptQueue (s : State) (m : Nat) : List (Nat × Append) :=
  let l := s.seqs.entries.filterMap (fun e =>
    if e.2.model = m then (e.2.appends.head?.filter (fun a => a.begun && decide (a.given < a.rows.length))).map (fun a => (e.1, a))
    else none)
  let key := fun (x : Nat × Append) => ((s.record x.2.w x.2.n).map (·.order)).getD 0
  l.foldl (fun acc x => acc.takeWhile (fun y => decide (key y ≤ key x)) ++ [x] ++ acc.dropWhile (fun y => decide (key y ≤ key x))) []

/-- Up to room rows of a queue: sequence, index within its fill. -/
def chunkRows (room : Nat) : List (Nat × Append) → List (Nat × Nat)
  | [] => []
  | (q, a) :: rest =>
    let n := min room (a.rows.length - a.given)
    (List.range n).map (fun i => (q, a.given + i)) ++ chunkRows (room - n) rest

/-- CHUNK_START (R194): up to 256 queued rows of a model; in a cascade the stem starts it for one replica.
(DESIGN CHOICE, log entry 31) -/
def chunkStart (m : Nat) (s : State) : State :=
  let queue := s.promptQueue m
  let r := ((queue.head?).map (fun x => x.1 % s.shapeR)).getD 0
  let queue := if s.inCascade then queue.filter (fun x => x.1 % s.shapeR == r) else queue
  let picked := chunkRows 256 queue
  if !s.workStarts || (s.inCascade && s.vine.state != 3) || picked.isEmpty || !s.pressIn 1 then s else
  let rows := picked.map (fun x =>
    match (s.seq x.1).appends with
    | a :: _ => s.slotOf x.1 (a.len0 + x.2) (a.rows.getD x.2 0)
    | [] => s.slotOf x.1 0 0)
  if bit s.mem.suspect m then failFills rows 0x0301 0xFFFFFFFF s else
  let s := picked.foldl (fun s x => s.modSeq x.1 (fun e => { e with appends := match e.appends with
    | a :: as => { a with given := a.given + 1 } :: as
    | [] => [] })) s
  let c : Chunk := { id := s.seqs.nextId, model := m, rows := rows, cap := s.capture m [], layer := 0, hold := none }
  let s := s.setSeqs { s.seqs with chunks := s.seqs.chunks ++ [c], nextId := s.seqs.nextId + 1 }
  if s.inCascade then planReplica c.id m true (rows.map (fun e => (e.len, e.q))) c.cap s else s

/-- CHUNK_START. -/
def execChunkStart (model : Fin 16) (s : State) : Host.Outcome State Fault Refusal := .next (chunkStart model.val s)

/-- A chunk leaves. -/
def dropChunk (id : Nat) (s : State) : State := s.setSeqs { s.seqs with chunks := s.seqs.chunks.filter (fun c => c.id != id) }

/-- A chunk replaced. -/
def setChunk (c : Chunk) (s : State) : State :=
  s.setSeqs { s.seqs with chunks := mapIf (fun x => x.id == c.id) (fun _ => c) s.seqs.chunks }

/-- The layers of a chunk, one after another, with at most fuel runs. A poisoned KV read fails the fills of its sequences and the layer
runs on for the others. -/
def runChunk : Nat → Chunk → State → State
  | 0, _, s => s
  | fuel + 1, c, s =>
    if (s.model c.model).layers ≤ c.layer then countRows c.rows (dropChunk c.id s) else
    match runSlots (s.layerIn c.model c.cap c.layer c.rows.length true) c.rows s with
    | (.ok (es, _), s) =>
      let c := { c with rows := es, layer := c.layer + 1 }
      runChunk fuel c (setChunk c s)
    | (.error (.hold b, l, _), s1) =>
      if s1.holdOver b then failFills c.rows 0x0301 l (dropChunk c.id s1) else setChunk { c with hold := some (b, l) } s1
    | (.error (.kv bad, l, _), s1) =>
      let hit := bad.filterMap (fun b => (c.rows[b.1]?).map (·.q))
      let s2 := failFills (c.rows.filter (fun e => hit.contains e.q)) 0x0303 l (markFaulted c.rows bad (restoreCounts s s1))
      let c := { c with rows := mapIf (fun e => hit.contains e.q) (fun e => { e with outcome := 1 }) c.rows }
      runChunk fuel c (setChunk c s2)
    | (.error (e, l, _), s1) => failFills c.rows (e.status l).1 (e.status l).2 (dropChunk c.id s1)

/-- A chunk that meets an uncorrectable word of the module's own memories is discarded and re-queued (R177, R233, R371, R462): it runs
again from layer 0 under the settings then captured, and no fill fails. (DESIGN CHOICE, log entry 44) -/
def requeueChunk (c : Chunk) (f : OwnFault) (s : State) : State :=
  setChunk { c with cap := s.capture c.model [], layer := 0, hold := none } (ownFault c.layer f s)

/-- A chunk runs on from its layer, or is discarded and re-queued there. (DESIGN CHOICE, log entry 44) -/
def chunkOn (fuel : Nat) (c : Chunk) (own : OwnReads) (s : State) : State :=
  match (if (s.model c.model).layers ≤ c.layer then none else own.bad) with
  | some f => requeueChunk c f (noteCorrected own.corrected s)
  | none => runChunk fuel c (noteCorrected own.corrected s)

/-- CHUNK_COMPLETE: the chunk runs to its end, to a fault or to a hold. It waits for earlier chunks with rows of the same sequences.
(DEDUCED, log entry 25, DESIGN CHOICE, log entry 31) -/
def chunkComplete (id : Nat) (errs : List SymErr) (own : OwnReads) (s : State) : State :=
  match s.share id, s.seqs.chunks.find? (fun c => c.id == id) with
  | some h, _ =>
    (List.range (if own.bad.isSome then 1 else s.shareEnd h + 1)).foldl (fun s i =>
      runShare id (if i = 0 then errs else []) (if i = 0 then own else OwnReads.clean) s) s
  | none, none => s
  | none, some c =>
    let earlier := s.seqs.chunks.any (fun x => decide (x.id < id) && x.rows.any (fun a => c.rows.any (fun b => a.q == b.q)))
    if s.inCascade || earlier || !s.pressIn 1 || !s.kindsUp [2, 3, 6] ||
      !(List.range (s.model c.model).layers).all (fun l => s.layerOpen c.model c.cap l 256) then s else
    let fuel := (s.model c.model).layers + c.rows.length + 1
    match c.hold with
    | none => chunkOn fuel c own (addErrs errs s)
    | some (b, l) =>
      if (s.quarSlot b).isNone then chunkOn fuel { c with hold := none } own (addErrs errs s)
      else if s.holdOver b then failFills c.rows 0x0301 l (dropChunk id s) else s

/-- CHUNK_COMPLETE. -/
def execChunkComplete (id : Nat) (errs : List SymErr) (own : OwnReads) (s : State) : Host.Outcome State Fault Refusal :=
  .next (whenReleased (chunkComplete id errs own) s)

/-! ## The deadline and the repair of a quarantined block (R373, R375) -/

/-- The tick at which REPAIR_MS has passed for a block. -/
def State.repairTick (s : State) (b : Nat) : Nat :=
  match s.quarSlot b with
  | some (_, q) => q.stamp + msTicks s.log.repairMs
  | none => s.now

/-- REPAIR_DEADLINE: what holds for a block ends with WEIGHT_FAULT. (DESIGN CHOICE, log entry 15, DEDUCED, log entry 25) -/
def repairDeadline (id : Nat) (s : State) : State :=
  match s.step id, s.share id, s.seqs.chunks.find? (fun c => c.id == id) with
  | some { hold := some (b, l), .. }, _, _ =>
    let s := s.advanceTo (s.repairTick b)
    (s.step id).elim s (fun p => nullBoundary p 0x0301 l s)
  | _, some { hold := some (b, l), .. }, _ =>
    let s := s.advanceTo (s.repairTick b)
    (s.share id).elim s (fun h => faultShare h 0x0301 l 0 s)
  | _, _, some { hold := some (b, l), rows := rows, .. } =>
    if (s.quarSlot b).isNone then s else failFills rows 0x0301 l (dropChunk id (s.advanceTo (s.repairTick b)))
  | _, _, _ => s

/-- REPAIR_DEADLINE. -/
def execRepairDeadline (id : Nat) (s : State) : Host.Outcome State Fault Refusal := .next (whenReleased (repairDeadline id) s)

/-- MIRROR_REPAIR of a block (DPA / 4,096): its mirror is read through its checked path and written to the primary; a mirror that
fails leaves both for the host (R373). It waits while the stack is STOPPED and while a slice keeps either block's bank pair closed
(R142). -/
def mirrorRepair (block : Nat) (errs : List SymErr) (s : State) : State :=
  match s.quarSlot block with
  | none => s
  | some (i, q) =>
    let m := s.mirrorBurst (128 * block)
    if q.state ≠ 1 || s.stopped (block * 4096) || s.closedIn (block * 4096) 4096 || s.closedIn (32 * m) 4096 then s else
    let bs := (List.range 128).map (fun k => 128 * block + k)
    let (ds, s) := bs.foldl (fun (a : List (Option (List Byte)) × State) b =>
      let (d, s) := readMirror (ledgerReader 9) b a.2
      (a.1 ++ [d], s)) ([], addErrs errs s)
    if ds.all (·.isSome) then
      let s := (bs.zip ds).foldl (fun s x => storeBurst x.1 (x.2.getD []) s) (recallGranule block s)
      let s := if s.isCompute (block * 4096) then
          forgetChecked block (writeEntry block { isOpen := false, crc := crc32c (s.blockData block) } s)
        else s
      clearQuarantine block 0 s
    else
      let a := block * 4096
      logErr 0x21 9 (s.stackOf a) a q.detail (quarantine (s.mirrorBurst (128 * block) / 128) (s.setQuar i { q with state := 2 }))

/-- MIRROR_REPAIR. -/
def execMirrorRepair (block : Nat) (errs : List SymErr) (s : State) : Host.Outcome State Fault Refusal :=
  .next (whenReleased (mirrorRepair block errs) s)

end Sys2Proof.Machine
end

