-- ==== Sys2Proof/Machine/Leases.lean ====
section
/-! DEFINITION. Leases, the heartbeat watchdog, unit resets and the settlement of what a reset unit was doing (spec 17, R378 to R383,
R97, R182). -/

namespace Sys2Proof.Machine

/-! ## References to records -/

/-- An optional reference renamed by f. -/
def renameRef (f : Nat × Nat → Nat × Nat) (x : Option (Nat × Nat)) : Option (Nat × Nat) := x.map f

/-- The references of sequences, steps and effects. -/
def Seqs.rename (f : Nat × Nat → Nat × Nat) (g : Seqs) : Seqs :=
  let app := fun (a : Append) => { a with w := (f (a.w, a.n)).1, n := (f (a.w, a.n)).2 }
  let ent := fun (e : SeqEntry) => { e with appends := e.appends.map app }
  { g with
    steps := g.steps.map (fun x => { x with w := (f (x.w, x.n)).1, n := (f (x.w, x.n)).2 }),
    effects := g.effects.map (fun x => { x with w := (f (x.w, x.n)).1, n := (f (x.w, x.n)).2 }),
    entries := g.entries.map (fun e => (e.1, ent e.2)) }

/-- The references of the runs of a pip stack. -/
def PipStack.rename (f : Nat × Nat → Nat × Nat) (v : PipStack) : PipStack :=
  let run := fun (r : Run) => { r with origin := renameRef f r.origin }
  { v with runs := v.runs.map (fun r => (r.1, run r.2)), held := v.held.map (fun r => (r.1, run r.2)) }

/-- The references of parks, resumes and retirements. -/
def Punnets.rename (f : Nat × Nat → Nat × Nat) (v : Punnets) : Punnets :=
  let retire := fun (r : Nat × Nat × Nat) => ((f (r.1, r.2.1)).1, (f (r.1, r.2.1)).2, r.2.2)
  let port := fun (q : PunPort) => { q with retiring := q.retiring.map retire }
  { v with
    parks := v.parks.map (fun k => { k with w := (f (k.w, k.n)).1, n := (f (k.w, k.n)).2 }),
    resumes := v.resumes.map (fun r => { r with w := (f (r.w, r.n)).1, n := (f (r.w, r.n)).2 }),
    ports := v.ports.map (fun q => (q.1, port q.2)) }

/-- The references of the cascade's records. -/
def Vine.rename (f : Nat × Nat → Nat × Nat) (v : Vine) : Vine :=
  { v with
    joining := v.joining.map (fun r => ((f (r.1, r.2.1)).1, (f (r.1, r.2.1)).2, r.2.2)), leaving := renameRef f v.leaving,
    collects := v.collects.map (fun c => { c with answer := f c.answer }) }

/-- What refers to a record by its window and count refers to what f makes of them. -/
def renameRecords (f : Nat × Nat → Nat × Nat) (s : State) : State :=
  let s : State := (s.setSeqs (s.seqs.rename f)).setPun (s.pun.rename f)
  let s : State := { s with pips := s.pips.map (fun k => (k.1, k.2.rename f)) }
  let s := s.setZest { s.zest with swapping := renameRef f s.zest.swapping }
  let s := s.setCtl { s.ctl with unitResets := s.ctl.unitResets.map (fun u => { u with answer := renameRef f u.answer }) }
  (s.setPwr { s.pwr with record := renameRef f s.pwr.record }).setVine (s.vine.rename f)

/-! ## Staged effects of a record are discarded (R379, R380) -/

/-- Sequence q is no longer CANCELLED or CLOSING when nothing is pending that made it so. -/
def settleState (q : Nat) (s : State) : State :=
  let has := fun e => s.seqs.effects.any (fun x => x.eff == e)
  s.modSeq q (fun e =>
    if e.state ≠ 5 && e.state ≠ 6 then e
    else if has (.cancel q) then { e with state := 5 }
    else if has (.close q) then { e with state := 6 } else { e with state := 1 })

/-- The pending effects of record (w, n) are dropped. -/
def dropEffects (w n : Nat) (s : State) : State :=
  let mine := s.seqs.effects.filter (fun e => e.w == w && e.n == n)
  let s := s.setSeqs { s.seqs with effects := s.seqs.effects.filter (fun e => !(e.w == w && e.n == n)) }
  mine.foldl (fun s e => match e.eff with
    | .cancel q | .close q => settleState q s
    | _ => s) s

/-- The append of record (w, n) is dropped; the sequence stands as its fill met it. -/
def dropAppend (w n : Nat) (s : State) : State :=
  let mine := fun (a : Append) => a.w == w && a.n == n
  s.seqs.entries.foldl (fun s e =>
    match e.2.appends.find? mine with
    | none => s
    | some a =>
      let s := s.modSeq e.1 (fun v =>
        let rest := v.appends.filter (fun a => !mine a)
        { v with
          appends := rest, stopped := if a.begun then a.stopped0 else v.stopped,
          state := if rest.isEmpty && v.state == 2 then 1 else v.state })
      let s := leavePages e.1 a.reserved s
      if a.begun then voidRows e.1 s else s) s

/-- The resume of record (w, n) is dropped: its entry is FREE again, and the park stays. -/
def dropResume (w n : Nat) (s : State) : State :=
  match s.pun.resumes.find? (fun r => r.w == w && r.n == n) with
  | none => s
  | some r =>
    let s := dropStreams (fun _ v => !v.encode && v.handle == r.handle) s
    let s := s.setPun { s.pun with resumes := s.pun.resumes.filter (fun x => x.handle != r.handle) }
    releaseEntry r.q (modPark r.handle (fun k => { k with reader := none }) s)

/-- The park of record (w, n) is dropped. -/
def dropPark (w n : Nat) (s : State) : State :=
  match s.pun.parks.find? (fun k => k.w == w && k.n == n && decide (k.state < 4)) with
  | none => s
  | some k => undoPark k s

/-- The run of record (w, n) ends on a pip stack: its write range waits for the rebuild. -/
def PipStack.dropRun (r : Nat × Nat) (v : PipStack) : PipStack :=
  let mine := fun (x : Nat × Run) => x.2.origin == some r
  let gone := (v.runs.filter (fun x => mine x && x.2.state == 2)).map (·.1)
  let ends := fun (x : Nat × Run) => (x.1, { x.2 with state := 3, replied := true })
  { v with
    held := v.held.filter (fun x => !mine x), gather := v.gather.filter (fun g => !gone.contains g.run),
    runs := mapIf (fun x => mine x && (x.2.state == 2 || x.2.state == 3)) ends v.runs }

/-- The run of record (w, n) ends. -/
def dropRun (w n : Nat) (s : State) : State := { s with pips := s.pips.map (fun k => (k.1, k.2.dropRun (w, n))) }

/-- n lines from DPA d on hold free values. -/
def spoilLines (d : Nat) : Nat → State → State
  | 0, s => s
  | n + 1, s =>
    let (b, s) := freeBytes 64 s
    spoilLines (d + 64) n (landBurst (d / 32 + 1) (b.drop 32) false (landBurst (d / 32) (b.take 32) false s))

/-- What record t of window w has staged is discarded. What a MEM_COPY or a MEM_FILL had not reached of its destination is left undefined:
free values (R380). -/
def dropStaged (w : Nat) (t : Taken) (s : State) : State :=
  let s := dropEffects w t.n s
  match t.opcode with
  | 0x10 => spoilLines (t.at 0x28 8 + t.progress) ((t.at 0x30 8 - t.progress) / 64) s
  | 0x11 => spoilLines (t.at 0x20 8 + t.progress) ((t.at 0x28 8 - t.progress) / 64) s
  | 0x31 => dropAppend w t.n s
  | 0x34 => dropPark w t.n s
  | 0x35 => dropResume w t.n s
  | 0x51 => dropRun w t.n s
  | 0x60 => match s.vine.joining with
    | some r => if r.1 = w && r.2.1 = t.n then s.setVine { s.vine with state := 0, joining := none } else s
    | none => s
  | 0x62 => s.setVine { s.vine with collects := s.vine.collects.filter (fun c => c.answer != (w, t.n)) }
  | _ => s

/-- RESULT of a withdrawn record: the bytes known to have completed. -/
def withdrawnResult (t : Taken) : List Byte := if inRange t.opcode 0x10 0x13 then natLe 8 t.progress else []

/-- Record t of window w, no STEP, is withdrawn with LEASE_LOST (R380). (DEDUCED, log entry 32) -/
def withdrawRecord (cls w : Nat) (t : Taken) (s : State) : State :=
  let s := complete w t.n { leaseLost cls with result := withdrawnResult t } (dropStaged w t s)
  renameRecords (fun r => if r = (w, t.n) then (16, 0) else r) s

/-- A step that its core has planned (R380): FORMED, it takes a null boundary; otherwise it is withdrawn. -/
def settleStep (cls : Nat) (w : Nat) (t : Taken) (s : State) : State :=
  match s.seqs.steps.find? (fun p => p.w == w && p.n == t.n) with
  | none => complete w t.n (leaseLost cls) s
  | some p => if p.state = 2 then nullBoundary p 0x0204 cls s else withdrawStep p (leaseLost cls) s

/-- The records that core c had taken and not completed (R97). -/
def State.coreRecords (s : State) (c : Nat) : List (Nat × Taken) := s.records.filter (fun r => r.2.core == c)

/-- Every record that core c had taken is settled. (DEDUCED, log entry 32) -/
def settleRecords (c cls : Nat) (s : State) : State :=
  let rs := s.coreRecords c
  let s := (rs.filter (fun r => r.2.opcode != 0x32)).foldl (fun s r => withdrawRecord cls r.1 r.2 s) s
  (rs.filter (fun r => r.2.opcode == 0x32)).foldl (fun s r => settleStep cls r.1 r.2 s) s

/-! ## Leases (R378, R379, R182) -/

/-- Duration of the on-die classes in ticks. -/
def leaseTicks (cls : Nat) : Option Nat :=
  match cls with
  | 1 | 5 | 6 | 7 => some (msTicks 10)
  | 2 | 3 => some (usTicks 100)
  | 4 => some (msTicks 1)
  | _ => none

/-- UNIT_KIND of the holder of a class. (DEDUCED, log entry 32) -/
def holderKind (cls : Nat) : Nat := if cls = 5 then 5 else if cls = 8 then 7 else 1

/-- The holder of a lease is at work, so that its leases are timed (R408, R409). -/
def State.leaseTimed (s : State) (l : Lease) : Bool :=
  if l.cls = 5 then decide (l.holder < 8) && decide (s.pwr.depthNow < 3) && s.unitUp 5 l.holder
  else decide (l.holder < 8) && (s.core l.holder).state == 1 && (l.cls != 1 || decide (s.pwr.depthNow < 3))

/-- Two names of one lease. -/
def Lease.is (l : Lease) (cls holder res : Nat) : Bool := l.cls == cls && l.holder == holder && l.res == res

/-- LEASE_RENEW: the renewal is recorded; the first one records the lease itself. -/
def leaseRenew (cls holder res : Nat) (s : State) : State :=
  let l : Lease := { cls := cls, holder := holder, res := res, renewed := s.now }
  if (leaseTicks cls).isNone || !s.leaseTimed l then s
  else s.setCtl { s.ctl with leases := s.ctl.leases.filter (fun x => !x.is cls holder res) ++ [l] }

/-- LEASE_RENEW (R378). -/
def execLeaseRenew (cls holder res : Nat) (s : State) : Host.Outcome State Fault Refusal :=
  .next (whenReleased (leaseRenew cls holder res) s)

/-- A lease leaves the table as revoked: counted, named and logged (R378, R388). -/
def markRevoked (l : Lease) (s : State) : State :=
  logErr 0x70 (holderKind l.cls) l.holder 0 l.cls (s.setCtl { s.ctl with
    leases := s.ctl.leases.filter (fun x => !x.is l.cls l.holder l.res), revoked := satAdd 32 s.ctl.revoked 1, revClass := l.cls,
    revKind := holderKind l.cls, revIndex := l.holder })

/-- The resource of a revoked lease is released where it is not part of its holder's records: an accumulation group (engine · 8 +
group), discarded with its tiles (R182), or a run slot (pip stack · 16 + slot), whose run ends. -/
def freeResource (l : Lease) (s : State) : State :=
  if l.cls = 6 then
    let e := l.res / 8 % 8
    let g := l.res % 8
    match (s.pressEngine e).group g with
    | none => s
    | some x =>
      notePress (x.mat / 8) e x.tile g 2 (releaseGroup e g s)
  else if l.cls = 7 then
    match (tget Run.free (s.pip (l.res / 16 % 8)).runs (l.res % 16)).origin with
    | some r => match s.record r.1 r.2 with
      | some t => withdrawRecord 7 r.1 t s
      | none => dropRun r.1 r.2 s
    | none => s
  else s

/-- Every lease of Stone core c is revoked. -/
def revokeAll (c : Nat) (s : State) : State :=
  (s.ctl.leases.filter (fun l => l.cls != 5 && l.holder == c)).foldl (fun s l => freeResource l (markRevoked l s)) s

/-! ## Resets of units (R379 to R381, R383) -/

/-- A Stone core is reset: detail 0 by UNIT_RESET, 1 by revocation, 2 by watchdog. The third reset within a second holds it, and its
windows with it (R381). -/
def resetCore (c cls detail : Nat) (s : State) : State :=
  if (s.core c).state ≠ 1 then s else
  let times := (s.now :: (s.core c).resetTimes.filter (fun t => decide (s.now ≤ t + msTicks 1000))).take 3
  let held := decide (3 ≤ times.length)
  let s := logErr 0x71 1 c 0 detail s
  let ws := (List.range 16).filter (fun w => s.servingCore w == c)
  let s := settleRecords c cls (revokeAll c s)
  let s := s.modCore c (fun v => { v with
    state := if held then 3 else 2, resets := satAdd 16 v.resets 1, resetTimes := times })
  if held then ws.foldl (fun s w => s.modWin w (fun v => { v with heldConfig := v.heldConfig || v.enable })) s else s

/-- The steps that p picks out end in null boundaries (R380, R383). -/
def endSteps (cls : Nat) (p : Step → Bool) (s : State) : State :=
  (s.seqs.steps.filter (fun x => x.state == 2 && p x)).foldl (fun s x => nullBoundary x 0x0204 cls s) s

/-- The chunks that p picks out fail (R462). -/
def endChunks (cls : Nat) (p : Chunk → Bool) (s : State) : State :=
  (s.seqs.chunks.filter p).foldl (fun s c => failFills c.rows 0x0204 cls (dropChunk c.id s)) s

/-- A step has run a layer on engines of a kind: Drupe engines, or Press engines for what exceeds the split (R26, R165). -/
def State.pressUsed (s : State) (p : Step) : Bool :=
  let x := s.model p.model
  decide (p.cap.drupeLimit < p.batch) || decide (8 * 2 ^ p.cap.lenLog2 < max x.hidden (max x.ffn (x.qHeads * x.headDim)))

/-- What a unit that is reset was doing ends (R383). (DEDUCED, log entry 32) -/
def endWork (kind index cls : Nat) (s : State) : State :=
  match kind with
  | 2 =>
    let ph := (s.drupeEngine index).phase
    endChunks cls (fun c => ph == 1 && decide (0 < c.layer)) (endSteps cls (fun p => ph == 0 && p.started) s)
  | 3 =>
    let ph := (s.pressEngine index).phase
    let used := fun p => ph == 0 && p.started && s.pressUsed p
    let s := s.modPress index (fun v => { v with queue := [], groups := [] })
    endChunks cls (fun c => ph == 1 && decide (0 < c.layer)) (endSteps cls used s)
  | 4 => endSteps cls (fun p => decide ((s.model p.model).layers < p.layer)) s
  | 5 => (s.codecQueue index).foldl (fun s v => failHandle v.handle s) s
  | 6 =>
    let onStack := fun (p : Step) => p.started && (s.model p.model).map.any (fun e => e.stack == stackOfPip index)
    let hs := (s.pip index).held
    let s := hs.foldl (fun s h => endRunRecord h.2 { leaseLost cls with result := runResult h.2 } s)
      (s.modPip index (fun v => { v with held := [] }))
    endSteps cls onStack (endRuns index none (fun r => { leaseLost cls with result := runResult r }) s)
  | 7 => s.modVinePort index (fun v => { v.down s.now with state := 1 })
  | 8 =>
    if !(s.punPort index).works then s else
    let lost := (s.punPort index).cmds
    let s := s.modPun index (fun v => { v with cmds := [], resetAt := some s.now })
    lost.foldl (fun s c => failHandle c.handle s) s
  | _ => s

/-- A unit other than a Stone core is reset. (DEDUCED, log entry 32) -/
def resetUnit (kind index cls detail : Nat) (answer : Option (Nat × Nat)) (s : State) : State :=
  let n := fun (s : State) => ((List.range 16).map (fun w => (s.win w).inflight)).sum
  let before := n s
  let s := endWork kind index cls (logErr 0x71 kind index 0 detail s)
  s.setCtl { s.ctl with
    unitResets := s.ctl.unitResets ++ [{ kind := kind, index := index, answer := answer, ended := before - n s }] }

/-- LEASE_REVOKE: the counter has advanced by more than the duration since the last renewal. -/
def leaseRevoke (cls holder res : Nat) (s : State) : State :=
  match s.ctl.leases.find? (fun l => l.is cls holder res), leaseTicks cls with
  | some l, some d =>
    if !s.leaseTimed l then s else
    let s := freeResource l (markRevoked l (s.advanceTo (l.renewed + d + 1)))
    if cls = 5 then resetUnit 5 holder 5 1 none s else resetCore holder 1 1 s
  | _, _ => s

/-- LEASE_REVOKE (R379). -/
def execLeaseRevoke (cls holder res : Nat) (s : State) : Host.Outcome State Fault Refusal :=
  .next (whenReleased (leaseRevoke cls holder res) s)

/-- HEARTBEAT (R381). -/
def execHeartbeat (c : Fin 8) (s : State) : Host.Outcome State Fault Refusal :=
  .next (whenReleased (fun s => s.modCore c.val (fun v => if v.state = 1 then { v with lastBeat := s.now } else v)) s)

/-- WATCHDOG_RESET: four milliseconds without a heartbeat. -/
def watchdogReset (c : Nat) (s : State) : State :=
  if (s.core c).state ≠ 1 then s else resetCore c 1 2 (s.advanceTo ((s.core c).lastBeat + msTicks 4))

/-- WATCHDOG_RESET (R381). -/
def execWatchdogReset (c : Fin 8) (s : State) : Host.Outcome State Fault Refusal := .next (whenReleased (watchdogReset c.val) s)

/-- The reset of a unit is over: its UNIT_RESET is answered (R383). -/
def unitBack (kind index : Nat) (s : State) : State :=
  let is_ := fun (u : UnitReset) => u.kind == kind && u.index == index
  let us := s.ctl.unitResets.filter is_
  let s := s.setCtl { s.ctl with unitResets := s.ctl.unitResets.filter (fun u => !is_ u) }
  us.foldl (fun s u => match u.answer with
    | some r => complete r.1 r.2 (done (natLe 4 u.ended)) s
    | none => s) s

/-- A reset Stone core has restarted its firmware and takes records again (R380). -/
def coreBack (c : Nat) (s : State) : State :=
  if (s.core c).state ≠ 2 then s
  else unitBack 1 c (s.modCore c (fun v => { v with state := 1, lastBeat := s.now }))

/-- STONE_CORE_RESTART (R380). -/
def execStoneCoreRestart (c : Fin 8) (s : State) : Host.Outcome State Fault Refusal := .next (whenReleased (coreBack c.val) s)

/-- HUSK_TIMER_EXPIRE: the module is FATAL, with cause 1 when 10 ms have passed on the interval counter without a renewal, or 2 for an
uncorrectable word (R47, R382). The Husk core renews its timer as long as it acts, so that the 10 ms begin when the command comes.
(DESIGN CHOICE, log entry 15) -/
def execHuskTimerExpire (uncorrectable : Bool) (s : State) : Host.Outcome State Fault Refusal :=
  .next (if !s.live then s else if uncorrectable then goFatal 2 s else goFatal 1 (s.advanceTo (s.now + msTicks 10)))

/-! ## UNIT_RESET (R383) -/

/-- The checks of UNIT_RESET. -/
def State.unitResetChecks (s : State) (w : Nat) (t : Taken) : List (Bool × Answer) :=
  let k := t.at 0x20 1
  let i := t.at 0x21 1
  [(!(k == 1 && s.servingCore w == i), badState 0x50),
   (s.unitUp k i && !(k == 1 && (s.core i).state == 2), badState 0x51),
   (!(k == 6 && (s.stack (stackOfPip i)).thermal == 4), badState 0x52)]

/-- UNIT_RESET. (DEDUCED, log entry 32) -/
def unitReset (w : Nat) (t : Taken) (s : State) : State :=
  let k := t.at 0x20 1
  let i := t.at 0x21 1
  checked w t.n (s.unitResetChecks w t) (fun s =>
    let s := startRecord w t.n s
    if k = 1 then
      let n := (s.coreRecords i).length
      let s := resetCore i 11 0 s
      s.setCtl { s.ctl with unitResets := s.ctl.unitResets ++ [{ kind := 1, index := i, answer := some (w, t.n), ended := n }] }
    else resetUnit k i 11 0 (some (w, t.n)) s) s

/-- UNIT_RESET (R383). -/
def execUnitReset (w : Fin 16) (n : U32) (s : State) : Host.Outcome State Fault Refusal := .next (onOp 4 w.val n.toNat unitReset s)

/-- UNIT_RETURN_TO_SERVICE: a Vine port has trained, a punnet's controller is ready, any other unit is in service again. -/
def unitReturn (kind index : Nat) (s : State) : State :=
  if s.unitUp kind index then s
  else if kind = 1 then (if (s.core index).state = 1 then unitBack 1 index s else coreBack index s)
  else if kind = 7 && (s.vinePort index).state == 1 then s
  else if kind = 8 && (s.punPort index).resetAt.isSome then s
  else unitBack kind index s

/-- UNIT_RETURN_TO_SERVICE (R383). -/
def execUnitReturnToService (kind index : Nat) (s : State) : Host.Outcome State Fault Refusal :=
  .next (whenReleased (unitReturn kind index) s)

end Sys2Proof.Machine
end

