-- ==== Sys2Proof/Machine/Models.lean ====
section
/-! DEFINITION. Models: MODEL_LOAD PLACE, LAYER_DESC, SCALE_LOAD and the variants (spec 07, 09, 13). -/

namespace Sys2Proof.Machine

/-! ## Placement (R169, R170) -/

/-- The 48 bytes of a placement map entry (R170). -/
def MapEntry.bytes (e : MapEntry) : List Byte :=
  natLe 2 e.layer ++ natLe 1 e.mat ++ natLe 1 e.stack ++ natLe 4 e.rowFirst ++ natLe 4 e.rowCount ++ natLe 4 e.rowStride ++
  natLe 8 e.codeDpa ++ natLe 8 e.recDpa ++ natLe 4 e.pieceStride ++ natLe 4 e.recStride ++ natLe 4 e.recPieceStride ++ natLe 4 0

/-- The model that a PLACE record describes, with a map. (DESIGN CHOICE, log entry 20) -/
def placedModel (t : Taken) (map : List MapEntry) (pages : List Nat) : Model :=
  { state := 1, tenant := t.tenant, layers := t.at 0x22 2, hidden := t.at 0x24 4, ffn := t.at 0x28 4, vocab := t.at 0x2C 4,
    qHeads := t.at 0x30 1, kvHeads := t.at 0x31 1, headDim := t.at 0x32 2, wFormat := t.at 0x34 1, kvFormat := t.at 0x35 1,
    placeMode := t.at 0x36 1, map := map, pages := pages, descs := [], scaleSet := ScaleSet.initial }

/-- The pieces of n bytes: address and length of each. -/
def piecesOf (base stride n : Nat) : List (Nat × Nat) :=
  (List.range (ceilDiv n 4096)).map (fun i => (base + i * stride, min 4096 (n - 4096 * i)))

/-- Code bytes and record slot bytes of one row of an entry. -/
def Model.codeBytes (m : Model) (e : MapEntry) : Nat := rowCodeBytes m.wFormat (m.matCols e.mat) 8
/-- Record slot bytes of one row of an entry. -/
def Model.slotBytes (m : Model) (e : MapEntry) : Nat := rowSlotBytes m.wFormat (m.matCols e.mat)

/-- Where the rows of an entry lie. -/
def Model.entryPieces (m : Model) (e : MapEntry) : List (Nat × Nat) :=
  (List.range e.rowCount).flatMap (fun i =>
    piecesOf (e.codeDpa + i * e.rowStride) e.pieceStride (m.codeBytes e) ++
    piecesOf (e.recDpa + i * e.recStride) e.recPieceStride (m.slotBytes e))

/-- Every piece of an entry lies in its stack: in one plot of a pip stack, in the pages taken in a plain stack. -/
def State.entryLies (s : State) (m : Model) (pages : List Nat) (e : MapEntry) : Bool :=
  (m.entryPieces e).all (fun p =>
    s.solid p.1 p.2 && s.stackOf p.1 == e.stack && s.stackOf (p.1 + p.2 - 1) == e.stack &&
    (if isPipStack e.stack then
      p.1 / 0x4000000 == e.codeDpa / 0x4000000 && (p.1 + p.2 - 1) / 0x4000000 == e.codeDpa / 0x4000000
    else
      [p.1, p.1 + p.2 - 1].all (fun a => match s.poolPage a with | some g => pages.contains g | none => false)))

/-- The entries of one matrix cover rows 0 to n − 1, each once. (DESIGN CHOICE, log entry 20) -/
def coversRows (es : List MapEntry) (n : Nat) : Bool :=
  (es.map (·.rowCount)).sum == n && es.all (fun e => decide (e.rowFirst + e.rowCount ≤ n) && decide (0 < e.rowCount)) &&
  decide (es.Pairwise (fun a b => overlaps a.rowFirst a.rowCount b.rowFirst b.rowCount = false))

/-- Every matrix of the model is covered; a layer may lack its GATE matrix. -/
def Model.covered (m : Model) : Bool :=
  let of_ := fun l mat => m.map.filter (fun e => e.layer == l && e.mat == mat)
  m.map.all (fun e => if e.layer = m.layers then e.mat == 7 else decide (e.layer < m.layers) && decide (e.mat < 7)) &&
  coversRows (of_ m.layers 7) m.vocab &&
  (List.range m.layers).all (fun l => (List.range 7).all (fun mat =>
    (mat == 4 && (of_ l 4).isEmpty) || coversRows (of_ l mat) (m.matRows mat)))

/-- The rows of a matrix in a wedge, ascending. -/
def Model.placedRows (m : Model) (w l mat : Nat) : List Nat :=
  (List.range (m.matRows mat)).filter (fun r => match m.entryOf l mat r with | some (e, _) => e.stack / 4 == w | .none => false)

/-- No Drupe engine is given more than 32,768 rows of one layer, as R168 deals a wedge's rows to its six engines (R163, R169). -/
def Model.enginesTake (m : Model) : Bool :=
  (List.range (m.layers + 1)).all (fun l => (List.range 4).all (fun w =>
    let dealt := m.dealBands (List.range 6) ((m.layerMats l).flatMap (fun x => (chunksOf 256 (m.placedRows w l x)).map (fun b => (x, b))))
    (List.range 6).all (fun e => decide (((dealt.filter (fun b => b.2.2 == e)).map (fun b => b.2.1.length)).sum ≤ 32768))))

/-- The stride between the pieces of a row or a slot of n bytes (R170): 0 where it fits in one, 4,096 in a pip stack. -/
def pieceStrideOk (stack n stride : Nat) : Bool :=
  if n ≤ 4096 then stride == 0 else !isPipStack stack || stride == 4096

/-- The strides of an entry are those that R170 and R202 give. -/
def Model.stridesOk (m : Model) (e : MapEntry) : Bool :=
  pieceStrideOk e.stack (m.codeBytes e) e.pieceStride && pieceStrideOk e.stack (m.slotBytes e) e.recPieceStride &&
  decide (m.slotBytes e ≤ e.recStride)

/-- An entry in a plain stack lies in one zone of the fold (R170). -/
def State.entryInZone (s : State) (m : Model) (e : MapEntry) : Bool :=
  isPipStack e.stack || (m.entryPieces e).all (fun p => s.zoneOf p.1 == s.zoneOf e.codeDpa && s.zoneOf (p.1 + p.2 - 1) == s.zoneOf e.codeDpa)

/-- The pip-stack pieces of other models, and the granules of variants. -/
def State.pipDataUsed (s : State) (a n : Nat) : Bool :=
  s.seqs.models.any (fun p => (p.2.map.filter (fun e => isPipStack e.stack)).any (fun e =>
    (p.2.entryPieces e).any (fun x => overlaps x.1 x.2 a n))) ||
  s.seqs.variants.any (fun p => p.2.granules.any (fun g => overlaps (65536 * g) 65536 a n)) ||
  s.seqs.returning.any (fun g => overlaps (65536 * g) 65536 a n)

/-- A page of the pool is free. -/
def State.pageFree (s : State) (p : Nat) : Bool := (s.page p).use == 0 && decide (p / 65536 < 8) && decide (p % 65536 < s.stackPages (p / 65536))

/-- A placement keeps to the rules of R169 and R170; how far it balances the stacks, the model leaves to it (log entry 20).
(DESIGN CHOICE, log entry 20) -/
def State.placementOk (s : State) (m : Model) : Bool :=
  let ps := m.map.flatMap m.entryPieces
  m.covered && m.enginesTake && m.map.all m.stridesOk && m.map.all (s.entryInZone m) && m.map.all (s.entryLies m m.pages) &&
  m.pages.all s.pageFree && decide m.pages.Nodup &&
  decide (ps.Pairwise (fun a b => overlaps a.1 a.2 b.1 b.2 = false)) &&
  (m.map.filter (fun e => isPipStack e.stack)).all (fun e => (m.entryPieces e).all (fun x => !s.pipDataUsed x.1 x.2)) &&
  (m.placeMode != 1 || m.map.all (fun e => !isPipStack e.stack))

/-- Takes n pages for a model, page k from plain stack k mod 8 or the next that has one (R169). -/
def takeAreaPages (key n : Nat) (s : State) : List Nat × State :=
  (List.range n).foldl (fun (a : List Nat × State) k =>
    match takePage (k % 8) 2 key a.2 with
    | some (p, s) => (a.1 ++ [p], s)
    | none => a) ([], s)

/-- The bytes of weights placed. -/
def Model.weightBytes (m : Model) : Nat := (m.map.map (fun e => e.rowCount * (m.codeBytes e + m.slotBytes e))).sum

/-- PLACE with a placement that keeps to the rules. -/
def placeModel (w : Nat) (t : Taken) (m : Model) (s : State) : State :=
  let area := m.scalePageCount + m.gainPageCount
  let size := 48 * m.map.length
  let key := tenantKey t.tenant
  checked w t.n
    [(decide (m.pages.length + area ≤ s.freePages), noPages (m.pages.length + area - s.freePages)),
     (decide (size ≤ t.at 0x48 4), { badState 4 with result := natLe 4 size }),
     (s.keyRoom t.tenant, badState 0x40)] (fun s =>
    let s := m.pages.foldl (fun s p => usePage p 2 key s) (giveKey t.tenant s)
    let (ps, s) := takeAreaPages key area s
    let s := s.modModel (t.at 0x21 1) (fun _ => { m with pages := m.pages ++ ps })
    complete w t.n (done (natLe 4 size ++ natLe 4 m.map.length ++ natLe 8 m.weightBytes))
      (hostWrite (t.at 0x40 8) (m.map.flatMap MapEntry.bytes) s)) s

/-- Pages of the weights, the scale area and the gain area may lack by k (R169): k more than the pool has free cover the areas.
(DESIGN CHOICE, log entry 20) -/
def State.mayLack (s : State) (m : Model) (k : Nat) : Bool :=
  k != 0 && decide (m.scalePageCount + m.gainPageCount ≤ s.freePages + k)

/-- A placement may give a Drupe engine more than 32,768 rows of a layer (R169): only one of a layer that has more. (DESIGN CHOICE,
log entry 20) -/
def Model.mayExceed (m : Model) : Bool :=
  (List.range (m.layers + 1)).any (fun l => decide (32768 < ((m.layerMats l).map m.matRows).sum))

/-- MODEL_LOAD PLACE. A placement that breaks the rules is none that firmware computes, nor is a refusal that the record rules out: it has
no effect. (DESIGN CHOICE, log entry 20) -/
def modelPlace (plan : Placement) (w : Nat) (t : Taken) (s : State) : State :=
  checked w t.n [((s.model (t.at 0x21 1)).state == 0, badState 2)] (fun s =>
    match plan with
    | .pipSpaceLacking => if t.at 0x36 1 = 1 then s else complete w t.n (badState 3) s
    | .rowsBeyondEngines => if (placedModel t [] []).mayExceed then complete w t.n (badState 8) s else s
    | .pagesLacking k => if s.mayLack (placedModel t [] []) k then complete w t.n (noPages k) s else s
    | .placed map pages =>
      let m := placedModel t map pages
      if s.placementOk m then placeModel w t m s else s) s

/-- MODEL_LOAD with OP PLACE (R169). -/
def execModelLoadPlace (w : Fin 16) (n : U32) (plan : Placement) (s : State) : Host.Outcome State Fault Refusal :=
  .next (inOrder 0x20 w.val n.toNat (fun t => t.at 0x20 1 == 0) (modelPlace plan) s)

/-! ## LAYER_DESC (R171, R228) -/

/-- ACT_FN is one that R228 lists, its program slot loaded in the current bank. -/
def State.actFnOk (s : State) (fn : Nat) : Bool :=
  decide (fn ≤ 2) || (inRange fn 0x100 0x11F && ((s.zbank s.zest.current).program (fn - 0x100)).isSome)

/-- The descriptor of a LAYER_DESC record. -/
def descOf (t : Taken) : LayerDesc :=
  { bsnFirst := (List.range 8).map (fun i => t.at (0x24 + 2 * i) 2), attnScale := t.f32 0x34, normEps := t.f32 0x38,
    actFn := t.at 0x3C 2, clipLimit := t.at 0x3E 2 }

/-- Layers 0 to LAYERS all have descriptors. -/
def Model.described (m : Model) : Bool := (List.range (m.layers + 1)).all (fun l => (tget Option.none m.descs l).isSome)

/-- LAYER_DESC. -/
def layerDesc (w : Nat) (t : Taken) (s : State) : State :=
  let id := t.at 0x20 1
  let m := s.model id
  checked w t.n
    [(m.state != 0, badState 1), (decide (t.at 0x22 2 ≤ m.layers), badField 0x22), (s.actFnOk (t.at 0x3C 2), badField 0x3C)]
    (fun s =>
      let m := { m with descs := tset none m.descs (t.at 0x22 2) (some (descOf t)) }
      complete w t.n (done []) (s.modModel id (fun _ => { m with state := if m.described then 2 else m.state }))) s

/-- LAYER_DESC (R171). -/
def execLayerDesc (w : Fin 16) (n : U32) (s : State) : Host.Outcome State Fault Refusal :=
  .next (inOrder 0x21 w.val n.toNat (fun _ => true) layerDesc s)

/-! ## SCALE_LOAD (R209 to R212) -/

/-- A target's number in the count of its writes. -/
def scaleTarget (l mat : Nat) : Nat := l * 8 + mat
/-- A narrowing point's number. -/
def pointTarget (l p : Nat) : Nat := 65536 + l * 4 + p
/-- A gain vector's number. -/
def gainTarget (i : Nat) : Nat := 131072 + i

/-- A settings capture holds the copy of a target that is not current. -/
def Captured.holdsOld (c : Captured) (m : Model) (target : Nat) : Bool := tget 0 c.scaleSet.vers target != tget 0 m.scaleSet.vers target

/-- The copy of a target that is not current is held: by a FORMED step, a chunk or a share of this member (R212, R354). -/
def State.copyHeld (s : State) (m target : Nat) : Bool :=
  s.seqs.steps.any (fun p => p.state == 2 && p.model == m && p.cap.holdsOld (s.model m) target) ||
  s.seqs.chunks.any (fun c => c.model == m && c.cap.holdsOld (s.model m) target) ||
  s.vine.steps.any (fun h => h.planned && h.model == m && h.cap.holdsOld (s.model m) target)

/-- Bytes of one value in a source format. -/
def srcWidth (fmt : Nat) : Nat := if fmt = 0 then 4 else 2

/-- A source value widened to FP32. -/
def srcValue (fmt v : Nat) : F32 :=
  match fmt with
  | 0 => BitVec.ofNat 32 v
  | 1 => f32OfBf16 (BitVec.ofNat 16 v)
  | _ => f32OfF16 (BitVec.ofNat 16 v)

/-- The member that fails of a pair (s, o) of INPUT_SCALES. -/
def scalePairFault (p : F32 × F32) : Option Nat :=
  if !f32Finite p.1 || (f32Sign p.1 && !f32IsZero p.1) then some 0
  else if !f32Finite p.2 then some 1
  else if (channelOfScale p.1 p.2).isNone then some 2 else none

/-- The member that fails of a pair (min, max) of INPUT_RANGES. -/
def rangePairFault (p : F32 × F32) : Option Nat :=
  if !f32Finite p.1 then some 0
  else if !f32Finite p.2 then some 1
  else if !f32Le p.1 p.2 || (channelOfRange p.1 p.2).isNone then some 2 else none

/-- The first failing index and member of a list. -/
def firstFault {α : Type} (f : α → Option Nat) (xs : List α) : Option (Nat × Nat) :=
  xs.zipIdx.findSome? (fun e => (f e.1).map (fun k => (e.2, k)))

/-- A list of values taken in pairs. -/
def pairsOf : List F32 → List (F32 × F32)
  | a :: b :: r => (a, b) :: pairsOf r
  | _ => []

/-- What SCALE_LOAD reads: bytes. -/
def scaleBytes (t : Taken) : Nat := t.at 0x34 4 * srcWidth (t.at 0x25 1) * (if t.at 0x20 1 = 0 then 1 else 2)

/-- The rows of the matrix, or the width of the point, that a SCALE_LOAD names. -/
def Model.targetSize (m : Model) (op target : Nat) : Nat := if op = 0 then m.matRows target else m.pointWidth target

/-- The layer has the target: layer LAYERS has matrix 7 and point 0 alone; a layer may lack GATE. -/
def Model.hasTarget (m : Model) (op l target : Nat) : Bool :=
  if l = m.layers then (if op = 0 then target == 7 else target == 0)
  else op != 0 || m.map.any (fun e => e.layer == l && e.mat == target)

/-- The checks of SCALE_LOAD before it reads. -/
def State.scaleChecks (s : State) (t : Taken) : List (Bool × Answer) :=
  let m := s.model (t.at 0x21 1)
  let op := t.at 0x20 1
  [(m.state != 0, badState 1), (decide (t.at 0x22 2 ≤ m.layers), badField 0x22),
   (m.hasTarget op (t.at 0x22 2) (t.at 0x24 1), badField 0x24),
   (decide (t.at 0x30 4 + t.at 0x34 4 ≤ m.targetSize op (t.at 0x24 1)), badField 0x34)]

/-- The written copy becomes current: every value in its place, and the target's count rises. -/
def writeScales (t : Taken) (vs : List F32) (c : ScaleSet) : ScaleSet :=
  let l := t.at 0x22 2
  let g := t.at 0x24 1
  let first := t.at 0x30 4
  match t.at 0x20 1 with
  | 0 => { c with
      scales := tsets f32One c.scales (scaleKey l g first) vs, vers := tmod 0 c.vers (scaleTarget l g) (· + 1) }
  | op =>
    let ch := (pairsOf vs).map (fun p =>
      ((if op = 1 then channelOfScale p.1 p.2 else channelOfRange p.1 p.2).getD Channel.initial))
    { c with
      channels := tsets Channel.initial c.channels (channelKey l g first) ch, vers := tmod 0 c.vers (pointTarget l g) (· + 1) }

/-- The values of a SCALE_LOAD, checked and written. (DEDUCED, log entry 29) -/
def loadScales (w : Nat) (t : Taken) (d : List Byte) (s : State) : State :=
  let fmt := t.at 0x25 1
  let vs := (chunksOf (srcWidth fmt) d).map (fun b => srcValue fmt (leNat b))
  let bad := match t.at 0x20 1 with
    | 0 => firstFault (fun v => if f32Finite v then none else some 0) vs
    | 1 => firstFault scalePairFault (pairsOf vs)
    | _ => firstFault rangePairFault (pairsOf vs)
  match bad with
  | some (i, k) => complete w t.n { badField 0x28 with result := natLe 4 i ++ natLe 1 k } s
  | none => complete w t.n (done []) (s.modModel (t.at 0x21 1) (fun m => { m with scaleSet := writeScales t vs m.scaleSet }))

/-- SCALE_LOAD: it waits while a FORMED step holds the other copy. -/
def scaleLoad (src : Src) (w : Nat) (t : Taken) (s : State) : State :=
  checked w t.n (s.scaleChecks t) (fun s =>
    let target := if t.at 0x20 1 = 0 then scaleTarget (t.at 0x22 2) (t.at 0x24 1) else pointTarget (t.at 0x22 2) (t.at 0x24 1)
    if s.copyHeld (t.at 0x21 1) target then s else
    match readSource (t.at 0x26 1 == 1) (t.at 0x28 8) (scaleBytes t) src s with
    | (.waiting, _) => s
    | (.poison a, s) => complete w t.n a s
    | (.bytes d, s) => loadScales w t d s) s

/-- SCALE_LOAD with OP ROW_SCALES (R211). -/
def execScaleLoadRowScales (w : Fin 16) (n : U32) (src : Src) (s : State) : Host.Outcome State Fault Refusal :=
  .next (inOrder 0x22 w.val n.toNat (fun t => t.at 0x20 1 == 0) (scaleLoad src) s)

/-- SCALE_LOAD with OP INPUT_SCALES (R211). -/
def execScaleLoadInputScales (w : Fin 16) (n : U32) (src : Src) (s : State) : Host.Outcome State Fault Refusal :=
  .next (inOrder 0x22 w.val n.toNat (fun t => t.at 0x20 1 == 1) (scaleLoad src) s)

/-- SCALE_LOAD with OP INPUT_RANGES (R210, R211). -/
def execScaleLoadInputRanges (w : Fin 16) (n : U32) (src : Src) (s : State) : Host.Outcome State Fault Refusal :=
  .next (inOrder 0x22 w.val n.toNat (fun t => t.at 0x20 1 == 2) (scaleLoad src) s)

/-! ## Variants (R295 to R299) -/

/-- What reading a variant image gave: its delta blocks, or the byte offset of its first failing item. -/
abbrev VarRead := Except Nat (List DeltaBlock)

/-- The index entries of a section at byte o, count of them from k on, in ascending order after prev. -/
def readIndex (m : Model) (l mat o : Nat) (im : List Byte) : Nat → Nat → Option (Nat × Nat) → Except Nat (List (Nat × Nat))
  | 0, _, _ => .ok []
  | n + 1, k, prev =>
    let p := o + 16 + 8 * k
    let row := fld im p 4
    let blk := fld im (p + 4) 2
    let after := match prev with | some (r, b) => decide (r < row) || (r == row && decide (b < blk)) | none => true
    if im.length < p + 8 then .error p
    else if m.matRows mat ≤ row || ceilDiv (m.matCols mat) 256 ≤ blk || !after || fld im (p + 6) 2 ≠ 0 then .error p
    else (readIndex m l mat o im n (k + 1) (some (row, blk))).map (fun r => (row, blk) :: r)

/-- The value blocks of a section, from byte o on. -/
def readValues (l mat o : Nat) (im : List Byte) : List (Nat × Nat) → Except Nat (List DeltaBlock)
  | [] => .ok []
  | (row, blk) :: r =>
    let vs := (chunksOf 2 (bytesAt im o 512)).map (fun b => BitVec.ofNat 16 (leNat b))
    match vs.zipIdx.find? (fun e => !f32Finite (f32OfBf16 e.1)) with
    | some (_, i) => .error (o + 2 * i)
    | none =>
      if im.length < o + 512 then .error o
      else (readValues l mat (o + 512) im r).map (fun d => { layer := l, mat := mat, row := row, block := blk, values := vs } :: d)

/-- The first nonzero byte from o to below e. -/
def firstNonzero (im : List Byte) (o e : Nat) : Option Nat := (findBelow (e - o) (fun i => im.getD (o + i) 0 != 0)).map (o + ·)

/-- The sections of an image from byte o on, each after the (layer, matrix) given. What stands after the last section must be zeros. -/
def readSections (m : Model) (im : List Byte) : Nat → Nat → Option (Nat × Nat) → VarRead
  | 0, o, _ => match firstNonzero im o im.length with | some x => .error x | none => .ok []
  | n + 1, o, prev =>
    let l := fld im o 2
    let mat := fld im (o + 2) 1
    let count := fld im (o + 4) 4
    let after := match prev with | some (a, b) => decide (a < l) || (a == l && decide (b < mat)) | none => true
    let vo := ceilDiv (o + 16 + 8 * count) 64 * 64
    if im.length < o + 16 then .error o
    else if m.layers < l || 7 < mat || !m.hasTarget 0 l mat || !after then .error o
    else if fld im (o + 3) 1 ≠ 0 then .error (o + 3)
    else if count = 0 || m.matRows mat * ceilDiv (m.matCols mat) 256 < 25 * count || im.length < vo + 512 * count then
      .error (o + 4)
    else if fld im (o + 8) 8 ≠ 0 then .error (o + 8)
    else match readIndex m l mat o im count 0 none with
    | .error x => .error x
    | .ok ix => match firstNonzero im (o + 16 + 8 * count) vo with
      | some x => .error x
      | none => match readValues l mat vo im ix with
        | .error x => .error x
        | .ok ds => (readSections m im n (ceilDiv (vo + 512 * count) 64 * 64) (some (l, mat))).map (fun r => ds ++ r)

/-- Bytes that the delta blocks of one stack take. -/
def deltaBytes (m : Model) (ds : List DeltaBlock) (st : Nat) : Nat := 512 * (ds.filter (fun d => m.rowStack d == st)).length

/-- Room given in a stack: pages of 2 MiB in a plain stack, granules of 64 KiB in a pip stack. -/
def deltaRoom (pages granules : List Nat) (s : State) (st : Nat) : Nat :=
  if isPipStack st then 65536 * (granules.filter (fun g => s.stackOf (65536 * g) == st)).length
  else 2097152 * (pages.filter (fun p => stackOfPlain (p / 65536) == st)).length

/-- A granule of region data of a pip stack that no model or variant holds. -/
def State.granuleFree (s : State) (g : Nat) : Bool :=
  decide (0x1000000 ≤ g) && s.solid (65536 * g) 65536 && !s.isCompute (65536 * g) && !s.pipDataUsed (65536 * g) 65536

/-- Protected region granules of pip stack k that nothing holds. -/
def State.granulesFree (s : State) (k : Nat) : Nat :=
  ((List.range 0x180000).filter (fun i => s.granuleFree (0x1000000 + 0x200000 * k + i))).length

/-- Pages that the delta blocks lack in the plain stacks that hold their base rows. (DESIGN CHOICE, log entry 20) -/
def State.deltaLacks (s : State) (m : Model) (ds : List DeltaBlock) : Nat :=
  ((List.range 8).map (fun j =>
    ceilDiv (deltaBytes m ds (stackOfPlain j)) 2097152 -
      ((List.range (s.stackPages j)).filter (fun i => (s.page (65536 * j + i)).use == 0)).length)).sum

/-- Pip-stack space lacks for the delta blocks. (DESIGN CHOICE, log entry 20) -/
def State.deltaNoSpace (s : State) (m : Model) (ds : List DeltaBlock) : Bool :=
  (List.range 8).any (fun k => let n := ceilDiv (deltaBytes m ds (stackOfPip k)) 65536; n != 0 && decide (s.granulesFree k < n))

/-- A placement of delta blocks keeps to R298: room in the stack of every base row, from free pages and from protected granules of
pip stacks that nothing holds. -/
def State.deltaOk (s : State) (m : Model) (ds : List DeltaBlock) (pages granules : List Nat) : Bool :=
  pages.all s.pageFree && decide pages.Nodup && decide granules.Nodup &&
  granules.all s.granuleFree &&
  (List.range 16).all (fun st => decide (deltaBytes m ds st ≤ deltaRoom pages granules s st))

/-- The resident variants. -/
def State.residents (s : State) : Nat := (s.seqs.variants.filter (fun e => e.2.model != 16)).length

/-- A variant becomes resident: its delta blocks are written where they are placed. -/
def makeResident (w : Nat) (t : Taken) (ds : List DeltaBlock) (pages granules : List Nat) (s : State) : State :=
  let v : Variant :=
    { model := t.at 0x22 1, tenant := t.tenant, isGlobal := t.at 0x23 1 == 1, pages := pages, granules := granules, blocks := ds }
  let s := pages.foldl (fun s p => usePage p 2 (tenantKey t.tenant) s) (giveKey t.tenant s)
  let m := s.model v.model
  let s := ds.foldl (fun s d => (writeMem 9 (s.deltaAt m v d) (d.values.flatMap (fun x => natLe 2 x.toNat)) s).2) s
  complete w t.n (done (natLe 4 ds.length ++ natLe 4 pages.length ++ natLe 4 granules.length))
    (s.setSeqs { s.seqs with variants := tset Variant.none s.seqs.variants (t.at 0x20 2) v })

/-- VARIANT_LOAD with its image read. A placement that the state does not bear out is none that firmware finds: it has no effect.
(DESIGN CHOICE, log entry 20, DEDUCED, log entry 29) -/
def loadVariant (plan : DeltaPlacement) (w : Nat) (t : Taken) (im : List Byte) (s : State) : State :=
  let m := s.model (t.at 0x22 1)
  match readSections m im (t.at 0x38 4) 0 none with
  | .error o => complete w t.n { badField 0x28 with result := natLe 4 o } s
  | .ok ds =>
    match plan with
    | .pipSpaceLacking => if s.deltaNoSpace m ds then complete w t.n (badState 0x37) s else s
    | .pagesLacking k => if k ≠ 0 ∧ k = s.deltaLacks m ds then complete w t.n (noPages k) s else s
    | .placed pages granules => if s.deltaOk m ds pages granules then makeResident w t ds pages granules s else s

/-- VARIANT_LOAD. The state of the model is needed to check the image, so the state checks come first. -/
def variantLoad (src : Src) (plan : DeltaPlacement) (w : Nat) (t : Taken) (s : State) : State :=
  let m := s.model (t.at 0x22 1)
  checked w t.n
    [(m.state == 2, badState 0x13), (decide (t.at 0x38 4 ≤ 8 * (m.layers + 1)), badField 0x38),
     ((tget Variant.none s.seqs.variants (t.at 0x20 2)).model == 16, badState 0x34), (decide (s.residents < 256), badState 0x38),
     (s.keyRoom t.tenant, badState 0x40)] (fun s =>
    match readSource (t.at 0x24 1 == 1) (t.at 0x28 8) (t.at 0x30 8) src s with
    | (.waiting, _) => s
    | (.poison a, s) => complete w t.n a s
    | (.bytes d, s) => loadVariant plan w t d s) s

/-- VARIANT_LOAD (R298). -/
def execVariantLoad (w : Fin 16) (n : U32) (src : Src) (plan : DeltaPlacement) (s : State) : Host.Outcome State Fault Refusal :=
  .next (inOrder 0x23 w.val n.toNat (fun _ => true) (variantLoad src plan) s)

/-- A sequence that is not FREE, or a bramble node, names variant v. -/
def State.variantNamed (s : State) (v : Nat) : Bool :=
  s.seqs.entries.any (fun e => e.2.state != 0 && e.2.variant == v) || s.seqs.bramble.any (fun b => b.variant == v)

/-- VARIANT_DROP. (DEDUCED, log entry 29) -/
def variantDrop (w : Nat) (t : Taken) (s : State) : State :=
  let v := t.at 0x20 2
  checked w t.n [(!s.variantNamed v, badState 0x36)] (fun s => complete w t.n (done []) (dropVariant v s)) s

/-- VARIANT_DROP (R299). -/
def execVariantDrop (w : Fin 16) (n : U32) (s : State) : Host.Outcome State Fault Refusal :=
  .next (inOrder 0x24 w.val n.toNat (fun _ => true) variantDrop s)

end Sys2Proof.Machine
end

