-- ==== Sys2Proof/Machine/ModelDrop.lean ====
section
/-! DEFINITION. MODEL_LOAD DROP: a model, its parks, its quarantines and its pages go (R169, R374). -/

namespace Sys2Proof.Machine

/-- A SCALE_LOAD, or a TABLE_LOAD GAIN, that names a model is taken and not completed (R212). -/
def State.scalesOpen (s : State) (m : Nat) : Bool :=
  s.records.any (fun r => (r.2.opcode == 0x22 || (r.2.opcode == 0x25 && r.2.at 0x20 1 == 2)) && r.2.at 0x21 1 == m)

/-- What DROP meets, in the order of R169. -/
def State.dropChecks (s : State) (m : Nat) : List (Bool × Answer) :=
  [((s.model m).state != 0, badState 0x13),
   (!s.seqs.entries.any (fun e => e.2.state != 0 && e.2.model == m), badState 1),
   (!s.seqs.variants.any (fun e => e.2.model == m), badState 5),
   (!s.seqs.bramble.any (fun b => b.model == m), badState 6),
   (!(s.inGroup && s.vine.model == m), badState 7),
   (!s.scalesOpen m, badState 9)]

/-- MODEL_LOAD DROP. -/
def modelDrop (w : Nat) (t : Taken) (s : State) : State :=
  let m := t.at 0x21 1
  checked w t.n (s.dropChecks m) (fun s =>
    let s := (s.pun.parks.filter (fun k => k.state == 4 && k.saved.model == m)).foldl (fun s k => expirePark k s) s
    complete w t.n (done []) (dropModel m s)) s

/-- MODEL_LOAD with OP DROP (R169). -/
def execModelLoadDrop (w : Fin 16) (n : U32) (s : State) : Host.Outcome State Fault Refusal :=
  .next (inOrder 0x20 w.val n.toNat (fun t => t.at 0x20 1 == 1) modelDrop s)

end Sys2Proof.Machine
end

