-- ==== Sys2Proof/Machine/HostResets.lean ====
section
/-! DEFINITION. Training of the host link, its resets and its errors, and configuration requests (spec 03 R51, R52, R73 to R75, spec 20
R425). -/

namespace Sys2Proof.Machine

/-! ## The effect of a reset on command work (R73) -/

/-- A record as it outlives a reset: without a reply or output entries of its own, under a count that no record of its window has. -/
def Taken.orphaned (t : Taken) : Taken := { t with orphan := true, reserved := [], n := 2 ^ 32 + t.order }

/-- A window as a reset leaves it: reset values; what it has taken runs on without a reply, but for a STEP that has not formed, which is
discarded. (DEDUCED, log entry 16) -/
def Window.afterReset (w : Nat) (steps : List Step) (v : Window) : Window :=
  let stays := fun (t : Taken) => t.opcode != 0x32 || steps.any (fun p => p.w == w && p.n == t.n)
  Window.cleared w (v.orphans ++ (v.taken.filter stays).map Taken.orphaned)

/-- Steps that have not formed leave. -/
def dropUnformed (s : State) : State :=
  (s.seqs.steps.filter (fun p => decide (p.state < 2))).foldl (fun s p => removeStep p.id s) s

/-- Function Level Reset, hot reset, link down, CXL Reset and PERST_N: their effect on command work. (DEDUCED, log entry 16) -/
def commandReset (s : State) : State :=
  let s := dropUnformed s
  let s1 := (List.range 16).foldl (fun s w => s.setWin w ((s.win w).afterReset w s.seqs.steps)) s
  renameRecords (fun r => if 16 ≤ r.1 then r else match s.record r.1 r.2 with
    | some t => (32 + r.1, t.orphaned.n)
    | none => (16, 0)) s1

/-- The host port is there: the link is up. -/
def State.linkUp (s : State) : Bool := decide (s.host.proto ≠ 0)

/-- FUNCTION_LEVEL_RESET (R73). -/
def execFunctionLevelReset (s : State) : Host.Outcome State Fault Refusal := .next (if s.linkUp then commandReset s else s)

/-- HOT_RESET (R73). -/
def execHotReset (s : State) : Host.Outcome State Fault Refusal := .next (if s.linkUp then commandReset s else s)

/-- The link leaves L0: MOD_HOST_LINK shows it as down, and the loss is counted and logged with the link as it stood (R53, R369).
(DEDUCED, log entry 16) -/
def linkLost (s : State) : State :=
  if !s.linkUp then s else
  let old := regRead s 0x100 % 65536
  logErr 0x41 10 0 0 old (s.setHost { s.host with
    held := [],
    proto := 0, rate := 0, width := 0, cacheEn := false, memEn := false, downCnt := satAdd 16 s.host.downCnt 1 })

/-- HOST_LINK_DOWN (R73). -/
def execHostLinkDown (s : State) : Host.Outcome State Fault Refusal := .next (if s.linkUp then commandReset (linkLost s) else s)

/-- PERST: PERST_N low restarts the host port, with the effects of R73 on command work (R425). -/
def execPerst (s : State) : Host.Outcome State Fault Refusal :=
  .next (
    let s := commandReset (linkLost s)
    s.setHost { s.host with busMaster := false, memSpace := false })

/-! ## CXL Reset (R73) -/

/-- The last of the FORMED steps, and of this member's shares of such, that meet a condition. -/
def State.lastFormed (s : State) (f : Nat → List StepSlot → Bool) : Option Nat :=
  ((s.seqs.steps.filter (fun p => p.state == 2 && f p.model p.slots)).map (·.id) ++
    (s.vine.steps.filter (fun h => h.planned && !h.chunk && f h.model h.slots)).map (·.id)).getLast?

/-- Every sequence closes: its appends, its park or its resume go with it. One that a FORMED step names stays until the boundary of the last
such step. -/
def closeAll (s : State) : State :=
  let s := s.pun.resumes.foldl (fun s r => dropStreams (fun _ v => !v.encode && v.handle == r.handle) s) s
  let s := s.setPun { s.pun with resumes := [], parks := s.pun.parks.map (fun k => { k with reader := none }) }
  let s := (s.pun.parks.filter (fun k => decide (k.state < 4))).foldl (fun s k => undoPark k s) s
  let s := s.setSeqs { s.seqs with chunks := [] }
  let s := s.setVine { s.vine with steps := s.vine.steps.filter (fun h => !h.chunk) }
  s.seqs.entries.foldl (fun s e =>
    if e.2.state = 0 then s else
    let s := e.2.appends.foldl (fun s a => dropReserved a.reserved s) s
    match s.lastFormed (fun _ l => l.any (fun x => x.q == e.1 && x.gen == e.2.gen)) with
    | none => releaseEntry e.1 s
    | some id =>
      let s := s.modSeq e.1 (fun v => { v with appends := [], state := 6 })
      s.setSeqs { s.seqs with effects := s.seqs.effects ++ [{ w := 16, n := 0, reply := false, at_ := some id, eff := .close e.1 }] }) s

/-- Every model and variant goes, with the parks and bramble nodes that name it. A model that a FORMED step reads stays until the boundary of
the last such step. -/
def dropAllModels (s : State) : State :=
  let s := s.pun.parks.foldl (fun s k => expirePark k s) s
  let s := s.seqs.bramble.foldl (fun s b => unrefPages (b.pages.map (·.2)) s) s
  let s := s.setSeqs { s.seqs with bramble := [] }
  s.seqs.models.foldl (fun s m =>
    match s.lastFormed (fun x _ => x == m.1) with
    | none => dropWhole m.1 s
    | some id =>
      s.setSeqs { s.seqs with effects := s.seqs.effects ++ [{ w := 16, n := 0, reply := false, at_ := some id, eff := .dropModel m.1 }] }) s

/-- CXL Reset: what it adds to the effect on command work. FORMED steps run to their boundaries, and what they name goes there; with none, a
rest boundary follows at once. Memory keeps its contents. A bias command in progress goes on (R61): granules that it has not yet marked when
the reset returns the others to device bias are marked as it ends. (DEDUCED, log entry 16, DESIGN CHOICE, log entry 49) -/
def cxlReset (s : State) : State :=
  let s := dropAllModels (closeAll (commandReset s))
  let s := if s.follows then s else restBoundary s
  s.host.hostBias.foldl (fun s g => recallGranule g s) s

/-- CXL_RESET (R73). -/
def execCxlReset (s : State) : Host.Outcome State Fault Refusal :=
  .next (if !s.linkUp then s else if s.released then cxlReset s else commandReset s)

/-! ## Training and errors (R51, R52, R75) -/

/-- PROTO that a link reaches: CXL at 32 GT/s or 64 GT/s only, CXL 3.1 at 64 GT/s only (R51). -/
def linkProto (p : HostProto) (rate : Nat) : Nat :=
  match p with
  | .pcieOnly => 1
  | .cxl20 => if rate < 5 then 1 else 2
  | .cxl31 => if rate < 5 then 1 else if rate = 5 then 2 else 3

/-- HOST_LINK_TRAIN: the port trains once MOD_PG is high, in RECOVERY as PCIe only (R428). -/
def linkTrain (p : HostProto) (rate width : Nat) (cacheEn memEn : Bool) (s : State) : State :=
  if !s.boot.pg || !inRange rate 1 6 || !([4, 8, 16].contains width) then s else
  let proto := if s.recovery then 1 else linkProto p rate
  s.setHost { s.host with
    proto := proto, rate := rate, width := width, cacheEn := cacheEn && decide (2 ≤ proto), memEn := memEn && decide (2 ≤ proto) }

/-- HOST_LINK_TRAIN (R51). -/
def execHostLinkTrain (proto : HostProto) (rate width : Nat) (cacheEn memEn : Bool) (s : State) : Host.Outcome State Fault Refusal :=
  .next (linkTrain proto rate width cacheEn memEn s)

/-- HOST_LINK_ERROR: AER's uncorrectable status, that of the CXL RAS capability, and the error log (R75). -/
def execHostLinkError (found : LinkErrors) (s : State) : Host.Outcome State Fault Refusal :=
  .next (if s.linkUp then
      logErr 0x40 10 0 0 found.aer.toNat (s.setHost { s.host with
        aer := Nat.lor s.host.aer found.aer.toNat, ras := Nat.lor s.host.ras found.ras.toNat })
    else s)

/-- CONFIGURATION_REQUEST (R425): retry until FIRMWARE has ended, then a write of the Command register's bits that it carries, or with
none a read of the CXL DVSEC (R60).
(DEDUCED, log entry 16) -/
def configRequest (busMaster memSpace : Option Bool) (s : State) : State :=
  if !s.linkUp then s
  else if !s.host.configLive then send .retryStatus s
  else if busMaster.isNone && memSpace.isNone then
    send (.dvsec s.host.memActive 0 s.host.range1 0x10000000000 s.host.range2) s
  else send .cfgDone (s.setHost { s.host with
    busMaster := busMaster.getD s.host.busMaster, memSpace := memSpace.getD s.host.memSpace })

/-- CONFIGURATION_REQUEST. -/
def execConfigurationRequest (busMaster memSpace : Option Bool) (s : State) : Host.Outcome State Fault Refusal :=
  .next (configRequest busMaster memSpace s)

end Sys2Proof.Machine
end

