-- ==== Sys2Proof/Machine/Vine.lean ====
section
/-! DEFINITION. Vine links: training, silence, credits and frames; how a module meets a message (spec 16, R336 to R347). -/

namespace Sys2Proof.Machine

/-! ## Training (R336) -/

/-- A port's new link: width, state and the receive credits of the far end. -/
def VinePort.linked (v : VinePort) (st width now : Nat) (peer : Option Nat) : VinePort :=
  { VinePort.reset with
    state := st, width := width, peer := peer, replays := v.replays, fecCorr := v.fecCorr, credits := [(0, 32), (1, 1024), (2, 512)],
    creditAt := if now = 0 then [] else [(0, now), (1, now), (2, now)], heardAt := now, triedAt := now }

/-- The state and width of a port that has trained, by the lanes that passed. -/
def trainedAs (lanesOk : BitVec 8) : Nat × Nat :=
  if lanesOk = 0xFF#8 then (2, 8) else if lanesOk = 0x0F#8 || lanesOk = 0xF0#8 then (3, 4) else (0, 0)

/-- VINE_TRAIN: a port in DOWN or TRAINING. -/
def vineTrain (p : Nat) (serial : U64) (peer : Option Nat) (lanesOk : BitVec 8) (s : State) : State :=
  if !s.vine.en || decide (1 < (s.vinePort p).state) then s
  else if serial = Config.serial then
    vineError 10 p (peer.getD 0) (s.modVinePort p (fun v => v.linked 4 0 s.now none))
  else
    let r := trainedAs lanesOk
    if r.1 = 0 then s.modVinePort p (fun v => v.down s.now) else s.modVinePort p (fun v => v.linked r.1 r.2 s.now peer)

/-- VINE_TRAIN (R336). -/
def execVineTrain (p : Fin 12) (peerSerial : U64) (peer : Option Nat) (lanesOk : BitVec 8) (s : State) :
    Host.Outcome State Fault Refusal :=
  .next (whenReleased (vineTrain p.val peerSerial peer lanesOk) s)

/-- VINE_TRAIN_RETRY: a DOWN port trains again 100 ms after it last tried. -/
def vineRetry (p : Nat) (s : State) : State :=
  if !s.vine.en || (s.vinePort p).state ≠ 0 then s else
  let s := s.advanceTo ((s.vinePort p).triedAt + msTicks 100)
  s.modVinePort p (fun v => { v with state := 1, triedAt := s.now })

/-- VINE_TRAIN_RETRY (R336). -/
def execVineTrainRetry (p : Fin 12) (s : State) : Host.Outcome State Fault Refusal := .next (whenReleased (vineRetry p.val) s)

/-! ## Down (R340, R341) -/

/-- The port carries frames. -/
def VinePort.up (v : VinePort) : Bool := v.state == 2 || v.state == 3

/-- VINE_DEAD_TIMEOUT: silence, or sixteen replays that failed in succession. -/
def vineDead (p : Nat) (replayFailed : Bool) (s : State) : State :=
  let v := s.vinePort p
  if !v.up then s
  else if replayFailed then (if v.replayFails < 17 then s else portDown p 1 s)
  else portDown p 2 (s.advanceTo (v.heardAt + usTicks (10 * s.vine.dead10us)))

/-- VINE_DEAD_TIMEOUT (R340). -/
def execVineDeadTimeout (p : Fin 12) (replayFailed : Bool) (s : State) : Host.Outcome State Fault Refusal :=
  .next (whenReleased (vineDead p.val replayFailed) s)

/-- VINE_CREDIT_TIMEOUT: frames have waited 2 ms for a credit. -/
def vineCredit (p vc : Nat) (s : State) : State :=
  let v := s.vinePort p
  if !v.up || tget 0 v.waiting vc = 0 then s else
  let s := s.advanceTo (tget 0 v.creditAt vc + msTicks 2)
  portDown p 7 (markRevoked { cls := 8, holder := p, res := vc, renewed := tget 0 v.creditAt vc } s)

/-- VINE_CREDIT_TIMEOUT (R341). -/
def execVineCreditTimeout (p : Fin 12) (vc : Fin 3) (s : State) : Host.Outcome State Fault Refusal :=
  .next (whenReleased (vineCredit p.val vc.val) s)

/-! ## Frames (R337 to R341) -/

/-- Frames of the two data channels that go out when n may: three of STEP for each of BULK while both wait (R341).
(DEDUCED, log entry 41) -/
def share3 (n a b : Nat) : Nat × Nat := let y := min b (max (n / 4) (n - a)); (min a (n - y), y)

/-- Sends k waiting frames of a channel. (DEDUCED, log entry 41) -/
def VinePort.emit (vc k : Nat) (v : VinePort) : VinePort :=
  { v with
    waiting := tmod 0 v.waiting vc (· - k), credits := tmod 0 v.credits vc (· - k), unacked := v.unacked + k,
    txSeq := (v.txSeq + k) % 4096, sinceIdle := (v.sinceIdle + k) % 4096 }

/-- Frames that may go out on a channel. -/
def VinePort.ready (v : VinePort) (vc : Nat) : Nat := min (tget 0 v.waiting vc) (tget 0 v.credits vc)

/-- Every channel sends what it may. -/
def VinePort.drainAll (v : VinePort) : VinePort :=
  let v := v.drain 0
  let k := share3 (2048 - v.unacked) (v.ready 1) (v.ready 2)
  (v.emit 1 k.1).emit 2 k.2

/-- The acknowledgement and the NAK of a frame (R339, R340). -/
def VinePort.acked (f : VineFrame) (v : VinePort) : VinePort :=
  let left := (v.txSeq + 4095 - f.ack % 4096) % 4096
  let progress := decide (left < v.unacked)
  { v with
    unacked := if progress then left else v.unacked,
    replays := if f.nak then satAdd 16 v.replays 1 else v.replays,
    replayFails := if f.nak then (if progress then 1 else v.replayFails + 1) else if progress then 0 else v.replayFails }

/-- The credits of a frame. -/
def VinePort.credited (f : VineFrame) (now : Nat) (v : VinePort) : VinePort :=
  if f.creditVc < 3 && decide (0 < f.credits) then
    { v with credits := tmod 0 v.credits f.creditVc (· + f.credits), creditAt := tset 0 v.creditAt f.creditVc now }
  else v

/-- The place of a frame in the stream: in order it is taken, a repeated one is ignored, and one beyond a gap is refused with NAK. -/
def VinePort.received (f : VineFrame) (v : VinePort) : VinePort :=
  let ahead := (f.fseq + 4096 - v.rxSeq) % 4096
  if f.idle then v
  else if ahead = 1 then { v with rxSeq := f.fseq % 4096, nakSent := false }
  else if inRange ahead 2 2048 then { v with nakSent := true } else v

/-- VINE_FRAME. (DEDUCED, log entry 41) -/
def vineFrame (p : Nat) (f : VineFrame) (s : State) : State :=
  if !(s.vinePort p).up then s
  else if !f.correctable then s.modVinePort p (fun v => { v with nakSent := true })
  else s.modVinePort p (fun v =>
    let v := { v with heardAt := s.now, fecCorr := satAdd 16 v.fecCorr (b2n f.corrected) }
    (((v.acked f).credited f s.now).received f).drainAll)

/-- VINE_FRAME (R339). -/
def execVineFrame (p : Fin 12) (f : VineFrame) (s : State) : Host.Outcome State Fault Refusal :=
  .next (whenReleased (vineFrame p.val f) s)

/-! ## Messages (R343 to R347) -/

/-- The link key of the epoch (R347). -/
def State.linkKey (s : State) : List Byte :=
  hkdf s.vine.secret (natLe 8 s.vine.groupId) (ascii "VINE" ++ natLe 4 s.vine.epoch) 32

/-- A sealed message as it travels (R344, R347): its header, the block header with the tag, and the encrypted body. NONCE is SRC, MSG_CTR
and four zero bytes; the associated data are the message header with HOPS 0 and block header bytes 0x00 to 0x2F. -/
def State.sealed (s : State) (t : VineTx) : List Byte :=
  let n := if t.data.isEmpty then t.body.length else t.data.length
  let size := blockSize n
  let nonce := natLe 2 t.src ++ natLe 6 t.ctr ++ natLe 4 0
  let h := blockHeader size t.mode 2 0xFF 0 size n t.body.length nonce
  let x := gcmSeal s.linkKey nonce (({ t with hops := 0 } : VineTx).header ++ h) t.body
  t.header ++ h ++ x.2 ++ x.1

/-- A block that does not open is a corrupt block of one of the codecs of the port's wedge, which one the spec leaves open (R313, R319).
(DESIGN CHOICE, log entry 41) -/
def corruptMessage (m : VineMsg) (s : State) : State :=
  let (x, s) := s.free
  noteCorrupt (2 * (m.port / 3) + x % 2) m.seg 2 [] s

/-- CLAIM, CONFIRM, CONFIRM_ACK and KEY are signed; every other kind is sealed under the link key. -/
def signedKind (kind : Nat) : Bool := inRange kind 1 4

/-- What a message carries, as it is passed on, with the step or record it belongs to and the layer it names. -/
structure Content where
  kind : Nat
  args : List Nat
  data : List Byte
  id : Nat
  layer : Nat
  deriving DecidableEq, Repr

/-- A message as a transit module sends it on. -/
def VineTx.of (m : VineMsg) (c : Content) : VineTx :=
  { kind := c.kind, hops := m.hops - 1, dst := m.dst, src := m.src, epoch := m.epoch, groupId := m.groupId.toNat, ctr := m.msgCtr,
    seg := m.seg, last := m.last, port := m.port, mode := 0, args := c.args, data := c.data }

/-- Passes a message on; one whose hops are used up is dropped and logged (R343). -/
def passOn (m : VineMsg) (c : Content) (s : State) : State :=
  if m.hops ≤ 1 then vineError 3 m.port m.src s else vinePost (VineTx.of m c) s

/-- A segment of a message kind of a source joins those before it (R345): the whole hand-off, once it is there; what was given up
with it. (DEDUCED, log entry 41) -/
def joinSegment (m : VineMsg) (c : Content) (s : State) : Option (List Byte) × Option Content × State :=
  let mine := fun (x : Partial) => x.src == m.src && vcOf x.kind == vcOf c.kind
  let rest := s.vine.partials.filter (fun x => !mine x)
  let put := fun (seg : Nat) (data : List Byte) => s.setVine { s.vine with
    partials := rest ++ [{ src := m.src, port := m.port, kind := c.kind, seg := seg, id := c.id, layer := c.layer, data := data }] }
  let clear := s.setVine { s.vine with partials := rest }
  match s.vine.partials.find? mine with
  | none =>
    if m.seg ≠ 0 then (none, some c, s) else if m.last then (some c.data, none, s) else (none, none, put 0 c.data)
  | some x =>
    let lost : Content := { kind := x.kind, args := [], data := [], id := x.id, layer := x.layer }
    if m.seg = x.seg + 1 && x.kind == c.kind && x.id == c.id then
      (if m.last then (some (x.data ++ c.data), none, clear) else (none, none, put m.seg (x.data ++ c.data)))
    else if m.seg ≠ 0 then (none, some lost, clear)
    else if m.last then (some c.data, some lost, clear) else (none, some lost, put 0 c.data)

/-- A flood is met for the first time: it is kept in mind, and goes out by every other port (R343). -/
def meetFlood (m : VineMsg) (c : Content) (s : State) : State :=
  passOn m c (s.setVine { s.vine with floods := s.vine.floods ++ [(m.src, m.msgCtr)] })

/-- A message of this group renews its sender's lease (R360). -/
def hear (src : Nat) (s : State) : State :=
  s.setVine { s.vine with
    heard := tset 0 s.vine.heard src s.now, stemHeard := if src = s.vine.stem then s.now else s.vine.stemHeard }

/-- A message arrives. It is passed on when it is for another member; dropped unread when it is of another group or of an epoch gone
by; dropped with an error, and lost does what its loss does, when its seal, its signature or its segment does not hold (R343 to R347).
Otherwise got meets its data. -/
def onMessage (m : VineMsg) (c : Content) (lost : Content → State → State) (got : List Byte → State → State) (s : State) : State :=
  let flood := decide (m.dst = 0xFFFF)
  if !s.released || s.vine.state = 0 || !decide (m.port < 12) || !(s.vinePort m.port).up then s
  else if m.hops = 0 then vineError 3 m.port m.src s
  else if !flood && m.dst ≠ s.vine.member then passOn m c s
  else if flood && (m.src = s.vine.member || s.vine.floods.contains (m.src, m.msgCtr)) then s
  else
    let s := if flood then meetFlood m c s else s
    if m.groupId.toNat ≠ s.vine.groupId || m.epoch < s.vine.epoch then s
    else if !m.sealOk || (!signedKind c.kind && s.vine.state < 2) then
      lost c (vineError (if signedKind c.kind then 6 else 5) m.port m.src (if signedKind c.kind then s else corruptMessage m s))
    else match joinSegment m c (hear m.src s) with
    | (whole, gone, s) =>
      let s := match gone with
        | some g => lost g (vineError 5 m.port m.src s)
        | none => s
      match whole with
      | some d => got d s
      | none => s

/-- Nothing follows from the loss of a message. -/
def lostQuietly (_ : Content) (s : State) : State := s

end Sys2Proof.Machine
end

