-- ==== Sys2Proof/Machine/Bringup.lean ====
section
/-! DEFINITION. From power to release: rails, the stages of bring-up, their failures and the resets that restart them (spec 20, R400,
R451, R453). -/

namespace Sys2Proof.Machine

/-! ## What a loss of power leaves (R264, R397, R422, R424, R441) -/

/-- The module without power: every register at its reset value. What the flash and the fuses hold stays; so do the punnets in their
seats. Handles go on from the last one issued, and every earlier one is answered EXPIRED (R264). The commands that wait, and what has been
sent already, are no state of the module. (DEDUCED, log entry 42) -/
def coldState (s : State) : State :=
  { State.reset with
    pending := s.pending, freeCtr := s.freeCtr,
    pun := { Punnets.reset with nextHandle := s.pun.nextHandle, ended := s.pun.ended ++ s.pun.parks.map (fun k => (k.handle, k.tenant)) },
    host := { HostPort.reset with out := s.host.out }, vine := { Vine.reset with out := s.vine.out },
    sec := { Sec.reset with
      fusedSvn := s.sec.fusedSvn, slotA := s.sec.slotA, slotB := s.sec.slotB, sel0 := s.sec.sel0, sel1 := s.sec.sel1, boots := s.sec.boots },
    boot := { Boot.reset with pwrEn := s.boot.pwrEn, rstLow := s.boot.rstLow, present := s.boot.present } }

/-- PWR_EN_RISE: with the input in range for 1 ms, RAILS starts. -/
def execPwrEnRise (inputInRange : Bool) (s : State) : Host.Outcome State Fault Refusal :=
  .next (
    let s := s.setBoot { s.boot with pwrEn := true }
    if inputInRange && s.boot.stage == 1 then s.setBoot { s.boot with railsUp := true } else s)

/-- PWR_EN_FALL (R422). -/
def execPwrEnFall (s : State) : Host.Outcome State Fault Refusal :=
  .next (
    let s := coldState s
    s.setBoot { s.boot with pwrEn := false })

/-- INPUT_UNDERVOLTAGE (R451). -/
def execInputUndervoltage (s : State) : Host.Outcome State Fault Refusal := .next (coldState s)

/-- INPUT_OVERVOLTAGE (R451). -/
def execInputOvervoltage (s : State) : Host.Outcome State Fault Refusal := .next (coldState s)

/-- Bring-up restarts at FUSES with the rails kept up (R424); before the rails are in regulation, RAILS goes on. -/
def restartFuses (s : State) : State :=
  let b := s.boot
  let s := coldState s
  s.setBoot { s.boot with
    railsUp := b.railsUp, pg := b.pg, stage := if b.pg then 2 else 1, tap := b.tap, bypassBit := b.bypassBit, tdo := b.tdo }

/-- MOD_RST (R424, R453): bring-up waits at FUSES until MOD_RST_N has risen. -/
def execModRst (s : State) : Host.Outcome State Fault Refusal :=
  .next (
    let s := restartFuses s
    s.setBoot { s.boot with rstLow := true })

/-- RECOVERY_RESTART (R428): ten milliseconds after the reply of a FW_COMMIT SELECT in RECOVERY. -/
def execRecoveryRestart (s : State) : Host.Outcome State Fault Refusal :=
  .next (match s.sec.restartAt with
    | some t => if s.recovery then restartFuses (s.advanceTo t) else s
    | none => s)

/-! ## Failures and progress (R426, R427) -/

/-- The module halts with a failure code. -/
def halt (code us : Nat) (s : State) : State := s.setBoot { s.boot with stage := 9, fail := code, stageUs := us }

/-- The module enters RECOVERY with a failure code: the host port comes up as PCIe only, and the slot that the selector in force does
not name is the other slot (R428). -/
def recover (code us : Nat) (s : State) : State :=
  let v := s.sec
  let s := s.setSec { v with
    slot := if v.sel0.crcOk || v.sel1.crcOk then v.selector.boot else 1, otherState := 0, trial := false, trialSlot := none }
  let s := s.setHost { s.host with configLive := true, proto := min 1 s.host.proto, cacheEn := false, memEn := false }
  s.setBoot { s.boot with stage := 8, fail := code, stageUs := us }

/-- The next stage begins. -/
def stageDone (next : Nat) (s : State) : State := s.setBoot { s.boot with stage := next, stageAt := s.now }

/-- A stage's time passes on the interval counters. (DESIGN CHOICE, log entry 15, DEDUCED, log entry 42) -/
def spend (us : Nat) (s : State) : State := s.tick (usTicks us)

/-- Runs f in a stage. -/
def inStage (n : Nat) (f : State → State) (s : State) : State := if s.boot.stage = n then f s else s

/-! ## RAILS and FUSES -/

/-- RAILS (R421): MOD_PG rises when every rail is in regulation, within 20 ms. -/
def execRails (inRegulation : Bool) (elapsedUs : Nat) (s : State) : Host.Outcome State Fault Refusal :=
  .next (inStage 1 (fun s =>
    if !s.boot.railsUp then s
    else if inRegulation && decide (elapsedUs ≤ 20000) then stageDone 2 (s.setBoot { s.boot with pg := true })
    else halt 1 elapsedUs s) s)

/-- FUSES (R423, R426): it begins when MOD_RST_N is high; the interval counters run once REFCLK_B has been checked. -/
def execFuses (fuseOk clockOk : Bool) (elapsedUs : Nat) (s : State) : Host.Outcome State Fault Refusal :=
  .next (inStage 2 (fun s =>
    let s := s.setBoot { s.boot with rstLow := false, tap := .bypass }
    if !fuseOk then halt 2 elapsedUs s
    else if !clockOk || decide (2000 < elapsedUs) then halt 3 elapsedUs s
    else stageDone 3 ((s.setBoot { s.boot with clockOk := true }).setCtl { s.ctl with running := true })) s)

/-! ## IMAGE (R396, R397, R400) -/

/-- The check of R396 on a slot: what the module met there at power-up is checked outside the model, with the stage code given; what
FW_STAGE wrote is checked here. -/
def State.slotFault (s : State) (slot found : Nat) : Option Nat :=
  match if slot = 0 then s.sec.slotA else s.sec.slotB with
  | .asFound => if found = 0 then none else some found
  | .erased => some 0x06
  | .image b => imageFault b s.sec.fusedSvn

/-- Microseconds that the read of a slot's image takes: 400 MB/s. (DEDUCED, log entry 42) -/
def State.readUs (s : State) (slot : Nat) : Nat := fld (s.flash slot) 8 4 / 400

/-- The image in a slot starts: the boot secret is drawn, the keys are derived. -/
def bootSlot (slot : Nat) (trial : Bool) (s : State) : State :=
  let v := s.sec
  stageDone 4 (s.setSec { v with
    slot := slot, trial := trial, trialSlot := if trial then some slot else none, otherState := if trial then 4 else 0,
    imageSvn := fld (s.flash slot) 6 1, boots := v.boots + 1 })

/-- Verifies the slots to try in turn, and starts the first that passes. (DEDUCED, log entry 42) -/
def trySlots (codes : Nat → Nat) (us : Nat) : List (Nat × Bool) → State → State
  | [], s => recover 5 us s
  | x :: xs, s =>
    match s.slotFault x.1 (codes x.1) with
    | none => bootSlot x.1 x.2 s
    | some c => trySlots codes us xs (noteSigFail c s)

/-- IMAGE. A trial gets one bring-up: the selector names its fallback before it starts (R400). (DEDUCED, log entry 42) -/
def bootImage (flashOk : Bool) (stageA stageB us : Nat) (s : State) : State :=
  let s := spend us s
  if !flashOk || !(s.sec.sel0.crcOk || s.sec.sel1.crcOk) then recover 4 us s else
  let r := s.sec.selector
  let codes := fun slot => if slot = 0 then stageA else stageB
  let back := r.fallback.getD (1 - r.boot)
  let tries := if r.trial then [(r.boot, true), (back, false)] else [(r.boot, false)]
  if us ≤ 10000 || decide (us ≤ 10000 + ((tries.map (fun x => s.readUs x.1)).sum)) then
    trySlots codes us tries (if r.trial then writeSelector back false none s else s)
  else recover 5 us s

/-- IMAGE (R426). -/
def execImage (flashOk : Bool) (stageA stageB : Nat) (elapsedUs : Nat) (s : State) : Host.Outcome State Fault Refusal :=
  .next (inStage 3 (bootImage flashOk stageA stageB elapsedUs) s)

/-! ## FIRMWARE (R132, R229, R426) -/

/-- A Zest instruction word (R226). -/
def zestWord (op d a b c imm : Nat) : U64 :=
  BitVec.ofNat 64 (op * 2 ^ 58 + d * 2 ^ 53 + a * 2 ^ 48 + b * 2 ^ 43 + c * 2 ^ 38 + imm)

/-- Words 0 to 12 of GELU_TANH: K1 is 0.044715 and K2 0.7978846, each as the nearest FP32 value. -/
def zestGelu : List U64 :=
  [zestWord 1 2 0 0 0 0x80000000, zestWord 2 3 0 0 2 0, zestWord 1 4 0 0 0 0x3D372713, zestWord 2 3 3 4 2 0, zestWord 2 3 3 0 0 0,
    zestWord 1 4 0 0 0 0x3F4C422A, zestWord 2 3 3 4 2 0, zestWord 0xA 3 3 0 0 0, zestWord 1 5 0 0 0 0x3F000000, zestWord 2 3 3 5 5 0,
    zestWord 1 4 0 0 0 0xFF800000, zestWord 7 0 0 4 2 2, zestWord 2 0 0 3 2 0]

/-- Words 0 to 4 of SILU. -/
def zestSilu : List U64 :=
  [zestWord 0xB 3 0 0 0 0, zestWord 1 2 0 0 0 0x80000000, zestWord 1 4 0 0 0 0xFF800000, zestWord 7 0 0 4 2 2, zestWord 2 0 0 3 2 0]

/-- The programs of slots 0 to 4 (R229). -/
def zestPrograms : List (Nat × List U64) :=
  let end_ := zestWord 0 0 0 0 0 0
  let gate := zestWord 2 0 0 1 2 0
  [(0, zestGelu ++ [end_]), (1, zestSilu ++ [end_]), (2, zestSilu ++ [gate, end_]), (3, zestGelu ++ [gate, end_]),
    (4, [zestWord 7 0 0 2 2 0, end_])]

/-- FIRMWARE: the cores start, both Zest banks are loaded, XTS_EN is set from the image, and configuration space is live. -/
def startFirmware (us : Nat) (s : State) : State :=
  let s := spend us s
  let bank : ZestBank := { tables := [], programs := zestPrograms }
  let s := s.setZest { s.zest with bank0 := bank, bank1 := bank }
  let s := s.setMem { s.mem with xtsEn := imageXts s.runningImage }
  let s := (List.range 8).foldl (fun s c => s.modCore c (fun v => { v with state := 1, lastBeat := s.now })) s
  stageDone 5 (s.setHost { s.host with configLive := true })

/-- FIRMWARE (R426). -/
def execFirmware (ok : Bool) (elapsedUs : Nat) (s : State) : Host.Outcome State Fault Refusal :=
  .next (inStage 4 (fun s => if ok && decide (elapsedUs ≤ 50000) then startFirmware elapsedUs s else recover 6 elapsedUs s) s)

/-! ## MEMORY (R120, R121, R427, R430, R431) -/

/-- Channels that training has mapped out. -/
def StackTraining.outMask (t : StackTraining) : Nat :=
  if t.failed then 0xFFFFFFFF else maskOf ((List.range 32).filter (fun c => decide (4 < t.spares.getD c 15)))

/-- Spare lanes by channel, four bits each. -/
def StackTraining.spareWord (t : StackTraining) : Nat :=
  (List.range 32).foldl (fun m c =>
    let n := t.spares.getD c 15
    m + (if t.failed || decide (4 < n) then 15 else n) * 16 ^ c) 0

/-- A stack as training leaves it. -/
def trainStack (i : Nat) (t : StackTraining) (s : State) : State :=
  let out := StackTraining.outMask t
  let mib := if isPipStack i then 3072 else 4096
  let s := s.modStack i (fun v => { v with
    chMap := out, spares := StackTraining.spareWord t, capMib := (32 - popCount 32 out) * mib, sensors := t.sensors || !t.failed,
    state := if t.failed then 4 else if out = 0 then 1 else 2 })
  if t.sensors || !t.failed then stackTemp i t.tempC s else s.modStack i (fun v => { v with temp := 0, refresh := 0 })

/-- A stack that training does not name is FAILED and its sensors do not answer. -/
def StackTraining.absent : StackTraining := { failed := true, spares := [], sensors := false, tempC := 0 }

/-- Plain stack 0 cannot hold the bramble pages, or no plain capacity remains. -/
def State.memoryFails (s : State) : Bool := s.plainChannels 0 == 0

/-- MEMORY's limit in microseconds: 300 ms for training (R426), and the 36.7 ms that initialisation takes with every channel in service
(R431). (DEDUCED, log entry 42) -/
def memoryLimitUs : Nat := 336721

/-- MEMORY: the stacks are trained, the fold and the pool follow, and firmware takes the bramble pages. (DEDUCED, log entry 42) -/
def bringMemory (training : List StackTraining) (us : Nat) (s : State) : State :=
  let s := spend us s
  let s := (List.range 16).foldl (fun s i => trainStack i (training.getD i StackTraining.absent) s) s
  if s.memoryFails || decide (memoryLimitUs < us) then halt 7 us s else
  let plain := 4096 * s.plainCaps.sum
  let s := s.setMem { s.mem with plainSize := plain, poolTotal := ((List.range 8).map s.stackPages).sum }
  let s := s.setHost { s.host with range1 := plain / 2 ^ 28 * 2 ^ 28, range2 := 0x10000000000 }
  stageDone 6 ((List.range 16).foldl (fun s p => usePage p 3 0 s) s)

/-- MEMORY (R426). -/
def execMemory (training : List StackTraining) (elapsedUs : Nat) (s : State) : Host.Outcome State Fault Refusal :=
  .next (inStage 5 (bringMemory training elapsedUs) s)

/-! ## LINKS (R324, R336, R426) -/

/-- A Vine port as training leaves it. -/
def linkVine (p st : Nat) (s : State) : State :=
  match st with
  | 2 => s.modVinePort p (fun v => v.linked 2 8 s.now none)
  | 3 => s.modVinePort p (fun v => v.linked 3 4 s.now none)
  | 4 => vineError 10 p 0 (s.modVinePort p (fun v => v.linked 4 0 s.now none))
  | _ => s.modVinePort p (fun v => v.down s.now)

/-- A punnet that is present is bound as by PUNNET_BIND with EXPECT_ID 0; one that fails the bind stays PRESENT, and that is logged. -/
def linkPunnet (p : Nat) (x : Nat × Nat × PunnetFacts) (s : State) : State :=
  let s := punnetInsert p x.1 x.2.1 s
  let f := x.2.2
  if (s.punPort p).width = 0 || !punnetFits f then punError p 5 none s
  else match s.punnetIdFault f with
    | some c => punError p 5 none (noteSigFail c s)
    | none => bindPort p f s

/-- LINKS. (DEDUCED, log entry 42) -/
def bringLinks (vineStates : List Nat) (punnets : List (Option (Nat × Nat × PunnetFacts))) (us : Nat) (s : State) : State :=
  let s := spend us s
  let s := (List.range 12).foldl (fun s p => linkVine p (vineStates.getD p 0) s) s
  let s := (List.range 4).foldl (fun s p =>
    match (punnets[p]?).join with
    | some x => linkPunnet p x s
    | none => s) s
  s.setBoot { s.boot with linksDone := true }

/-- LINKS (R426). -/
def execLinks (vineStates : List Nat) (punnets : List (Option (Nat × Nat × PunnetFacts))) (elapsedUs : Nat) (s : State) :
    Host.Outcome State Fault Refusal :=
  .next (inStage 6 (fun s => if s.boot.linksDone then s else bringLinks vineStates punnets elapsedUs s) s)

/-! ## Release (R432) -/

/-- RELEASE: MOD_STATUS reads READY and Memory_Active 1. -/
def goReady (us : Nat) (s : State) : State :=
  let worn := (List.range 16).any (fun i => (s.stack i).chMap != 0)
  let s := s.setHost { s.host with memActive := true }
  let s := (List.range 8).foldl (fun s c => s.modCore c (fun v => { v with lastBeat := s.now })) s
  let s := stageDone 7 s
  s.setBoot { s.boot with degraded := worn, releaseUs := us }

/-- RELEASE. -/
def execRelease (releaseUs : Nat) (s : State) : Host.Outcome State Fault Refusal :=
  .next (inStage 6 (fun s => if s.boot.linksDone then goReady releaseUs s else s) s)

/-! ## A channel that fails in service (R122) -/

/-- CHANNEL_FAILURE: its reads give poison until the next bring-up, and the stack reads DEGRADED. -/
def channelFails (i c : Nat) (s : State) : State :=
  s.modStack i (fun v =>
    if bit v.chMap c then v
    else { v with failedCh := setBit v.failedCh c true, state := if v.state = 1 then 2 else v.state })

/-- CHANNEL_FAILURE (R122). -/
def execChannelFailure (s : Fin 16) (c : Fin 32) (st : State) : Host.Outcome State Fault Refusal :=
  .next (whenReleased (channelFails s.val c.val) st)

end Sys2Proof.Machine
end

