-- ==== Sys2Proof/Machine/Election.lean ====
section
/-! DEFINITION. Elections, confirmations, membership leases and the records that join and leave a group (spec 16, R351 to R353, R360 to
R364). -/

namespace Sys2Proof.Machine

/-! ## Entry mirrors (R361) -/

/-- A list of numbers with its length in front. -/
def counted (l : List Nat) : List Nat := l.length :: l

/-- The first counted list, and the rest. -/
def uncount : List Nat → List Nat × List Nat
  | [] => ([], [])
  | n :: r => (r.take n, r.drop n)

/-- The first n counted lists, and the rest. -/
def uncounts : Nat → List Nat → List (List Nat) × List Nat
  | 0, l => ([], l)
  | n + 1, l =>
    let x := uncount l
    let xs := uncounts n x.2
    (x.1 :: xs.1, xs.2)

/-- A sequence entry as CONFIRM_ACK carries it: what does not lie on the members of its replica alone. (DESIGN CHOICE, log entry 37) -/
def mirrorEntry (q : Nat) (e : SeqEntry) : List Nat :=
  let v := e.sampler
  [q, e.state, e.tenant, e.model, e.variant, e.customer, e.outWindow, e.maxLen, e.len, (e.pending.map (· + 1)).getD 0, b2n e.stopped,
    b2n e.faulted, e.faultPos, e.newCnt, e.gen, v.temp.toNat, v.topK, v.topP.toNat, v.minP.toNat, v.repPen.toNat, v.presPen.toNat,
    v.penWindow, v.seed, v.drawCtr, (v.mask.map (· + 1)).getD 0, e.stops.maxNew, e.stops.seqs.length] ++
    counted e.stops.tokens ++ counted e.history ++ e.stops.seqs.flatMap counted

/-- A number that may be absent, as its successor, or 0. -/
def present (n : Nat) : Option Nat := if n = 0 then none else some (n - 1)

/-- The entry that a mirror carries, with its number. -/
def unmirror (l : List Nat) : Nat × SeqEntry :=
  let g := fun i => l.getD i 0
  let f := fun i => BitVec.ofNat 32 (g i)
  let tail := uncounts (2 + g 26) (l.drop 27)
  let v : Sampler :=
    { temp := f 15, topK := g 16, topP := f 17, minP := f 18, repPen := f 19, presPen := f 20, penWindow := g 21, seed := g 22,
      drawCtr := g 23, mask := present (g 24) }
  let st : Stops := { tokens := tail.1.getD 0 [], seqs := tail.1.drop 2, maxNew := g 25 }
  (g 0, { SeqEntry.free with
    state := g 1, tenant := g 2, model := g 3, variant := g 4, customer := g 5, outWindow := g 6, maxLen := g 7, len := g 8,
    pending := present (g 9), stopped := g 10 != 0, faulted := g 11 != 0, faultPos := g 12, newCnt := g 13, gen := g 14, sampler := v,
    stops := st, history := tail.1.getD 1 [] })

/-- The entries of this module's replica. -/
def State.mirror (s : State) : List Nat :=
  (s.seqs.entries.filter (fun e => e.2.state != 0 && s.holdsSeq e.1)).flatMap (fun e => counted (mirrorEntry e.1 e.2))

/-- A candidate that was not the stem takes the entries of other replicas from their mirrors. -/
def takeMirror (mirror : List Nat) (s : State) : State :=
  ((uncounts mirror.length mirror).1.filter (fun l => !l.isEmpty)).foldl (fun s l =>
    let e := unmirror l
    if s.holdsSeq e.1 then s else s.modSeq e.1 (fun _ => e.2)) s

/-! ## Claims (R351) -/

/-- An election starts: a claim for the epoch above the highest seen, or for a higher one that was claimed. -/
def startElection (least : Nat) (s : State) : State :=
  let e := max (s.vine.seen + 1) least
  let own := (s.vine.member, s.vine.prio, Config.serial.toNat)
  let s := s.setVine { s.vine with
    seen := e, electing := some e, claims := [own], electAt := s.now, confirmAt := none, acks := [],
    elections := satAdd 7 s.vine.elections 1 }
  vineSendIn e 0x01 0xFFFF [s.vine.prio, Config.serial.toNat, e] [] s

/-- A claim joins those of the election in progress. (DEDUCED, log entry 38) -/
def addClaim (member prio serial : Nat) (s : State) : State :=
  s.setVine { s.vine with claims := s.vine.claims.filter (fun c => c.1 != member) ++ [(member, prio, serial)] }

/-- A claim arrives: the stem starts an election; a module that is electing collects it, or goes on at its higher epoch. -/
def claimArrive (m : VineMsg) (prio : Nat) (serial : U64) (s : State) : State :=
  let s' := s.setVine { s.vine with seen := max s.vine.seen m.epoch }
  match s.vine.electing with
  | some e =>
    if m.epoch < e then s
    else addClaim m.src prio serial.toNat (if m.epoch = e then s else startElection m.epoch s)
  | none =>
    if s.vine.state = 3 && s.vine.epoch < m.epoch then addClaim m.src prio serial.toNat (startElection m.epoch s) else s'

/-- CLAIM (R351). -/
def execClaim (m : VineMsg) (prio : Nat) (serial : U64) (s : State) : Host.Outcome State Fault Refusal :=
  .next (onMessage m { kind := 1, args := [prio, serial.toNat, m.epoch], data := [], id := 0, layer := 0 } lostQuietly
    (fun _ => claimArrive m prio serial) s)

/-- Claim a is better than claim b: the higher priority, then the lower serial. -/
def claimBeats (a b : Nat × Nat × Nat) : Bool := decide (b.2.1 < a.2.1) || (a.2.1 == b.2.1 && decide (a.2.2 < b.2.2))

/-- The best claim; one of priority 0 is never best. -/
def bestClaim (cs : List (Nat × Nat × Nat)) : Option (Nat × Nat × Nat) :=
  (cs.filter (fun c => c.2.1 != 0)).foldl (fun b c => match b with
    | none => some c
    | some x => if claimBeats c x then some c else some x) none

/-! ## Confirmation (R352) -/

/-- The members that the candidate counts: those of the epoch before, or the whole shape for a first epoch. -/
def State.countedMembers (s : State) : List Nat :=
  if s.vine.members.isEmpty then List.range (s.shapeW * s.shapeD * s.shapeR) else s.vine.members

/-- CONFIRM of an epoch, naming some members, goes to some. -/
def sendConfirm (e : Nat) (named : List Nat) (dests : List Nat) (s : State) : State :=
  dests.foldl (fun s d => if d = s.vine.member then s else vineSendIn e 0x02 d ([e, named.length] ++ named) [] s) s

/-- This module asks for the confirmation of an epoch with some members. (DEDUCED, log entry 38) -/
def propose (e : Nat) (named dests : List Nat) (s : State) : State :=
  let me := s.vine.member
  let s := s.setVine { s.vine with
    seen := max s.vine.seen e, electing := some e, confirmAt := some s.now, acks := [me], acked := e, ackedTo := me, named := named,
    namedSize := named.length }
  sendConfirm e named dests s

/-- ELECTION_WINDOW_END: the best claim wins; its member asks for confirmation. -/
def electionEnd (s : State) : State :=
  match s.vine.electing with
  | none => s
  | some e =>
    if s.vine.confirmAt.isSome then s else
    let s := s.advanceTo (s.vine.electAt + msTicks s.vine.electMs)
    match bestClaim s.vine.claims with
    | none => s
    | some c =>
      if c.1 ≠ s.vine.member then s else
      let ms := (s.vine.claims.map (·.1)).foldl (fun l m => sinsert m l) s.countedMembers
      propose e ms ms s

/-- ELECTION_WINDOW_END (R351). -/
def execElectionWindowEnd (s : State) : Host.Outcome State Fault Refusal := .next (whenReleased electionEnd s)

/-- ELECTION_RETRY: no CONFIRM within twice ELECT_MS. -/
def electionRetry (s : State) : State :=
  match s.vine.electing with
  | none => s
  | some _ =>
    if s.vine.confirmAt.isSome then s
    else startElection 0 (s.advanceTo (s.vine.electAt + msTicks (2 * s.vine.electMs)))

/-- ELECTION_RETRY (R351). -/
def execElectionRetry (s : State) : Host.Outcome State Fault Refusal := .next (whenReleased electionRetry s)

/-! ## Leaving a group (R364) -/

/-- What this module holds of a group ends: sequences of other replicas leave its table, and those of its own hold no usable KV. -/
def dropGroupSequences (s : State) : State :=
  s.seqs.entries.foldl (fun s e =>
    if e.2.state = 0 then s
    else if s.holdsSeq e.1 then s.modSeq e.1 (fun v => { v with faulted := true, faultPos := 0 })
    else freeEntry e.1 s) s

/-- The registers and the rest of a module in no group; its links, its errors and its last epoch stay. -/
def Vine.alone (v : Vine) : Vine :=
  { Vine.reset with
    en := v.en, zrunEn := v.zrunEn, dead10us := v.dead10us, electMs := v.electMs, leaseMs := v.leaseMs, elections := v.elections,
    errCount := v.errCount, errKind := v.errKind, errPort := v.errPort, errMember := v.errMember, ports := v.ports, out := v.out,
    epoch := v.epoch, stem := v.stem }

/-- The module is in no group: its open join and leave records are answered. -/
def leaveGroup (s : State) : State :=
  let j := s.vine.joining
  let l := s.vine.leaving
  let s := if s.inCascade then dropGroupSequences s else s
  let s := s.setVine s.vine.alone
  let s := s.setSeqs { s.seqs with groupSize := 1 }
  let s := match j with
    | some r => complete r.1 r.2.1 (badState 0x62) s
    | none => s
  match l with
  | some r => complete r.1 r.2 (done []) s
  | none => s

/-! ## A new epoch -/

/-- Work on shares of a former stem is discarded, and the appends of its chunks with it (R361). (DEDUCED, log entry 39) -/
def discardWork (s : State) : State :=
  let s := s.setVine { s.vine with steps := [], partials := [], plans := [], lacking := [], held := [] }
  let s := s.setSeqs { s.seqs with effects := s.seqs.effects.map (fun e => { e with at_ := none }) }
  s.seqs.entries.foldl (fun s e =>
    if e.2.appends.isEmpty then s else
    let s := e.2.appends.foldl (fun s a => dropReserved a.reserved s) s
    s.modSeq e.1 (fun v => { v with
      appends := [], state := if v.state = 2 then 1 else v.state,
      stopped := ((v.appends.head?.filter (·.begun)).map (·.stopped0)).getD v.stopped })) s

/-- The CASCADE fences of this module go to the new stem. (DEDUCED, log entry 39) -/
def renewFences (s : State) : State :=
  let s := s.setVine { s.vine with fenceWaits := [], fences := [] }
  (s.records.filter (fun r => r.2.isGroupFence && r.2.started && r.2.progress == 0)).foldl (fun s r => askGroupFence r.2 s) s

/-- A record that a stem serves for its group (R349). -/
def Taken.ofGroup (t : Taken) : Bool := inRange t.opcode 0x30 0x43 || t.opcode == 0x62

/-- Every group record that a stem has taken and not completed is answered LEASE_LOST (R361). (DEDUCED, log entry 39) -/
def settleGroup (s : State) : State :=
  let rs := s.records.filter (fun r => r.2.ofGroup)
  let s := (rs.filter (fun r => r.2.opcode != 0x32)).foldl (fun s r => withdrawRecord 10 r.1 r.2 s) s
  let s := s.seqs.steps.foldl (fun s p => withdrawStep p (leaseLost 10) s) s
  let s := (rs.filter (fun r => r.2.opcode == 0x32)).foldl (fun s r => complete r.1 r.2.n (leaseLost 10) s) s
  s.setSeqs { s.seqs with chunks := [] }

/-- VINE_JOIN completes (R362). -/
def joined (s : State) : State :=
  match s.vine.joining with
  | some r => complete r.1 r.2.1 (done []) (s.setVine { s.vine with joining := none })
  | none => s

/-- The epoch, the members and the size of a confirmation (R352). -/
def newEpoch (e stem state size : Nat) (members : List Nat) (secret : List Byte) (s : State) : State :=
  let s := s.setVine { s.vine with
    epoch := e, seen := max s.vine.seen e, stem := stem, state := state, size := size, members := members, secret := secret, msgCtr := 0,
    floods := [], electing := none, claims := [], confirmAt := none, acks := [], stemHeard := s.now, liveAt := s.now,
    heard := members.foldl (fun t m => tset 0 t m s.now) [] }
  s.setSeqs { s.seqs with groupSize := size }

/-- The steps that a new stem finds unfinished are void: a null boundary for each (R361). (DEDUCED, log entry 39) -/
def voidShares (s : State) : State :=
  let n := (s.vine.steps.filter (fun h => h.planned && !h.chunk)).length
  (List.range n).foldl (fun s _ => boundary none true [] s) (discardWork s)

/-- Members that a new epoch has lost answer no fence any more. -/
def dropMissing (before : List Nat) (s : State) : State :=
  (before.filter (fun m => !s.vine.members.contains m)).foldl (fun s m =>
    match s.vine.fences with
    | f :: _ => fenceAnswered f.id m s
    | [] => s) s

/-- A module takes the budgets over from another stem: ORIGIN is its own counter at that instant, and every SPENT goes on in window 0
(R437, C10). -/
def takeBudgets (s : State) : State :=
  s.setSeqs { s.seqs with
    origin := s.now,
    customers := s.seqs.customers.foldl (fun t p => tset Customer.initial t p.1 { p.2 with window := 0 }) [] }

/-- The module is confirmed as stem in the place of another. -/
def State.takesOver (s : State) : Bool := decide (2 ≤ s.vine.state) && decide (s.vine.stem ≠ s.vine.member)

/-- The candidate becomes stem with the members that answered (R352): it tells them who they are, and sends KEY.
(DEDUCED, log entry 39) -/
def becomeStem (e : Nat) (s : State) : State :=
  let was := s.vine.state
  let before := s.vine.members
  let over_ := s.takesOver
  let ms := s.vine.acks
  let s := if ms = s.vine.named then s else sendConfirm e ms ms s
  let (secret, s) := s.draw
  let s := newEpoch e s.vine.member 3 ms.length ms secret (if over_ then takeBudgets s else s)
  let s := (ms.filter (fun m => m ≠ s.vine.member)).foldl (fun s m => vineSendIn e 0x04 m [] secret s) s
  let s := if was = 3 then dropMissing before s else renewFences (voidShares s)
  joined s

/-- QUORUM_TIMEOUT: ELECT_MS after CONFIRM. -/
def quorumTimeout (s : State) : State :=
  match s.vine.electing, s.vine.confirmAt with
  | some e, some t =>
    let s := s.advanceTo (t + msTicks s.vine.electMs)
    let base := s.countedMembers
    if base.length < 2 * (s.vine.acks.filter base.contains).length then becomeStem e s
    else s.setVine { s.vine with confirmAt := none, acks := [], claims := [] }
  | _, _ => s

/-- QUORUM_TIMEOUT (R352). -/
def execQuorumTimeout (s : State) : Host.Outcome State Fault Refusal := .next (whenReleased quorumTimeout s)

/-- A member accepts a candidate's CONFIRM: it asks nobody else in that epoch, and sends its mirrors. (DEDUCED, log entry 38) -/
def acceptConfirm (m : VineMsg) (members : List Nat) (size : Nat) (s : State) : State :=
  let s := s.setVine { s.vine with
    seen := max s.vine.seen m.epoch, acked := m.epoch, ackedTo := m.src, named := members, namedSize := size, electing := none,
    claims := [], confirmAt := none, acks := [] }
  vineSendIn m.epoch 0x03 m.src (m.epoch :: s.mirror) [] s

/-- A CONFIRM arrives (R352): one that names this module is answered once in an epoch; the same candidate's second one names the members
that answered. One that leaves out a module on its way out ends its membership (R364). -/
def confirmArrive (m : VineMsg) (members : List Nat) (size : Nat) (s : State) : State :=
  if m.epoch ≤ s.vine.epoch then s
  else if !members.contains s.vine.member then
    (if s.vine.state = 5 then leaveGroup s else s.setVine { s.vine with seen := max s.vine.seen m.epoch })
  else if s.vine.acked < m.epoch then acceptConfirm m members size s
  else if m.epoch = s.vine.acked && m.src = s.vine.ackedTo then s.setVine { s.vine with named := members, namedSize := size }
  else s

/-- CONFIRM (R352). -/
def execConfirm (m : VineMsg) (members : List Nat) (size : Nat) (s : State) : Host.Outcome State Fault Refusal :=
  .next (onMessage m { kind := 2, args := [m.epoch, size] ++ members, data := [], id := 0, layer := 0 } lostQuietly
    (fun _ => confirmArrive m members size) s)

/-- A member's acceptance arrives at the candidate. (DEDUCED, log entry 38) -/
def ackArrive (m : VineMsg) (mirror : List Nat) (s : State) : State :=
  if s.vine.confirmAt.isNone || s.vine.electing ≠ some m.epoch then s else
  let s := s.setVine { s.vine with acks := sinsert m.src s.vine.acks }
  if s.vine.state = 3 then s else takeMirror mirror s

/-- CONFIRM_ACK (R352). -/
def execConfirmAck (m : VineMsg) (mirror : List Nat) (s : State) : Host.Outcome State Fault Refusal :=
  .next (onMessage m { kind := 3, args := m.epoch :: mirror, data := [], id := 0, layer := 0 } lostQuietly (fun _ => ackArrive m mirror) s)

/-- LEAVE goes to the stem. -/
def sendLeave (s : State) : State := vineSend 0x7F s.vine.stem [] [] (s.setVine { s.vine with state := 5 })

/-- KEY: the module is a member of the epoch that it accepted (R347, R352). -/
def keyArrive (m : VineMsg) (secret : List Byte) (s : State) : State :=
  if m.epoch ≤ s.vine.epoch || m.epoch ≠ s.vine.acked || m.src ≠ s.vine.ackedTo || m.src = s.vine.member then s else
  let moved := decide (2 ≤ s.vine.state) && decide (s.vine.stem ≠ m.src)
  let s := if s.vine.state = 3 then settleGroup s else s
  let s := if moved then discardWork s else s
  let s := newEpoch m.epoch m.src 2 s.vine.namedSize s.vine.named secret s
  let s := if moved then renewFences (s.setVine { s.vine with ordinal := 0 }) else s
  let s := joined s
  if s.vine.leaving.isSome then sendLeave s else s

/-- KEY (R347). -/
def execKey (m : VineMsg) (secret : List Byte) (s : State) : Host.Outcome State Fault Refusal :=
  .next (onMessage m { kind := 4, args := [], data := secret, id := 0, layer := 0 } lostQuietly (fun d => keyArrive m d) s)

/-! ## Membership leases (R360, R361) -/

/-- LIVE (R360): its arrival renews the lease. -/
def execLive (m : VineMsg) (s : State) : Host.Outcome State Fault Refusal :=
  .next (onMessage m { kind := 5, args := [], data := [], id := 0, layer := 0 } lostQuietly (fun _ s => s) s)

/-- The ticks of a membership lease. -/
def State.memberLease (s : State) : Nat := msTicks s.vine.leaseMs

/-- A quarter of the lease after the last one, LIVE goes to the stem, or from it to every member (R360).
(DESIGN CHOICE, log entry 1, DEDUCED, log entry 41) -/
def sendLive (s : State) : State :=
  if !s.released || !s.inCascade || s.vine.state = 4 || s.now < s.vine.liveAt + s.memberLease / 4 then s else
  let s := s.setVine { s.vine with liveAt := s.now }
  if s.vine.state = 3 then vineSendAll 0x05 s.vine.members [] [] s else vineSend 0x05 s.vine.stem [] [] s

/-- What passes while the block has no command: one tick of the interval counters (R446), and the LIVE messages that fall due.
(DEDUCED, log entry 41) -/
def idle (s : State) : State := sendLive (s.tick 1)

/-- What the stem ends when a replica loses a member (R360, R364). (DEDUCED, log entry 39) -/
def endReplica (m : Nat) (s : State) : State :=
  let r := s.replicaOf m
  let mine := fun q => q % s.shapeR == r
  let s := (s.seqs.steps.filter (fun p => p.slots.any (fun e => mine e.q))).foldl (fun s p => nullBoundary p 0x0204 9 s) s
  let s := (s.seqs.chunks.filter (fun c => c.rows.any (fun e => mine e.q))).foldl (fun s c =>
    failFills c.rows 0x0204 9 (dropChunk c.id s)) s
  let s := s.seqs.entries.foldl (fun s e =>
    if e.2.state != 0 && mine e.1 then s.modSeq e.1 (fun v => { v with faulted := true, faultPos := 0 }) else s) s
  let s := (s.vine.collects.filter (fun c => c.members.contains m)).foldl (fun s c => failCollect c (leaseLost 9) m s) s
  let s := s.setVine { s.vine with
    fences := s.vine.fences.take 1 ++ (s.vine.fences.drop 1).filter (fun f => f.from_ != m) }
  let s := match s.vine.fences with
    | f :: _ => fenceAnswered f.id m s
    | [] => s
  coolMember m s

/-- The stem asks for an epoch without a member; one on its way out is told (R360, R364). -/
def confirmWithout (m : Nat) (s : State) : State :=
  propose (s.vine.seen + 1) (serase m s.vine.members) s.vine.members s

/-- MEMBER_LEASE_EXPIRE: the stem has not heard a member. -/
def memberExpire (m : Nat) (s : State) : State :=
  if s.vine.state ≠ 3 || !s.vine.members.contains m || m = s.vine.member then s else
  let s := s.advanceTo (tget 0 s.vine.heard m + s.memberLease)
  confirmWithout m (endReplica m (msix 19 (vineError 8 15 m s)))

/-- MEMBER_LEASE_EXPIRE (R360). -/
def execMemberLeaseExpire (member : Nat) (s : State) : Host.Outcome State Fault Refusal := .next (whenReleased (memberExpire member) s)

/-- STEM_LEASE_EXPIRE: a member has not heard the stem. -/
def stemExpire (s : State) : State :=
  if s.vine.state ≠ 2 && s.vine.state ≠ 5 then s else
  let s := s.advanceTo (s.vine.stemHeard + s.memberLease)
  startElection 0 (msix 19 (vineError 9 15 s.vine.stem s))

/-- STEM_LEASE_EXPIRE (R361). -/
def execStemLeaseExpire (s : State) : Host.Outcome State Fault Refusal := .next (whenReleased stemExpire s)

/-- Numbers in rising order. -/
def sortNat (l : List Nat) : List Nat := l.foldr (fun x t => (t.takeWhile (· < x)) ++ x :: t.dropWhile (· < x)) []

/-- The tick at which the stem has not heard more than half of its members, itself among those heard, within the lease.
(DEDUCED, log entry 38) -/
def State.demoteAt (s : State) : Option Nat :=
  let others := s.vine.members.filter (fun m => m ≠ s.vine.member)
  ((sortNat (others.map (fun m => tget 0 s.vine.heard m)))[ceilDiv s.vine.members.length 2 - 1]?).map (· + s.memberLease)

/-- STEM_DEMOTE. -/
def stemDemote (s : State) : State :=
  if s.vine.state ≠ 3 then s else
  match s.demoteAt with
  | none => s
  | some t => settleGroup ((s.advanceTo t).setVine { s.vine with state := 4 })

/-- STEM_DEMOTE (R361). -/
def execStemDemote (s : State) : Host.Outcome State Fault Refusal := .next (whenReleased stemDemote s)

/-! ## Records (R362 to R364) -/

/-- The route table in its bytes: entry m is the low half of byte m / 2 when m is even. (DESIGN CHOICE, log entry 37) -/
def routesOf (d : List Byte) : Table Nat :=
  ((d.zipIdx.flatMap (fun b => [(2 * b.2, b.1.toNat % 16), (2 * b.2 + 1, b.1.toNat / 16)])).filter (fun e => e.2 != 0xF))

/-- The module's group, as VINE_JOIN gives it. (DEDUCED, log entry 38) -/
def joinVine (t : Taken) (routes : List Byte) (w now : Nat) (v : Vine) : Vine :=
  { v.alone with
    groupId := t.at 0x20 8, member := t.at 0x28 2, wLog2 := t.at 0x2A 1, dM1 := t.at 0x2B 1 - 1, rM1 := t.at 0x2C 2 - 1,
    prio := t.at 0x2E 1, model := t.at 0x2F 1, firstLayer := t.at 0x30 2, layerCount := t.at 0x32 2, routes := routesOf routes,
    state := 1, joining := some (w, t.n, now), epoch := 0, stem := 0 }

/-- VINE_JOIN. (DEDUCED, log entry 38) -/
def vineJoin (src : Src) (w : Nat) (t : Taken) (s : State) : State :=
  let m := s.model (t.at 0x2F 1)
  let checks : List (Bool × Answer) :=
    [(!s.inGroup, badState 0x64), (m.state == 1 || m.state == 2, badState 0x13),
     (decide (t.at 0x30 2 + t.at 0x32 2 ≤ m.layers), badField 0x32)]
  checked w t.n checks (fun s =>
    match readSource (t.at 0x34 1 == 1) (t.at 0x38 8) 2048 src s with
    | (.waiting, _) => s
    | (.poison a, s) => complete w t.n a s
    | (.bytes d, s) => startElection 0 ((startRecord w t.n s).setVine (joinVine t d w s.now s.vine))) s

/-- VINE_JOIN (R362). -/
def execVineJoin (w : Fin 16) (n : U32) (src : Src) (s : State) : Host.Outcome State Fault Refusal :=
  .next (onRecord 0x60 w.val n.toNat (fun t => !t.started) (vineJoin src) s)

/-- VINE_JOIN_TIMEOUT: a second without a confirmation. -/
def joinTimeout (s : State) : State :=
  match s.vine.joining with
  | some r => leaveGroup (s.advanceTo (r.2.2 + msTicks 1000))
  | none => s

/-- VINE_JOIN_TIMEOUT (R362). -/
def execVineJoinTimeout (s : State) : Host.Outcome State Fault Refusal := .next (whenReleased joinTimeout s)

/-- VINE_ROLE. -/
def vineRole (f : Taken → State → State) (w : Nat) (t : Taken) (s : State) : State :=
  checked w t.n [(s.inGroup, badState 0x65)] (fun s => complete w t.n (done []) (f t s)) s

/-- VINE_ROLE with OP PRIORITY (R363). -/
def execVineRolePriority (w : Fin 16) (n : U32) (s : State) : Host.Outcome State Fault Refusal :=
  .next (onRecord 0x61 w.val n.toNat (fun t => t.at 0x20 1 == 0)
    (vineRole (fun t s => s.setVine { s.vine with prio := t.at 0x21 1 })) s)

/-- VINE_ROLE with OP ELECT (R363). -/
def execVineRoleElect (w : Fin 16) (n : U32) (s : State) : Host.Outcome State Fault Refusal :=
  .next (onRecord 0x61 w.val n.toNat (fun t => t.at 0x20 1 == 1) (vineRole (fun _ s => startElection 0 s)) s)

/-- A module begins to leave: at once when it is alone or not confirmed yet; a stem gives up its role first; a member tells the stem.
(DEDUCED, log entry 38) -/
def beginLeave (w n : Nat) (s : State) : State :=
  let s := (startRecord w n s).setVine { s.vine with leaving := some (w, n) }
  if s.vine.state = 1 || s.vine.members.length ≤ 1 then leaveGroup s
  else if s.vine.state = 3 then startElection 0 (s.setVine { s.vine with prio := 0 })
  else sendLeave s

/-- VINE_LEAVE with OP DRAIN (R364). -/
def execVineLeaveDrain (w : Fin 16) (n : U32) (s : State) : Host.Outcome State Fault Refusal :=
  .next (onRecord 0x63 w.val n.toNat (fun t => t.at 0x20 1 == 0 && !t.started)
    (fun w t s => checked w t.n
      [(s.inGroup, badState 0x65),
       (!s.seqs.entries.any (fun e => e.2.state != 0 && e.1 % s.shapeR == s.replicaOf s.vine.member), badState 0x63)]
      (beginLeave w t.n) s) s)

/-- VINE_LEAVE with OP FORCE (R364). -/
def execVineLeaveForce (w : Fin 16) (n : U32) (s : State) : Host.Outcome State Fault Refusal :=
  .next (onRecord 0x63 w.val n.toNat (fun t => t.at 0x20 1 == 1 && !t.started)
    (fun w t s => checked w t.n [(s.inGroup, badState 0x65)]
      (fun s => beginLeave w t.n (if s.vine.state = 3 then endReplica s.vine.member s else s)) s) s)

/-- A member's notice arrives at the stem (R364): its replica ends as for a lost member, and an epoch without it is confirmed. -/
def leaveArrive (m : Nat) (s : State) : State :=
  if s.vine.state ≠ 3 || !s.vine.members.contains m then s else confirmWithout m (endReplica m s)

/-- LEAVE (R364). -/
def execLeave (m : VineMsg) (s : State) : Host.Outcome State Fault Refusal :=
  .next (onMessage m { kind := 0x7F, args := [], data := [], id := 0, layer := 0 } lostQuietly (fun _ => leaveArrive m.src) s)

end Sys2Proof.Machine
end

