-- ==== Sys2Proof/Machine/Cascade.lean ====
section
/-! DEFINITION. What the hand-offs of a cascade do where they arrive: steps and chunks, commits, fences, heat and collectives (spec 16,
R353 to R359). -/

namespace Sys2Proof.Machine

/-! ## A step's hand-offs (R354, R356) -/

/-- A hand-off of a step or chunk that cannot be opened: the step ends in a null boundary with the layer index (R347). -/
def lostStep (c : Content) (s : State) : State :=
  if s.vine.state = 3 then faultArrive c.id 0x0303 c.layer s
  else if s.follows then vineSend 0x14 s.vine.stem [c.id, 0x0303, c.layer, 0] [] (dropShare c.id s)
  else s

/-- What a member takes from its stem only. -/
def fromStem (m : VineMsg) (f : State → State) (s : State) : State := if s.follows && m.src == s.vine.stem then f s else s

/-- What the stem takes from its members. -/
def atStem (f : State → State) (s : State) : State := if s.vine.state = 3 then f s else s

/-- The numbers that PLAN carries in front of its pairs. (DESIGN CHOICE, log entry 37) -/
def planArgs (p : HeldPlan) : List Nat :=
  [p.id, p.model, b2n p.chunk, b2n p.srEn, p.srKey, p.force, p.limit] ++ p.pairs.flatMap (fun x => [x.1, x.2])

/-- PLAN (R354). -/
def execPlan (m : VineMsg) (stepNo model : Nat) (chunk : Bool) (seqs : List (Nat × Nat)) (record : List Byte) (sroundEn : Bool)
    (sroundKey : U32) (force defaultLimit : Nat) (s : State) : Host.Outcome State Fault Refusal :=
  let p : HeldPlan :=
    { id := stepNo, model := model, chunk := chunk, pairs := seqs, record := record, srEn := sroundEn, srKey := sroundKey.toNat,
      force := force, limit := defaultLimit }
  .next (onMessage m
    { kind := 0x10, args := if record.isEmpty then planArgs p else [], data := record, id := stepNo, layer := s.vine.firstLayer }
    (if record.isEmpty then lostStep else lostQuietly) (fun _ => fromStem m (planArrive p)) s)

/-- The hidden vectors of a step enter the stage (R354). -/
def actArrive (id hidden wide : Nat) (d : List Byte) (s : State) : State :=
  let rows := chunksOf (max 1 hidden) (f32sOf d)
  onShare id (fun h => { h with
    input := some rows, wide := h.wide + wide, slots := h.slots.zipIdx.map (fun e => { e.1 with hidden := rows.getD e.2 [] }) }) s

/-- ACT (R354). -/
def execAct (m : VineMsg) (stepNo : Nat) (hidden : List (List F32)) (wideSoFar : Nat) (s : State) : Host.Outcome State Fault Refusal :=
  .next (onMessage m
    { kind := 0x11, args := [stepNo, wideSoFar], data := hidden.flatMap f32Bytes, id := stepNo, layer := s.vine.firstLayer } lostStep
    (fun d s => actArrive stepNo (s.model s.vine.model).hidden wideSoFar d s) s)

/-- PART (R356). -/
def execPart (m : VineMsg) (stepNo layer mat rank : Nat) (sums : List F32) (s : State) : Host.Outcome State Fault Refusal :=
  .next (onMessage m
    { kind := 0x12, args := [stepNo, layer, mat, rank], data := f32Bytes sums, id := stepNo, layer := layer } lostStep
    (fun d => onShare stepNo (fun h => { h with parts := h.parts ++ [(layer, mat, rank, f32sOf d)] })) s)

/-- TOKENS (R354). -/
def execTokens (m : VineMsg) (stepNo : Nat) (toks : List SlotToken) (wideLayers : Nat) (s : State) : Host.Outcome State Fault Refusal :=
  .next (onMessage m
    { kind := 0x13, args := [stepNo, wideLayers], data := toks.flatMap slotTokenBytes, id := stepNo,
      layer := (s.model s.vine.model).layers }
    lostStep (fun _ => atStem (tokensArrive stepNo toks wideLayers)) s)

/-- A fault reaches the stem: that of a step or chunk, or of a COLLECT. -/
def faultReport (m : VineMsg) (id status layer stack : Nat) (s : State) : State :=
  if 2 ^ 63 ≤ id then
    match s.collect ((id - 2 ^ 63) / 2 ^ 32) ((id - 2 ^ 63) % 2 ^ 32) with
    | some c => failCollect c (ans status stack) m.src s
    | none => s
  else if status = 0x0303 && stack != 0 then kvArrive id layer ((stack - 1) % 4096) ((stack - 1) / 4096) s
  else faultArrive id status (if status = 0x0306 then stack else layer) s

/-- FAULT (R354). -/
def execFault (m : VineMsg) (stepNo status layer stack : Nat) (s : State) : Host.Outcome State Fault Refusal :=
  .next (onMessage m { kind := 0x14, args := [stepNo, status, layer, stack], data := [], id := stepNo, layer := layer } lostStep
    (fun _ => atStem (faultReport m stepNo status layer stack)) s)

/-! ## Commits (R353) -/

/-- The tokens of a commit take effect on the entries of this member's share. -/
def commitShare (id : Nat) (toks : List SlotToken) (s : State) : State :=
  match s.share id with
  | none => s
  | some h =>
    if h.chunk then s else
    let s := toks.foldl (fun s t =>
      match (h.nums.zip h.slots).find? (fun e => e.1 == t.slot) with
      | some (_, e) =>
        if (s.seq e.q).gen ≠ e.gen then s else
        (commitSeq e.q (if t.token = 0xFFFFFFFF#32 then none else some t.token.toNat) (some (t.stopReason, t.stopIndex)) s).2
      | none => s) s
    dropShare id s

/-- The pages that this member's sequences will need next are reserved; the sequences for which that fails (R353). -/
def reserveAll (s : State) : List Nat × State :=
  (s.seqs.entries.filter (fun e => e.2.state == 1 && s.holdsSeq e.1)).foldl (fun (a : List Nat × State) e =>
    match reserveNext e.1 a.2 with
    | some s => (a.1, s)
    | none => (a.1 ++ [e.1], a.2)) ([], s)

/-- A member applies the stem's commit: effects 1, 2, 3 and 6 of R37, and the settings that fall behind them. -/
def applyCommit (ordinal stamp id : Nat) (toks : List SlotToken) (charges : List (Nat × Nat)) (s : State) : State :=
  if ordinal ≤ s.vine.ordinal then s else
  let es := s.seqs.effects.filter (Pending.due (some id))
  let s := s.setSeqs { s.seqs with effects := s.seqs.effects.filter (fun e => !Pending.due (some id) e), boundaryCnt := ordinal }
  let s := s.setVine { s.vine with ordinal := ordinal }
  let s := commitShare id toks (applyEarly es s)
  let s := es.foldl (fun s e => applyBudget e.eff stamp s) s
  let s := if s.vine.prio = 0 then s else charges.foldl (fun s c =>
    (List.range c.2).foldl (fun s _ => chargeToken c.1 stamp s) s) s
  let s := applyLate es (releaseMarked (endModels es (endCloses es (cancelledBy es) s)))
  let (lacking, s) := reserveAll s
  let s := vineSend 0x16 s.vine.stem (ordinal :: lacking) [] s
  reportHeat (if id = noStep then s else countBoundary s)

/-- COMMIT (R353). -/
def execCommit (m : VineMsg) (ordinal stamp : U64) (stepNo : Nat) (outcomes : List Nat) (toks : List SlotToken)
    (charges : List (Nat × Nat)) (s : State) : Host.Outcome State Fault Refusal :=
  .next (onMessage m
    { kind := 0x15, args := [ordinal.toNat, stamp.toNat, stepNo] ++ outcomes,
      data := toks.flatMap slotTokenBytes ++ charges.flatMap (fun c => natLe 2 c.1 ++ natLe 2 c.2), id := stepNo, layer := 0 } lostQuietly
    (fun _ => fromStem m (applyCommit ordinal.toNat stamp.toNat stepNo toks charges)) s)

/-- COMMIT_ACK (R353). -/
def execCommitAck (m : VineMsg) (ordinal : U64) (lackingSeqs : List Nat) (s : State) : Host.Outcome State Fault Refusal :=
  .next (onMessage m { kind := 0x16, args := ordinal.toNat :: lackingSeqs, data := [], id := 0, layer := 0 } lostQuietly
    (fun _ => atStem (fun s => s.setVine { s.vine with lacking := lackingSeqs.foldl (fun l q => sinsert q l) s.vine.lacking })) s)

/-! ## Fences (R355) -/

/-- FENCE_REQ: a member's fence reaches the stem, or the stem's request a member. -/
def execFenceReq (m : VineMsg) (fence : Nat) (s : State) : Host.Outcome State Fault Refusal :=
  .next (onMessage m { kind := 0x20, args := [fence], data := [], id := 0, layer := 0 } lostQuietly
    (fun _ s => if s.vine.state = 3 then queueGroupFence fence m.src s else fromStem m (fenceAsked fence) s) s)

/-- FENCE_DONE: a member's answer reaches the stem, or the end of the fence a member. -/
def execFenceDone (m : VineMsg) (fence : Nat) (s : State) : Host.Outcome State Fault Refusal :=
  .next (onMessage m { kind := 0x21, args := [fence], data := [], id := 0, layer := 0 } lostQuietly
    (fun _ s => if s.vine.state = 3 then fenceAnswered fence m.src s else fromStem m (fenceOver fence) s) s)

/-! ## Heat (R358, R359) -/

/-- HOLD (R358). -/
def execHold (m : VineMsg) (stack : Nat) (s : State) : Host.Outcome State Fault Refusal :=
  .next (onMessage m { kind := 0x30, args := [stack], data := [], id := 0, layer := 0 } lostQuietly
    (fun _ => atStem (holdMember m.src stack)) s)

/-- COOL (R358). -/
def execCool (m : VineMsg) (s : State) : Host.Outcome State Fault Refusal :=
  .next (onMessage m { kind := 0x31, args := [], data := [], id := 0, layer := 0 } lostQuietly (fun _ => atStem (coolMember m.src)) s)

/-- A COLLECT reads a stack on a member. -/
def State.collectReads (s : State) (c : Collect) (m stack : Nat) : Bool :=
  c.sources.contains m && !c.got.any (fun g => g.1 == m) &&
    (List.range (ceilDiv c.len 64)).any (fun i => s.stackOf (c.src + 64 * i) == stack)

/-- A member's stack has stopped: the replica's current step ends in a null boundary, and COLLECTs that read the stack complete. -/
def stopArrive (m stack : Nat) (s : State) : State :=
  let r := s.replicaOf m
  let mine := fun (p : Step) => p.state == 2 && p.slots.any (fun e => e.q % s.shapeR == r)
  let s := match s.seqs.steps.find? mine with
    | some p => nullBoundary p 0x0306 stack s
    | none => s
  (s.vine.collects.filter (fun c => s.collectReads c m stack)).foldl (fun s c => failCollect c (ans 0x0306 stack) m s) s

/-- STOP (R359). -/
def execStop (m : VineMsg) (stack : Nat) (s : State) : Host.Outcome State Fault Refusal :=
  .next (onMessage m { kind := 0x32, args := [stack], data := [], id := 0, layer := 0 } lostQuietly
    (fun _ => atStem (stopArrive m.src stack)) s)

/-! ## Collectives (R347, R357) -/

/-- A hand-off of a COLLECT that cannot be opened: the record completes with ECC_UNCORRECTED and the port (R347). -/
def lostBulk (port : Nat) (c : Content) (s : State) : State :=
  match s.collect (c.id / 2 ^ 32) (c.id % 2 ^ 32) with
  | some x => failCollect x (eccUncorrected (32 + port)) s.vine.member s
  | none => s

/-- BULK (R357). -/
def execBulk (m : VineMsg) (w : Fin 16) (n : U32) (data : List Byte) (s : State) : Host.Outcome State Fault Refusal :=
  .next (onMessage m { kind := 0x40, args := [w.val, n.toNat], data := data, id := w.val * 2 ^ 32 + n.toNat, layer := 0 }
    (lostBulk m.port) (fun d => bulkArrive w.val n.toNat m.src d) s)

end Sys2Proof.Machine
end

