-- ==== Sys2Proof/Machine/MemOps.lean ====
section
/-! DEFINITION. Memory records: MEM_COPY, MEM_FILL, REGION_SET, REGION_SEAL, SCRUB and FLUSH_ACK, and the scrubber's sweeps (spec 03
R66, spec 05). -/

namespace Sys2Proof.Machine

/-! ## Copy and fill (R128, R129) -/

/-- What a run of line copies gave: lines done, and the burst at which a source read met poison. -/
structure CopyOut where
  lines : Nat
  bad : Option Nat
  deriving DecidableEq, Repr

/-- Copies n lines of 64 B from DPA a to DPA d, until poison is met, a stopped stack takes no more writes, or a line lies in a bank pair
that a slice has closed (R142). -/
def copyLines (a d : Nat) : Nat → State → CopyOut × State
  | 0, s => ({ lines := 0, bad := none }, s)
  | n + 1, s =>
    if s.closedAt a || s.closedAt d then ({ lines := 0, bad := none }, s) else
    let (o, s) := moduleRead (ledgerReader 1) a 64 s
    match o.bad with
    | some b => ({ lines := 0, bad := some b }, s)
    | none =>
      match writeMem 1 d o.bytes s with
      | (false, _) => ({ lines := 0, bad := none }, s)
      | (true, s) =>
        let (r, s) := copyLines (a + 64) (d + 64) n s
        ({ r with lines := r.lines + 1 }, s)

/-- Writes lines of 64 B from DPA d on, until a stopped stack takes no more or a slice has closed the line's bank pair; the number written. -/
def writeLines (d : Nat) : List (List Byte) → State → Nat × State
  | [], s => (0, s)
  | l :: ls, s =>
    if s.closedAt d then (0, s) else
    match writeMem 1 d l s with
    | (false, _) => (0, s)
    | (true, s) =>
      let (k, s) := writeLines (d + 64) ls s
      (k + 1, s)

/-- The record has done k more bytes; it completes when all n are done, and goes on later otherwise. -/
def bytesDone (w : Nat) (t : Taken) (k n : Nat) (s : State) : State :=
  let p := t.progress + k
  if n ≤ p then complete w t.n (done (natLe 8 n)) s else modRecord w t.n (fun t => { t with progress := p }) s

/-- MEM_COPY from device or host memory, from where it stands. -/
def memCopy (src : Src) (w : Nat) (t : Taken) (s : State) : State :=
  let n := t.at 0x30 8
  let p := t.progress
  let d := t.at 0x28 8 + p
  if t.at 0x38 1 = 0 then
    let (o, s) := copyLines (t.at 0x20 8 + p) d ((n - p) / 64) (addErrs src.errs s)
    match o.bad with
    | some b => complete w t.n { eccUncorrected (s.stackOf (32 * b)) with result := natLe 8 (p + 64 * o.lines) } s
    | none => bytesDone w t (64 * o.lines) n s
  else
    let a := t.at 0x20 8 + p
    match src.host with
    | .poison => complete w t.n { eccUncorrected 0xFFFFFFFF with result := natLe 8 p } (hostRead a 64 s)
    | .bytes b =>
      let s := hostRead a (min (n - p) (b.length / 64 * 64)) s
      let (k, s) := writeLines d (chunksOf 64 (b.take (min (n - p) (b.length / 64 * 64)))) s
      bytesDone w t (64 * k) n s

/-- MEM_FILL, from where it stands. -/
def memFill (w : Nat) (t : Taken) (s : State) : State :=
  let n := t.at 0x28 8
  let p := t.progress
  let line := (List.replicate 8 (bytesAt t.bytes 0x30 8)).flatten
  let (k, s) := writeLines (t.at 0x20 8 + p) (List.replicate ((n - p) / 64) line) s
  bytesDone w t (64 * k) n s

/-- MEM_COPY (R128). -/
def execMemCopy (w : Fin 16) (n : U32) (src : Src) (s : State) : Host.Outcome State Fault Refusal :=
  .next (onOp 0x10 w.val n.toNat (memCopy src) s)

/-- MEM_FILL (R129). -/
def execMemFill (w : Fin 16) (n : U32) (s : State) : Host.Outcome State Fault Refusal :=
  .next (onOp 0x11 w.val n.toNat memFill s)

/-! ## Regions (R115 to R117, R149) -/

/-- A pip-placed layer of a FORMED step has rows in a range of pip-stack memory (R149). -/
def State.stepReads (s : State) (a n : Nat) : Bool :=
  s.seqs.steps.any (fun p => p.state == 2 && (List.range ((s.model p.model).layers + 1)).any (fun l =>
    (s.model p.model).map.any (fun e => e.layer == l && isPipStack e.stack && (List.range e.rowCount).any (fun i =>
      let cols := (s.model p.model).matCols e.mat
      rowKind (s.layerIn p.model p.cap l p.batch false) l e i cols s == 6 &&
        (overlaps (e.codeDpa + i * e.rowStride) (rowCodeBytes (s.model p.model).wFormat cols 8) a n ||
          overlaps (e.recDpa + i * e.recStride) (rowSlotBytes (s.model p.model).wFormat cols) a n)))))

/-- A record's range, by its fields at 0x20 and 0x28. -/
def Taken.base (t : Taken) : Nat := t.at 0x20 8
/-- LENGTH of a record's range. -/
def Taken.len (t : Taken) : Nat := t.at 0x28 8

/-- The granule's sixteen blocks. -/
def granuleBlocks (g : Nat) : List Nat := (List.range 16).map (fun i => 16 * g + i)

/-- A stack of the range is STOPPED (R418), or a slice has closed one of its bank pairs (R142): the conversion waits. -/
def State.rangeStopped (s : State) (a n : Nat) : Bool :=
  (List.range (ceilDiv n 65536)).any (fun i => s.stopped (a + 65536 * i)) || s.closedIn a n

/-- Converts one protected granule (R115): the burst that could not be corrected, if one is met. -/
def makeCompute (g : Nat) (s : State) : Option Nat × State :=
  if s.mem.compute.contains g then (none, s)
  else
    let (o, s) := readBursts (plainReader 9) (2048 * g) 2048 s
    match o.bad with
    | some b => (some b, s)
    | none =>
      let s := recallRange (65536 * g) 65536 s
      let s := (chunksOf 32 o.bytes).zipIdx.foldl (fun s e => storeBurst (2048 * g + e.2) e.1 s) s
      let s := s.setMem { s.mem with compute := sinsert g s.mem.compute }
      (none, rebuildBlocks (granuleBlocks g) s)

/-- Converts granules in ascending order: the number done, and the burst that stopped it. -/
def convertAll (f : Nat → State → Option Nat × State) : List Nat → State → (Nat × Option Nat) × State
  | [], s => ((0, none), s)
  | g :: gs, s =>
    match f g s with
    | (some b, s) => ((0, some b), s)
    | (none, s) =>
      let (r, s) := convertAll f gs s
      ((r.1 + 1, r.2), s)

/-- The granules of a record's range. -/
def Taken.granules (t : Taken) : List Nat := (List.range (t.len / 65536)).map (fun i => t.base / 65536 + i)

/-- Converts a record's range and answers. -/
def convertRange (f : Nat → State → Option Nat × State) (w : Nat) (t : Taken) (s : State) : State :=
  let (r, s) := convertAll f t.granules s
  match r.2 with
  | some b => complete w t.n { eccUncorrected (s.stackOf (32 * b)) with result := natLe 8 (65536 * r.1) } s
  | none => complete w t.n (done (natLe 8 t.len)) s

/-- A REGION_SET or REGION_SEAL may proceed: no FORMED step reads the range and its stacks are not STOPPED. -/
def State.regionFree (s : State) (t : Taken) : Bool := !s.stepReads t.base t.len && !s.rangeStopped t.base t.len

/-- REGION_SET MAKE_COMPUTE. -/
def regionCompute (errs : List SymErr) (w : Nat) (t : Taken) (s : State) : State :=
  checked w t.n [(!s.runNames t t.base t.len, badState 2)] (fun s => convertRange makeCompute w t (addErrs errs s)) s

/-- REGION_SET with OP MAKE_COMPUTE (R115). -/
def execRegionSetMakeCompute (w : Fin 16) (n : U32) (errs : List SymErr) (s : State) : Host.Outcome State Fault Refusal :=
  .next (onRecord 0x12 w.val n.toNat (fun t => t.at 0x30 1 == 0 && s.regionFree t) (regionCompute errs) s)

/-! ## Mirrors (R125) -/

/-- A range overlaps an existing pair. -/
def State.pairMeets (s : State) (a n : Nat) : Bool :=
  s.mem.mirrors.any (fun p => overlaps p.primary p.length a n || overlaps p.mirror p.length a n)

/-- The conditions on a new pair. -/
def State.mirrorChecks (s : State) (t : Taken) : List (Bool × Answer) :=
  let a := t.base
  let n := t.len
  let m := t.at 0x38 8
  [(!s.pairMeets a n, badField 0x20),
   (decide (m + n ≤ 0x20000000000) && s.solid m n && !overlaps a n m n && !s.pairMeets m n &&
     (List.range (n / 4096)).all (fun i => s.stackOf (a + 4096 * i) != s.stackOf (m + 4096 * i)), badField 0x38),
   (!s.runNames t a n && !s.runNames t m n, badState 2),
   (decide (s.mem.mirrors.length < 256), badState 3)]

/-- REGION_SET SET_MIRROR: the copy, then the pair. A copy that a stopped stack holds up begins anew later. -/
def setMirror (errs : List SymErr) (w : Nat) (t : Taken) (s : State) : State :=
  checked w t.n (s.mirrorChecks t) (fun s0 =>
    let (o, s) := copyLines t.base (t.at 0x38 8) (t.len / 64) (addErrs errs s0)
    match o.bad with
    | some b => complete w t.n { eccUncorrected (s.stackOf (32 * b)) with result := natLe 8 (64 * o.lines) } s
    | none =>
      if 64 * o.lines < t.len then s0
      else
        complete w t.n (done (natLe 8 t.len)) (s.setMem { s.mem with
          mirrors := s.mem.mirrors ++ [{ primary := t.base, length := t.len, mirror := t.at 0x38 8 }] })) s

/-- Quarantined blocks of a range lose their mirror: the host must rewrite them (R374). -/
def awaitHost (a n : Nat) (s : State) : State :=
  s.mem.quarantine.foldl (fun s e =>
    if e.2.state = 1 && decide (a ≤ e.2.dpa) && decide (e.2.dpa < a + n) then
      logErr 0x21 9 (s.stackOf e.2.dpa) e.2.dpa e.2.detail (s.setQuar e.1 { e.2 with state := 2 })
    else s) s

/-- REGION_SET CLEAR_MIRROR. For a range that is no pair's primary the spec gives no status: it is turned away with BAD_FIELD, DETAIL 0x20.
(DESIGN CHOICE, log entry 50) -/
def clearMirror (w : Nat) (t : Taken) (s : State) : State :=
  let p := fun (x : MirrorPair) => x.primary == t.base && x.length == t.len
  checked w t.n [(s.mem.mirrors.any p, badField 0x20), (!s.runNames t t.base t.len, badState 2)] (fun s =>
    complete w t.n (done (natLe 8 t.len))
      (awaitHost t.base t.len (s.setMem { s.mem with mirrors := s.mem.mirrors.filter (fun x => !p x) }))) s

/-- REGION_SET with OP SET_MIRROR (R125). -/
def execRegionSetSetMirror (w : Fin 16) (n : U32) (errs : List SymErr) (s : State) : Host.Outcome State Fault Refusal :=
  .next (onRecord 0x12 w.val n.toNat (fun t => t.at 0x30 1 == 1 && s.regionFree t && !s.closedIn (t.at 0x38 8) t.len) (setMirror errs) s)

/-- REGION_SET with OP CLEAR_MIRROR (R125). -/
def execRegionSetClearMirror (w : Fin 16) (n : U32) (s : State) : Host.Outcome State Fault Refusal :=
  .next (onRecord 0x12 w.val n.toNat (fun t => t.at 0x30 1 == 2 && s.regionFree t) clearMirror s)

/-! ## REGION_SEAL (R116) -/

/-- Checks the LIVE entries of a granule: the first burst of the block that fails. -/
def checkGranule : List Nat → State → Option Nat × State
  | [], s => (none, s)
  | b :: bs, s =>
    match ledgerCheck 2 b (forgetChecked b s) with
    | (true, s) => checkGranule bs s
    | (false, s) => (some (128 * b), s)

/-- A compute granule becomes protected: its blocks leave the ledger, and its bytes are stored in the form of protected memory. -/
def storeSealed (g : Nat) (s : State) : State :=
  let ds := (granuleBlocks g).flatMap s.blockData
  let s := (granuleBlocks g).foldl (fun s b => (forgetChecked b s).setEntry b LedgerEntry.none) s
  let s := s.setMem { s.mem with compute := serase g s.mem.compute }
  (chunksOf 32 ds).zipIdx.foldl (fun s e => storeBurst (2048 * g + e.2) e.1 s) s

/-- Seals one compute granule whose blocks check clean. -/
def sealGranule (g : Nat) (s : State) : Option Nat × State :=
  if !s.mem.compute.contains g then (none, s)
  else
    match checkGranule (granuleBlocks g) s with
    | (some b, s) => (some b, s)
    | (none, s) => (none, storeSealed g s)

/-- REGION_SEAL. -/
def regionSeal (errs : List SymErr) (w : Nat) (t : Taken) (s : State) : State :=
  let open_ := t.granules.any (fun g => s.mem.compute.contains g && (granuleBlocks g).any (fun b => (s.entryOf b).isOpen))
  checked w t.n [(!open_, badState 1), (!s.runNames t t.base t.len, badState 2)]
    (fun s => convertRange sealGranule w t (addErrs errs s)) s

/-- REGION_SEAL (R116). -/
def execRegionSeal (w : Fin 16) (n : U32) (errs : List SymErr) (s : State) : Host.Outcome State Fault Refusal :=
  .next (onRecord 0x13 w.val n.toNat s.regionFree (regionSeal errs) s)

/-! ## Scrubbing (R118, R119) -/

/-- What a sweep has found: bursts or blocks corrected, those uncorrectable, and the first uncorrectable DPA. -/
structure Swept where
  fixed : Nat
  bad : Nat
  first : Option Nat
  deriving DecidableEq, Repr

/-- Nothing found. -/
def Swept.none : Swept := { fixed := 0, bad := 0, first := Option.none }

/-- The scrubber's reader: a poison marker in a model block quarantines it (R372). -/
def scrubReader : ReadBy := { unit := 9, ledger := false, markers := true }

/-- The scrubber reads one burst of protected memory, host copies recalled (R63). A poison marker in data is not counted as
uncorrectable. (DESIGN CHOICE, log entry 50) -/
def scrubBurst (x : Swept × State) (b : Nat) : Swept × State :=
  let (r, s0) := (x.1, recallGranule (b / 128) x.2)
  let marker := s0.mem.poison.contains b && (s0.errsOf b).isEmpty
  match symRead scrubReader b s0 with
  | (some _, s) => ({ r with fixed := if s.errsOf b != s0.errsOf b then r.fixed + 1 else r.fixed }, s)
  | (Option.none, s) =>
    if marker then (r, s) else ({ r with bad := r.bad + 1, first := r.first.orElse (fun _ => some (32 * b)) }, s)

/-- The scrubber checks one block of a compute granule, an OPEN one excepted. A block whose ledger entry was corrected counts as
corrected; one with a poison marker is quarantined and not counted. (DESIGN CHOICE, log entry 50) -/
def scrubBlock (x : Swept × State) (b : Nat) : Swept × State :=
  let (r, s0) := x
  if (s0.entryOf b).isOpen then (r, s0)
  else if s0.blockMarked b && !s0.channelDead (4096 * b) then (r, quarantine b s0)
  else
    match ledgerCheck 1 b (forgetChecked b s0) with
    | (true, s) => ({ r with fixed := if s.entryErrs b != s0.entryErrs b then r.fixed + 1 else r.fixed }, s)
    | (false, s) =>
      ({ r with bad := r.bad + 1, first := r.first.orElse (fun _ => some (4096 * b)) },
       s.setMem { s.mem with ledgerFail := satAdd 32 s.mem.ledgerFail 1 })

/-- One sweep over the blocks of 4 KiB from block b on. -/
def sweepBlocks (bs : List Nat) (s : State) : Swept × State :=
  bs.foldl (fun x b =>
    if x.2.isCompute (4096 * b) then scrubBlock x b
    else (List.range 128).foldl (fun x i => scrubBurst x (128 * b + i)) x) (Swept.none, s)

/-- SCRUB: one sweep over a range. -/
def scrub (errs : List SymErr) (w : Nat) (t : Taken) (s : State) : State :=
  let (r, s) := sweepBlocks ((List.range (t.len / 4096)).map (fun i => t.base / 4096 + i)) (addErrs errs s)
  complete w t.n (done (natLe 4 r.fixed ++ natLe 4 r.bad ++ natLe 8 (r.first.getD (2 ^ 64 - 1)))) s

/-- SCRUB (R119). It waits while a stack of the range is STOPPED, and for the end of a slice that has closed one of its bank
pairs (R142). -/
def execScrub (w : Fin 16) (n : U32) (errs : List SymErr) (s : State) : Host.Outcome State Fault Refusal :=
  .next (onRecord 0x14 w.val n.toNat (fun t =>
    !(List.range (t.len / 4096)).any (fun i => s.stopped (t.base + 4096 * i)) && !s.closedIn t.base t.len) (scrub errs) s)

/-- The scrubber sweeps: enabled, not paused by a power state (R406, R409), and no slice keeps a bank pair closed (R142). -/
def State.scrubs (s : State) : Bool :=
  s.mem.scrubEn && !s.slicing && !(List.range 16).any (fun i => (s.stack i).powerSr)

/-- Bursts of channels that have failed whole (R122), in ascending order. -/
def State.deadBursts (s : State) : List Nat :=
  if (List.range 16).all (fun i => (s.stack i).failedCh == 0) then []
  else (List.range (2 ^ 36)).filter (fun b => s.channelDead (32 * b))

/-- A sweep of protected memory: host copies are recalled, and the bursts whose symbols are in error, that hold a marker or that lie on a
channel failed whole are those at which it finds anything. -/
def sweepProtected (errs : List SymErr) (s : State) : State :=
  if !s.scrubs then s else
  let s := addErrs errs s
  let s := recallRange 0 0x20000000000 s
  let bs := s.mem.errs.map (·.1) ++ s.mem.poison.filter (fun b => (s.errsOf b).isEmpty) ++
    s.deadBursts.filter (fun b => (s.errsOf b).isEmpty && !s.mem.poison.contains b)
  let s := (bs.foldl (fun x b =>
    if x.2.isCompute (32 * b) || x.2.stopped (32 * b) then x else scrubBurst x b) (Swept.none, s)).2
  s.setMem { s.mem with passes := (s.mem.passes + 1) % 2 ^ 32 }

/-- A sweep of the compute granules. -/
def sweepCompute (errs : List SymErr) (s : State) : State :=
  if !s.scrubs then s else
  let s := addErrs errs s
  (s.mem.compute.foldl (fun x g =>
    if x.2.stopped (65536 * g) then x else (granuleBlocks g).foldl scrubBlock x) (Swept.none, s)).2

/-- SCRUB_PROTECTED_SWEEP (R118). -/
def execScrubProtectedSweep (errs : List SymErr) (s : State) : Host.Outcome State Fault Refusal :=
  .next (whenReleased (sweepProtected errs) s)

/-- SCRUB_COMPUTE_SWEEP (R118). -/
def execScrubComputeSweep (errs : List SymErr) (s : State) : Host.Outcome State Fault Refusal :=
  .next (whenReleased (sweepCompute errs) s)

/-! ## FLUSH_ACK (R66) -/

/-- FLUSH_ACK (R66): completed writes to the range reach the arrays; it waits for module writes that stand in a stopped stack's
controller, and for bank pairs that a slice has closed (R142). -/
def execFlushAck (w : Fin 16) (n : U32) (s : State) : Host.Outcome State Fault Refusal :=
  .next (onRecord 0x15 w.val n.toNat (fun t => !s.waitingIn t.base t.len && !s.closedIn t.base t.len) (fun w t s =>
    complete w t.n (done []) (landRange t.base t.len s)) s)

end Sys2Proof.Machine
end

