-- ==== Sys2Proof/Machine/Pins.lean ====
section
/-! DEFINITION. The management port and the boundary-scan port (spec 23, R444, R455, R457). -/

namespace Sys2Proof.Machine

/-- MGMT_WRITE: PWR_CAP.WATTS is the one field that the management port writes; it logs nothing. (DEDUCED, log entry 33) -/
def mgmtWrite (off v : Nat) (s : State) : State :=
  if off = 0xE00010 && inRange (bits v 0 12) 1000 3200 then s.setPwr { s.pwr with watts := bits v 0 12 } else s

/-- MGMT_WRITE (R455): the port answers from the rise of MOD_PG. -/
def execMgmtWrite (off : Nat) (v : U32) (s : State) : Host.Outcome State Fault Refusal :=
  .next (if s.boot.pg then mgmtWrite off v.toNat s else s)

/-- The TAP takes an instruction: EXTEST, INTEST and CLAMP act while MOD_RST_N is low, and as BYPASS otherwise.
(DESIGN CHOICE, log entry 8) -/
def tapTakes (i : TapInstr) (s : State) : State :=
  if s.boot.railsUp then s.setBoot { s.boot with tap := if s.boot.rstLow then i else .bypass } else s

/-- EXTEST (R457). -/
def execExtest (s : State) : Host.Outcome State Fault Refusal := .next (tapTakes .extest s)

/-- INTEST (R457). -/
def execIntest (s : State) : Host.Outcome State Fault Refusal := .next (tapTakes .intest s)

/-- CLAMP (R457). -/
def execClamp (s : State) : Host.Outcome State Fault Refusal := .next (tapTakes .clamp s)

/-- One bit passes from TDI to TDO through the bypass register. (DESIGN CHOICE, log entry 8) -/
def tapShift (tdi : Bool) (s : State) : State :=
  if s.boot.railsUp then s.setBoot { s.boot with tap := .bypass, tdo := s.boot.bypassBit, bypassBit := tdi } else s

/-- BYPASS (R457). -/
def execBypass (tdi : Bool) (s : State) : Host.Outcome State Fault Refusal := .next (tapShift tdi s)

end Sys2Proof.Machine
end

