-- ==== Sys2Proof/Machine/Tables.lean ====
section
/-! DEFINITION. The Zest tables and programs: TABLE_LOAD, TABLE_SWAP, and the jobs of the sections with their instructions (spec 10). -/

namespace Sys2Proof.Machine

/-! ## TABLE_LOAD (R224, R227, R230, R231, R239) -/

/-- Bank b replaced. -/
def setBank (b : Nat) (v : ZestBank) (s : State) : State :=
  s.setZest (if b = 0 then { s.zest with bank0 := v } else { s.zest with bank1 := v })

/-- A slot of a bank's list loaded with a value, slots kept rising. -/
def loadSlot {α : Type} (i : Nat) (v : α) (l : List (Nat × α)) : List (Nat × α) := tinsert i v l

/-- A TABLE_LOAD for a bank slot may write: no TABLE_SWAP taken before it is pending, none is being carried out, and no earlier
TABLE_LOAD names its slot (R231). (DESIGN CHOICE, log entry 47) -/
def State.tableTurn (s : State) (t : Taken) : Bool :=
  !s.earlierTaken 0x26 t && s.zest.swapping.isNone &&
  !s.records.any (fun r => r.2.opcode == 0x25 && decide (r.2.order < t.order) && r.2.at 0x20 2 == t.at 0x20 2)

/-- Reads n bytes of a TABLE_LOAD's source and goes on with them. -/
def withTableSource (src : Src) (n w : Nat) (t : Taken) (go : List Byte → State → State) (s : State) : State :=
  match readSource (t.at 0x24 1 == 1) (t.at 0x28 8) n src s with
  | (.waiting, _) => s
  | (.poison a, s) => complete w t.n a s
  | (.bytes d, s) => go d s

/-- TABLE_LOAD TABLE. -/
def tableLoad (src : Src) (w : Nat) (t : Taken) (s : State) : State :=
  withTableSource src 3136 w t (fun d s =>
    match tblReject d with
    | some i => complete w t.n { badField 0x28 with result := natLe 4 i } s
    | none =>
      let b := s.zbank s.shadow
      complete w t.n (done []) (setBank s.shadow { b with tables := loadSlot (t.at 0x21 1) d b.tables } s)) s

/-- The fields that an operation uses, as a mask of the word's bits below OP; none for a value that is no operation. -/
def zestMask (op imm : Nat) : Option Nat :=
  let d := 31 * 2 ^ 53
  let a := 31 * 2 ^ 48
  let b := 31 * 2 ^ 43
  let c := 31 * 2 ^ 38
  match op with
  | 0x00 => some 0
  | 0x01 => some (d + (2 ^ 32 - 1))
  | 0x02 => some (d + a + b + c)
  | 0x03 | 0x04 | 0x05 | 0x06 | 0x0A | 0x0B => some (d + a)
  | 0x07 => some (d + a + b + c + 3)
  | 0x08 => some (d + a + (if imm = 2 then b else 0) + (if imm = 3 then 0 else 3))
  | 0x09 => some (d + a + 15 * 2 ^ 34)
  | _ => none

/-- An instruction word passes R227. -/
def zestWordOk (wd : Nat) : Bool :=
  match zestMask (bits wd 58 6) (bits wd 0 32) with
  | some m => Nat.land (wd % 2 ^ 58) m == wd % 2 ^ 58
  | none => false

/-- The index at which a program image fails (R227): its first failing instruction, or COUNT when no END stands in it. -/
def programFault (ws : List Nat) : Option Nat :=
  match findBelow ws.length (fun i => !zestWordOk (ws.getD i 0)) with
  | some i => some i
  | none => if ws.any (fun x => bits x 58 6 == 0) then none else some ws.length

/-- TABLE_LOAD PROGRAM. -/
def programLoad (src : Src) (w : Nat) (t : Taken) (s : State) : State :=
  withTableSource src (8 * t.at 0x26 2) w t (fun d s =>
    let ws := (chunksOf 8 d).map leNat
    match programFault ws with
    | some i => complete w t.n (badField (0x80000000 + i)) s
    | none =>
      let b := s.zbank s.shadow
      complete w t.n (done [])
        (setBank s.shadow { b with programs := loadSlot (t.at 0x21 1) (ws.map (BitVec.ofNat 64)) b.programs } s)) s

/-- The gains of one normalisation index written. -/
def writeGains (i : Nat) (vs : List F32) (centre : Bool) (c : ScaleSet) : ScaleSet :=
  { c with
    gains := tsets f32One c.gains (gainKey i 0) vs, plain := if centre then serase i c.plain else sinsert i c.plain,
    vers := tmod 0 c.vers (gainTarget i) (· + 1) }

/-- TABLE_LOAD GAIN: under the two-copy rule of R212. -/
def gainLoad (src : Src) (w : Nat) (t : Taken) (s : State) : State :=
  let id := t.at 0x21 1
  let i := t.at 0x22 2
  let m := s.model id
  checked w t.n [(m.state != 0, badState 1), (decide (i ≤ 2 * m.layers), badField 0x22)] (fun s =>
    if s.copyHeld id (gainTarget i) then s else
    withTableSource src (4 * m.hidden) w t (fun d s =>
      let vs := (chunksOf 4 d).map (fun b => BitVec.ofNat 32 (leNat b))
      match vs.zipIdx.find? (fun e => !f32Finite e.1) with
      | some (_, k) => complete w t.n { badField 0x28 with result := natLe 4 k } s
      | none => complete w t.n (done []) (s.modModel id (fun m => { m with
          scaleSet := writeGains i vs (bit (t.at 0x25 1) 0) m.scaleSet }))) s) s

/-- TABLE_LOAD with KIND TABLE (R224). -/
def execTableLoadTable (w : Fin 16) (n : U32) (src : Src) (s : State) : Host.Outcome State Fault Refusal :=
  .next (onRecord 0x25 w.val n.toNat (fun t => t.at 0x20 1 == 0 && s.tableTurn t) (tableLoad src) s)

/-- TABLE_LOAD with KIND PROGRAM (R227). -/
def execTableLoadProgram (w : Fin 16) (n : U32) (src : Src) (s : State) : Host.Outcome State Fault Refusal :=
  .next (onRecord 0x25 w.val n.toNat (fun t => t.at 0x20 1 == 1 && s.tableTurn t) (programLoad src) s)

/-- TABLE_LOAD with KIND GAIN (R239). -/
def execTableLoadGain (w : Fin 16) (n : U32) (src : Src) (s : State) : Host.Outcome State Fault Refusal :=
  .next (inOrder 0x25 w.val n.toNat (fun t => t.at 0x20 1 == 2) (gainLoad src) s)

/-! ## TABLE_SWAP (R232) -/

/-- The lowest loaded program of a bank with a LUT instruction that names an empty table slot, and the slot of its first one. -/
def lutFault (b : ZestBank) : Option (Nat × Nat) :=
  b.programs.findSome? (fun p =>
    (p.2.find? (fun wd => bits wd.toNat 58 6 == 9 && !b.tables.any (fun t => t.1 == bits wd.toNat 34 4))).map
      (fun wd => (p.1, bits wd.toNat 34 4)))

/-- The lowest model and layer whose ACT_FN names a program slot that is empty in a bank: slot, layer and model. -/
def State.actFault (s : State) (b : ZestBank) : Option (Nat × Nat × Nat) :=
  s.seqs.models.findSome? (fun m =>
    if m.2.state = 0 then none else
    m.2.descs.findSome? (fun d => match d.2 with
      | some v => if 0x100 ≤ v.actFn && (b.program (v.actFn - 0x100)).isNone then some (v.actFn - 0x100, d.1, m.1) else none
      | none => none))

/-- A swap proceeds: the shadow bank is checked and becomes current at once. (DESIGN CHOICE, log entry 47) -/
def swapProceed (w : Nat) (t : Taken) (s : State) : State :=
  let b := s.zbank s.shadow
  match lutFault b with
  | some (p, i) => complete w t.n { badState 1 with result := natLe 4 p ++ natLe 4 i } s
  | none =>
    match s.actFault b with
    | some (p, l, m) => complete w t.n { badState 2 with result := natLe 4 p ++ natLe 2 l ++ natLe 1 m } s
    | none =>
      let s := startRecord w t.n s
      s.setZest { s.zest with current := s.shadow, swapping := some (w, t.n) }

/-- TABLE_SWAP: it proceeds at once unless an earlier one is pending; then it waits for TABLE_SWAP_PROCEED.
(DESIGN CHOICE, log entry 47) -/
def tableSwap (w : Nat) (t : Taken) (s : State) : State :=
  if s.zest.swapping.isSome || s.earlierTaken 0x26 t then startRecord w t.n s else swapProceed w t s

/-- TABLE_SWAP. -/
def execTableSwap (w : Fin 16) (n : U32) (s : State) : Host.Outcome State Fault Refusal :=
  .next (onOp 0x26 w.val n.toNat tableSwap s)

/-- The oldest TABLE_SWAP taken and not completed, with its window. -/
def State.oldestSwap (s : State) : Option (Nat × Taken) :=
  let l := s.records.filter (fun r => r.2.opcode == 0x26)
  l.find? (fun x => l.all (fun y => decide (x.2.order ≤ y.2.order)))

/-- TABLE_SWAP_PROCEED: the oldest waiting swap, when every TABLE_LOAD taken before it has completed. -/
def swapNext (s : State) : State :=
  match s.oldestSwap with
  | some (w, t) =>
    if s.live && t.started && s.zest.swapping.isNone && !s.earlierTaken 0x25 t && s.recordRuns 0x26 then swapProceed w t s else s
  | none => s

/-- TABLE_SWAP_PROCEED. -/
def execTableSwapProceed (s : State) : Host.Outcome State Fault Refusal := .next (swapNext s)

/-- TABLE_SWAP_COPY: the last job on the old bank has ended. (DESIGN CHOICE, log entry 47) -/
def swapCopy (s : State) : State :=
  match s.zest.swapping with
  | none => s
  | some (w, n) =>
    if s.bankBusy s.shadow then s else
    let s := setBank s.shadow (s.zbank s.zest.current) s
    let s := s.setZest { s.zest with swapping := none, swaps := (s.zest.swaps + 1) % 65536 }
    complete w n (done (natLe 1 s.zest.current)) s

/-- TABLE_SWAP_COPY. -/
def execTableSwapCopy (s : State) : Host.Outcome State Fault Refusal := .next (whenReleased swapCopy s)

/-! ## Jobs of the sections (R219, R226) -/

/-- Section i's job. -/
def State.zestJob (s : State) (i : Nat) : Option ZestJob := tget none s.zest.jobs i

/-- Section i's job replaced. -/
def setJob (i : Nat) (j : ZestJob) (s : State) : State := s.setZest { s.zest with jobs := tset none s.zest.jobs i (some j) }

/-- A section's engine has a phase with Zest work: a Drupe engine in DECODE, a Press engine that is not IDLE (R240, R301).
(DEDUCED, log entry 22) -/
def State.sectionWorks (s : State) (sec : Nat) : Bool :=
  if sec < 24 then (s.drupeEngine sec).phase == 0 else (s.pressEngine (sec - 24)).phase != 2

/-- A job starts on the current bank, in a section that works and has none in progress; one that reads an uncorrectable word stops and leaves no
job (R233, R371). (DESIGN CHOICE, log entry 44) -/
def zestStart (sec slot : Nat) (in0 in1 : F32) (own : OwnReads) (s : State) : State :=
  match s.zestJob sec with
  | some { result := none, .. } => s
  | _ =>
    if !s.sectionWorks sec then s else
    let s := noteCorrected own.corrected s
    match own.bad with
    | some f => noteOwn 0 f (s.setZest { s.zest with jobs := tset none s.zest.jobs sec none })
    | none => setJob sec { bank := s.zest.current, slot := slot, pc := 0, regs := zestEntry in0 in1, result := none } s

/-- The word at a job's program counter: zero in an empty slot and behind a program (R230). -/
def State.jobWord (s : State) (j : ZestJob) : Nat := ((((s.zbank j.bank).program j.slot).getD []).getD j.pc 0).toNat

/-- The instruction at section i's program counter, where it is the operation op: its result, and the next. -/
def zestRun (op i : Nat) (s : State) : State :=
  match s.zestJob i with
  | some { bank := b, slot := sl, pc := pc, regs := r, result := none } =>
    let j : ZestJob := { bank := b, slot := sl, pc := pc, regs := r, result := none }
    let wd := s.jobWord j
    if bits wd 58 6 = op then setJob i { j with pc := pc + 1, regs := zestExec (s.zbank b).table wd r } s else s
  | _ => s

/-- A result of the sections is counted if it is a NaN or infinite (R241). (DESIGN CHOICE, log entry 23) -/
def countResult (v : F32) (s : State) : State :=
  if f32IsNan v then s.setZest { s.zest with nanOut := satAdd 32 s.zest.nanOut 1 }
  else if !f32Finite v then s.setZest { s.zest with infOut := satAdd 32 s.zest.infOut 1 } else s

/-- END at section i's program counter: the result is r0. -/
def zestEndAt (i : Nat) (s : State) : State :=
  match s.zestJob i with
  | some j => if j.result.isNone && bits (s.jobWord j) 58 6 == 0 then
      let v := tget 0 j.regs 0
      countResult v (setJob i { j with result := some v } s) else s
  | none => s

/-- ZEST_JOB (R219). -/
def execZestJob (sec : Fin 32) (slot : Fin 32) (in0 in1 : F32) (own : OwnReads) (s : State) : Host.Outcome State Fault Refusal :=
  .next (whenPowered (zestStart sec.val slot.val in0 in1 own) s)

/-- END (R226). -/
def execZestEnd (sec : Fin 32) (s : State) : Host.Outcome State Fault Refusal := .next (whenPowered (zestEndAt sec.val) s)

/-- LDI (R226). -/
def execZestLdi (sec : Fin 32) (s : State) : Host.Outcome State Fault Refusal := .next (whenPowered (zestRun 0x01 sec.val) s)

/-- MADD (R220, R226). -/
def execZestMadd (sec : Fin 32) (s : State) : Host.Outcome State Fault Refusal := .next (whenPowered (zestRun 0x02 sec.val) s)

/-- EXP2 (R220, R222). -/
def execZestExp2 (sec : Fin 32) (s : State) : Host.Outcome State Fault Refusal := .next (whenPowered (zestRun 0x03 sec.val) s)

/-- LOG2 (R220, R222). -/
def execZestLog2 (sec : Fin 32) (s : State) : Host.Outcome State Fault Refusal := .next (whenPowered (zestRun 0x04 sec.val) s)

/-- RECIP (R220, R222). -/
def execZestRecip (sec : Fin 32) (s : State) : Host.Outcome State Fault Refusal := .next (whenPowered (zestRun 0x05 sec.val) s)

/-- RSQRT (R220, R222). -/
def execZestRsqrt (sec : Fin 32) (s : State) : Host.Outcome State Fault Refusal := .next (whenPowered (zestRun 0x06 sec.val) s)

/-- CMPSEL (R222, R226). -/
def execZestCmpsel (sec : Fin 32) (s : State) : Host.Outcome State Fault Refusal := .next (whenPowered (zestRun 0x07 sec.val) s)

/-- SIGN (R226). -/
def execZestSign (sec : Fin 32) (s : State) : Host.Outcome State Fault Refusal := .next (whenPowered (zestRun 0x08 sec.val) s)

/-- LUT (R225). -/
def execZestLut (sec : Fin 32) (s : State) : Host.Outcome State Fault Refusal := .next (whenPowered (zestRun 0x09 sec.val) s)

/-- TANH (R220, R222). -/
def execZestTanh (sec : Fin 32) (s : State) : Host.Outcome State Fault Refusal := .next (whenPowered (zestRun 0x0A sec.val) s)

/-- LOGISTIC (R220, R222). -/
def execZestLogistic (sec : Fin 32) (s : State) : Host.Outcome State Fault Refusal := .next (whenPowered (zestRun 0x0B sec.val) s)

end Sys2Proof.Machine
end

