-- ==== Sys2Proof/Machine/Windows.lean ====
section
/-! DEFINITION. Commands of the command windows and of BAR0: writes that land record bytes, taking a record, the delayed vector, and the
register accesses (spec 03 R54 to R57, spec 04, spec 22). -/

namespace Sys2Proof.Machine

/-- A BAR2 write breaks R55: a wrong size or alignment, or a closing word that is not carried whole; in RECOVERY also any aperture
but window 0's (R428). (DEDUCED, log entry 33) -/
def State.bar2Bad (s : State) (off size : Nat) : Bool :=
  !([4, 8, 16, 32, 64].contains size) || off % size != 0 || decide (0x1000000 ≤ off) ||
  (size == 4 && decide (0xF8 ≤ off % 0x100)) || (s.recovery && decide (0x100000 ≤ off))

/-- The bytes of a good BAR2 write land in their slot (R55, R79): the closing word sets the landed flag. (DEDUCED, log entry 33) -/
def landBytes (off : Nat) (data : List Byte) (s : State) : State :=
  let w := off / 0x100000
  let slot := off % 0x100000 / 0x100
  let s := { s with bar2 := tsets 0 s.bar2 off data }
  if 0xF8 < off % 0x100 + data.length then s.modWin w (fun v => { v with landed := sinsert slot v.landed }) else s

/-- A host write to BAR2 (R55, R79, R56). -/
def bar2Write (off : Nat) (data : List Byte) (s : State) : State :=
  let w := off / 0x100000
  let slot := off % 0x100000 / 0x100
  if !(s.live && s.barOpen) then s
  else if s.bar2Bad off data.length then
    logErr 3 12 (w % 16) off data.length (s.modWin w (fun v => { v with errBadWrite := true }))
  else if (s.win w).landed.contains slot then s.modWin w (fun v => { v with errLate := true })
  else landBytes off data s

/-- DELAY_US has passed since the first unsignalled entry of window w: its vector is sent, while a ring of it is enabled (R93).
(DESIGN CHOICE, log entry 15) -/
def irqDelay (w : Nat) (s : State) : State :=
  let v := s.win w
  match v.irqFirst with
  | none => s
  | some t0 =>
    if v.irqDelay = 0 || !(v.replyEn || v.outEn) || !s.live then s
    else
      let s := s.advanceTo (t0 + usTicks v.irqDelay)
      msix w (s.modWin w (fun v => { v with irqPending := 0, irqFirst := none }))

/-- BAR2_WRITE (R55). -/
def execBar2Write (off : Nat) (data : List Byte) (s : State) : Host.Outcome State Fault Refusal := .next (bar2Write off data s)

/-- RECORD_TAKE (R80). -/
def execRecordTake (w : Fin 16) (src : Src) (s : State) : Host.Outcome State Fault Refusal := .next (takeRecord w.val src s)

/-- IRQ_DELAY_EXPIRE (R93). -/
def execIrqDelayExpire (w : Fin 16) (s : State) : Host.Outcome State Fault Refusal := .next (irqDelay w.val s)

/-- WIN_ENABLE (R98): a write to WIN_CTL that sets ENABLE. -/
def execWinEnable (w : Fin 16) (v : U32) (s : State) : Host.Outcome State Fault Refusal :=
  .next (hostRegWrite (winOff w.val 0) 4 v.toNat s)

/-- WIN_DISABLE (R98): a write to WIN_CTL that clears ENABLE. -/
def execWinDisable (w : Fin 16) (v : U32) (s : State) : Host.Outcome State Fault Refusal :=
  .next (hostRegWrite (winOff w.val 0) 4 v.toNat s)

/-- WIN_RESET (R98): a write to WIN_CTL that sets RESET. -/
def execWinReset (w : Fin 16) (v : U32) (s : State) : Host.Outcome State Fault Refusal :=
  .next (hostRegWrite (winOff w.val 0) 4 v.toNat s)

/-- WIN_REPLY_HEAD_WRITE (R90). -/
def execWinReplyHeadWrite (w : Fin 16) (v : U32) (s : State) : Host.Outcome State Fault Refusal :=
  .next (hostRegWrite (winOff w.val 0x1C) 4 v.toNat s)

/-- WIN_OUT_HEAD_WRITE (R92). -/
def execWinOutHeadWrite (w : Fin 16) (v : U32) (s : State) : Host.Outcome State Fault Refusal :=
  .next (hostRegWrite (winOff w.val 0x34) 4 v.toNat s)

/-- MOD_ERR_HEAD_WRITE (R388). -/
def execModErrHeadWrite (v : U32) (s : State) : Host.Outcome State Fault Refusal := .next (hostRegWrite 0x18C 4 v.toNat s)

/-- MOD_ENG_BAL_WRITE (R306). -/
def execModEngBalWrite (v : U32) (s : State) : Host.Outcome State Fault Refusal := .next (hostRegWrite 0x80 4 v.toNat s)

/-- DBG_PRS_INSTR_LATCH (R447): a read of word 0 of DBG_PRS_INSTR e. -/
def execDbgPrsInstrLatch (e : Fin 8) (s : State) : Host.Outcome State Fault Refusal :=
  .next (hostRegRead (0xF00100 + 32 * e.val) 8 s)

/-- REGISTER_WRITE (R10). -/
def execRegisterWrite (off size : Nat) (v : U64) (s : State) : Host.Outcome State Fault Refusal :=
  .next (hostRegWrite off size (v.toNat % 2 ^ (8 * size)) s)

/-- BAD_ACCESS (R9): an access of another width or alignment. One that R9 does not turn away is an ordinary access. -/
def execBadAccess (off size : Nat) (write : Bool) (v : U64) (s : State) : Host.Outcome State Fault Refusal :=
  .next (if write then hostRegWrite off size (v.toNat % 2 ^ (8 * size)) s else hostRegRead off size s)

/-- RC_READ (R10, R443): a host read of a register; at an offset past the 16 MiB of BAR0 it reads BAR2 (R56). (DESIGN CHOICE, log entry 44) -/
def execRcRead (off size : Nat) (s : State) : Host.Outcome State Fault Refusal := .next (hostRegRead off size s)

end Sys2Proof.Machine
end

