-- ==== Sys2Proof/Machine/Dispatch.lean ====
section
/-! DEFINITION. What each command does: one arm per constructor. -/

namespace Sys2Proof.Machine

def exec (i : Instr) (s : State) : Host.Outcome State Fault Refusal :=
  match i with
  | .bar2Write off data => Sys2Proof.Machine.execBar2Write off data s
  | .recordTake w src => Sys2Proof.Machine.execRecordTake w src s
  | .irqDelayExpire w => Sys2Proof.Machine.execIrqDelayExpire w s
  | .winEnable w v => Sys2Proof.Machine.execWinEnable w v s
  | .winDisable w v => Sys2Proof.Machine.execWinDisable w v s
  | .winReset w v => Sys2Proof.Machine.execWinReset w v s
  | .winReplyHeadWrite w v => Sys2Proof.Machine.execWinReplyHeadWrite w v s
  | .winOutHeadWrite w v => Sys2Proof.Machine.execWinOutHeadWrite w v s
  | .modErrHeadWrite v => Sys2Proof.Machine.execModErrHeadWrite v s
  | .modEngBalWrite v => Sys2Proof.Machine.execModEngBalWrite v s
  | .dbgPrsInstrLatch e => Sys2Proof.Machine.execDbgPrsInstrLatch e s
  | .registerWrite off size v => Sys2Proof.Machine.execRegisterWrite off size v s
  | .badAccess off size write v => Sys2Proof.Machine.execBadAccess off size write v s
  | .biasToHost => Sys2Proof.Machine.execBiasToHost s
  | .biasToDevice => Sys2Proof.Machine.execBiasToDevice s
  | .biasComplete => Sys2Proof.Machine.execBiasComplete s
  | .hdmDecoderCommit d commit hpaBase size ways gran dpaSkip => Sys2Proof.Machine.execHdmDecoderCommit d commit hpaBase size ways gran dpaSkip s
  | .cxlMemRead hpa errs => Sys2Proof.Machine.execCxlMemRead hpa errs s
  | .cxlMemWrite hpa data poison => Sys2Proof.Machine.execCxlMemWrite hpa data poison s
  | .snoopResponse line => Sys2Proof.Machine.execSnoopResponse line s
  | .hostLinkTrain proto rate width cacheEn memEn => Sys2Proof.Machine.execHostLinkTrain proto rate width cacheEn memEn s
  | .functionLevelReset => Sys2Proof.Machine.execFunctionLevelReset s
  | .hotReset => Sys2Proof.Machine.execHotReset s
  | .hostLinkDown => Sys2Proof.Machine.execHostLinkDown s
  | .cxlReset => Sys2Proof.Machine.execCxlReset s
  | .perst => Sys2Proof.Machine.execPerst s
  | .hostLinkError found => Sys2Proof.Machine.execHostLinkError found s
  | .nop w n => Sys2Proof.Machine.execNop w n s
  | .fenceWindow w n => Sys2Proof.Machine.execFenceWindow w n s
  | .fenceModule w n => Sys2Proof.Machine.execFenceModule w n s
  | .fenceCascade w n => Sys2Proof.Machine.execFenceCascade w n s
  | .fenceRelease w n => Sys2Proof.Machine.execFenceRelease w n s
  | .query w n => Sys2Proof.Machine.execQuery w n s
  | .powerSet w n => Sys2Proof.Machine.execPowerSet w n s
  | .powerDescend => Sys2Proof.Machine.execPowerDescend s
  | .powerSubstateReached => Sys2Proof.Machine.execPowerSubstateReached s
  | .powerSelfWake => Sys2Proof.Machine.execPowerSelfWake s
  | .unitReset w n => Sys2Proof.Machine.execUnitReset w n s
  | .unitReturnToService kind index => Sys2Proof.Machine.execUnitReturnToService kind index s
  | .attest w n => Sys2Proof.Machine.execAttest w n s
  | .fwStageWrite w n src flashOk => Sys2Proof.Machine.execFwStageWrite w n src flashOk s
  | .fwStageClear w n flashOk => Sys2Proof.Machine.execFwStageClear w n flashOk s
  | .fwCommitSelect w n => Sys2Proof.Machine.execFwCommitSelect w n s
  | .fwCommitConfirm w n => Sys2Proof.Machine.execFwCommitConfirm w n s
  | .fwCommitAbandon w n => Sys2Proof.Machine.execFwCommitAbandon w n s
  | .memCopy w n src => Sys2Proof.Machine.execMemCopy w n src s
  | .memFill w n => Sys2Proof.Machine.execMemFill w n s
  | .regionSetMakeCompute w n errs => Sys2Proof.Machine.execRegionSetMakeCompute w n errs s
  | .regionSetSetMirror w n errs => Sys2Proof.Machine.execRegionSetSetMirror w n errs s
  | .regionSetClearMirror w n => Sys2Proof.Machine.execRegionSetClearMirror w n s
  | .regionSeal w n errs => Sys2Proof.Machine.execRegionSeal w n errs s
  | .scrub w n errs => Sys2Proof.Machine.execScrub w n errs s
  | .flushAck w n => Sys2Proof.Machine.execFlushAck w n s
  | .modelLoadPlace w n plan => Sys2Proof.Machine.execModelLoadPlace w n plan s
  | .modelLoadDrop w n => Sys2Proof.Machine.execModelLoadDrop w n s
  | .layerDesc w n => Sys2Proof.Machine.execLayerDesc w n s
  | .scaleLoadRowScales w n src => Sys2Proof.Machine.execScaleLoadRowScales w n src s
  | .scaleLoadInputScales w n src => Sys2Proof.Machine.execScaleLoadInputScales w n src s
  | .scaleLoadInputRanges w n src => Sys2Proof.Machine.execScaleLoadInputRanges w n src s
  | .variantLoad w n src plan => Sys2Proof.Machine.execVariantLoad w n src plan s
  | .variantDrop w n => Sys2Proof.Machine.execVariantDrop w n s
  | .tableLoadTable w n src => Sys2Proof.Machine.execTableLoadTable w n src s
  | .tableLoadProgram w n src => Sys2Proof.Machine.execTableLoadProgram w n src s
  | .tableLoadGain w n src => Sys2Proof.Machine.execTableLoadGain w n src s
  | .tableSwap w n => Sys2Proof.Machine.execTableSwap w n s
  | .tableSwapProceed => Sys2Proof.Machine.execTableSwapProceed s
  | .tableSwapCopy => Sys2Proof.Machine.execTableSwapCopy s
  | .codecTableLoad w n src => Sys2Proof.Machine.execCodecTableLoad w n src s
  | .codecTableSwap w n => Sys2Proof.Machine.execCodecTableSwap w n s
  | .seqOpen w n => Sys2Proof.Machine.execSeqOpen w n s
  | .seqAppend w n src => Sys2Proof.Machine.execSeqAppend w n src s
  | .fillBegin q => Sys2Proof.Machine.execFillBegin q s
  | .fillComplete q => Sys2Proof.Machine.execFillComplete q s
  | .seqCancel w n => Sys2Proof.Machine.execSeqCancel w n s
  | .seqTrim w n => Sys2Proof.Machine.execSeqTrim w n s
  | .seqClose w n => Sys2Proof.Machine.execSeqClose w n s
  | .seqPark w n => Sys2Proof.Machine.execSeqPark w n s
  | .parkImageWrite q errs => Sys2Proof.Machine.execParkImageWrite q errs s
  | .parkDurable q => Sys2Proof.Machine.execParkDurable q s
  | .seqResumeResume w n => Sys2Proof.Machine.execSeqResumeResume w n s
  | .resumeComplete q => Sys2Proof.Machine.execResumeComplete q s
  | .seqResumeDrop w n => Sys2Proof.Machine.execSeqResumeDrop w n s
  | .parkExpiryScan => Sys2Proof.Machine.execParkExpiryScan s
  | .prefixFind w n src => Sys2Proof.Machine.execPrefixFind w n src s
  | .prefixPinPin w n src => Sys2Proof.Machine.execPrefixPinPin w n src s
  | .prefixPinUnpin w n src => Sys2Proof.Machine.execPrefixPinUnpin w n src s
  | .samplerSet w n => Sys2Proof.Machine.execSamplerSet w n s
  | .stopSet w n src => Sys2Proof.Machine.execStopSet w n src s
  | .maskLoadLoad w n src => Sys2Proof.Machine.execMaskLoadLoad w n src s
  | .maskLoadFree w n => Sys2Proof.Machine.execMaskLoadFree w n s
  | .budgetSetSet w n => Sys2Proof.Machine.execBudgetSetSet w n s
  | .budgetSetWindow w n => Sys2Proof.Machine.execBudgetSetWindow w n s
  | .step w n => Sys2Proof.Machine.execStep w n s
  | .stepHeading id => Sys2Proof.Machine.execStepHeading id s
  | .stepForm id => Sys2Proof.Machine.execStepForm id s
  | .stepLayer id errs own => Sys2Proof.Machine.execStepLayer id errs own s
  | .stepBoundary id => Sys2Proof.Machine.execStepBoundary id s
  | .repairDeadline id => Sys2Proof.Machine.execRepairDeadline id s
  | .mirrorRepair block errs => Sys2Proof.Machine.execMirrorRepair block errs s
  | .chunkStart model => Sys2Proof.Machine.execChunkStart model s
  | .chunkComplete id errs own => Sys2Proof.Machine.execChunkComplete id errs own s
  | .pressOpen e group tile count rows lenLog2 mat col addr => Sys2Proof.Machine.execPressOpen e group tile count rows lenLog2 mat col addr s
  | .pressPass e group tile count fmt wsrc addr errs own => Sys2Proof.Machine.execPressPass e group tile count fmt wsrc addr errs own s
  | .pressClose e group addr own => Sys2Proof.Machine.execPressClose e group addr own s
  | .pressDiscard e group => Sys2Proof.Machine.execPressDiscard e group s
  | .pressSave e group addr own => Sys2Proof.Machine.execPressSave e group addr own s
  | .pressRestore e group tile count addr own => Sys2Proof.Machine.execPressRestore e group tile count addr own s
  | .assignWindowEnd => Sys2Proof.Machine.execAssignWindowEnd s
  | .earlyEdge => Sys2Proof.Machine.execEarlyEdge s
  | .zestJob sec slot in0 in1 own => Sys2Proof.Machine.execZestJob sec slot in0 in1 own s
  | .zestEnd sec => Sys2Proof.Machine.execZestEnd sec s
  | .zestLdi sec => Sys2Proof.Machine.execZestLdi sec s
  | .zestMadd sec => Sys2Proof.Machine.execZestMadd sec s
  | .zestExp2 sec => Sys2Proof.Machine.execZestExp2 sec s
  | .zestLog2 sec => Sys2Proof.Machine.execZestLog2 sec s
  | .zestRecip sec => Sys2Proof.Machine.execZestRecip sec s
  | .zestRsqrt sec => Sys2Proof.Machine.execZestRsqrt sec s
  | .zestCmpsel sec => Sys2Proof.Machine.execZestCmpsel sec s
  | .zestSign sec => Sys2Proof.Machine.execZestSign sec s
  | .zestLut sec => Sys2Proof.Machine.execZestLut sec s
  | .zestTanh sec => Sys2Proof.Machine.execZestTanh sec s
  | .zestLogistic sec => Sys2Proof.Machine.execZestLogistic sec s
  | .pipLoad w n src => Sys2Proof.Machine.execPipLoad w n src s
  | .pipRun w n => Sys2Proof.Machine.execPipRun w n s
  | .pipStatus w n => Sys2Proof.Machine.execPipStatus w n s
  | .pipSliceStart k => Sys2Proof.Machine.execPipSliceStart k s
  | .pipSliceEnd k => Sys2Proof.Machine.execPipSliceEnd k s
  | .pipRunRebuild k slot => Sys2Proof.Machine.execPipRunRebuild k slot s
  | .pipEnd k p => Sys2Proof.Machine.execPipEnd k p s
  | .pipSeta k p => Sys2Proof.Machine.execPipSeta k p s
  | .pipSetl k p => Sys2Proof.Machine.execPipSetl k p s
  | .pipLoop k p => Sys2Proof.Machine.execPipLoop k p s
  | .pipCopy k p => Sys2Proof.Machine.execPipCopy k p s
  | .pipFill k p => Sys2Proof.Machine.execPipFill k p s
  | .pipAnd k p => Sys2Proof.Machine.execPipAnd k p s
  | .pipOr k p => Sys2Proof.Machine.execPipOr k p s
  | .pipXor k p => Sys2Proof.Machine.execPipXor k p s
  | .pipNot k p => Sys2Proof.Machine.execPipNot k p s
  | .pipAdd k p => Sys2Proof.Machine.execPipAdd k p s
  | .pipMul k p => Sys2Proof.Machine.execPipMul k p s
  | .pipScale k p => Sys2Proof.Machine.execPipScale k p s
  | .pipStat k p => Sys2Proof.Machine.execPipStat k p s
  | .pipNorm k p => Sys2Proof.Machine.execPipNorm k p s
  | .pipGemv k p => Sys2Proof.Machine.execPipGemv k p s
  | .pipClr k p => Sys2Proof.Machine.execPipClr k p s
  | .pipReduce k p => Sys2Proof.Machine.execPipReduce k p s
  | .refreshDue stk => Sys2Proof.Machine.execRefreshDue stk s
  | .stackTempSample stk temp => Sys2Proof.Machine.execStackTempSample stk temp s
  | .stackThermalStepdown stk => Sys2Proof.Machine.execStackThermalStepdown stk s
  | .refreshStepdown stk => Sys2Proof.Machine.execRefreshStepdown stk s
  | .dieTempSample w temps => Sys2Proof.Machine.execDieTempSample w temps s
  | .dieThermalStepdown w => Sys2Proof.Machine.execDieThermalStepdown w s
  | .powerSample watts => Sys2Proof.Machine.execPowerSample watts s
  | .capStepUp => Sys2Proof.Machine.execCapStepUp s
  | .powerCapUnmet => Sys2Proof.Machine.execPowerCapUnmet s
  | .stageMonitorMeasure ps => Sys2Proof.Machine.execStageMonitorMeasure ps s
  | .scrubProtectedSweep errs => Sys2Proof.Machine.execScrubProtectedSweep errs s
  | .scrubComputeSweep errs => Sys2Proof.Machine.execScrubComputeSweep errs s
  | .codecStreamEncode codec => Sys2Proof.Machine.execCodecStreamEncode codec s
  | .codecStreamDecode codec => Sys2Proof.Machine.execCodecStreamDecode codec s
  | .leaseRenew cls holder res => Sys2Proof.Machine.execLeaseRenew cls holder res s
  | .leaseRevoke cls holder res => Sys2Proof.Machine.execLeaseRevoke cls holder res s
  | .heartbeat c => Sys2Proof.Machine.execHeartbeat c s
  | .watchdogReset c => Sys2Proof.Machine.execWatchdogReset c s
  | .stoneCoreRestart c => Sys2Proof.Machine.execStoneCoreRestart c s
  | .huskTimerExpire uncorrectable => Sys2Proof.Machine.execHuskTimerExpire uncorrectable s
  | .punnetBind w n facts => Sys2Proof.Machine.execPunnetBind w n facts s
  | .punnetQuery w n => Sys2Proof.Machine.execPunnetQuery w n s
  | .punnetRetireDrain w n => Sys2Proof.Machine.execPunnetRetireDrain w n s
  | .punnetRetireNow w n => Sys2Proof.Machine.execPunnetRetireNow w n s
  | .punnetInsert port rate width => Sys2Proof.Machine.execPunnetInsert port rate width s
  | .punnetRemoval port => Sys2Proof.Machine.execPunnetRemoval port s
  | .punnetCmdTimeout port cid => Sys2Proof.Machine.execPunnetCmdTimeout port cid s
  | .punnetAbortTimeout port => Sys2Proof.Machine.execPunnetAbortTimeout port s
  | .punnetReadyTimeout port => Sys2Proof.Machine.execPunnetReadyTimeout port s
  | .nvmeCompletion port cid status => Sys2Proof.Machine.execNvmeCompletion port cid status s
  | .wearPoll port dataUnitsWritten mediaReadOnly => Sys2Proof.Machine.execWearPoll port dataUnitsWritten mediaReadOnly s
  | .vineJoin w n src => Sys2Proof.Machine.execVineJoin w n src s
  | .vineJoinTimeout => Sys2Proof.Machine.execVineJoinTimeout s
  | .vineRolePriority w n => Sys2Proof.Machine.execVineRolePriority w n s
  | .vineRoleElect w n => Sys2Proof.Machine.execVineRoleElect w n s
  | .vineLeaveDrain w n => Sys2Proof.Machine.execVineLeaveDrain w n s
  | .vineLeaveForce w n => Sys2Proof.Machine.execVineLeaveForce w n s
  | .collectBroadcast w n errs => Sys2Proof.Machine.execCollectBroadcast w n errs s
  | .collectSum w n errs => Sys2Proof.Machine.execCollectSum w n errs s
  | .collectMax w n errs => Sys2Proof.Machine.execCollectMax w n errs s
  | .collectMin w n errs => Sys2Proof.Machine.execCollectMin w n errs s
  | .collectGather w n errs => Sys2Proof.Machine.execCollectGather w n errs s
  | .vineTrain p peerSerial peer lanesOk => Sys2Proof.Machine.execVineTrain p peerSerial peer lanesOk s
  | .vineTrainRetry p => Sys2Proof.Machine.execVineTrainRetry p s
  | .vineDeadTimeout p replayFailed => Sys2Proof.Machine.execVineDeadTimeout p replayFailed s
  | .vineCreditTimeout p vc => Sys2Proof.Machine.execVineCreditTimeout p vc s
  | .claim m prio serial => Sys2Proof.Machine.execClaim m prio serial s
  | .electionWindowEnd => Sys2Proof.Machine.execElectionWindowEnd s
  | .electionRetry => Sys2Proof.Machine.execElectionRetry s
  | .confirm m members size => Sys2Proof.Machine.execConfirm m members size s
  | .confirmAck m mirror => Sys2Proof.Machine.execConfirmAck m mirror s
  | .quorumTimeout => Sys2Proof.Machine.execQuorumTimeout s
  | .key m secret => Sys2Proof.Machine.execKey m secret s
  | .live m => Sys2Proof.Machine.execLive m s
  | .memberLeaseExpire member => Sys2Proof.Machine.execMemberLeaseExpire member s
  | .stemLeaseExpire => Sys2Proof.Machine.execStemLeaseExpire s
  | .stemDemote => Sys2Proof.Machine.execStemDemote s
  | .plan m stepNo model chunk seqs record sroundEn sroundKey force defaultLimit => Sys2Proof.Machine.execPlan m stepNo model chunk seqs record sroundEn sroundKey force defaultLimit s
  | .act m stepNo hidden wideSoFar => Sys2Proof.Machine.execAct m stepNo hidden wideSoFar s
  | .part m stepNo layer mat rank sums => Sys2Proof.Machine.execPart m stepNo layer mat rank sums s
  | .tokens m stepNo toks wideLayers => Sys2Proof.Machine.execTokens m stepNo toks wideLayers s
  | .fault m stepNo status layer stack => Sys2Proof.Machine.execFault m stepNo status layer stack s
  | .commit m ordinal stamp stepNo outcomes toks charges => Sys2Proof.Machine.execCommit m ordinal stamp stepNo outcomes toks charges s
  | .commitAck m ordinal lackingSeqs => Sys2Proof.Machine.execCommitAck m ordinal lackingSeqs s
  | .fenceReq m fence => Sys2Proof.Machine.execFenceReq m fence s
  | .fenceDone m fence => Sys2Proof.Machine.execFenceDone m fence s
  | .hold m stack => Sys2Proof.Machine.execHold m stack s
  | .cool m => Sys2Proof.Machine.execCool m s
  | .stop m stack => Sys2Proof.Machine.execStop m stack s
  | .bulk m w n data => Sys2Proof.Machine.execBulk m w n data s
  | .leave m => Sys2Proof.Machine.execLeave m s
  | .pwrEnRise inputInRange => Sys2Proof.Machine.execPwrEnRise inputInRange s
  | .pwrEnFall => Sys2Proof.Machine.execPwrEnFall s
  | .inputUndervoltage => Sys2Proof.Machine.execInputUndervoltage s
  | .inputOvervoltage => Sys2Proof.Machine.execInputOvervoltage s
  | .modRst => Sys2Proof.Machine.execModRst s
  | .rails inRegulation elapsedUs => Sys2Proof.Machine.execRails inRegulation elapsedUs s
  | .fuses fuseOk clockOk elapsedUs => Sys2Proof.Machine.execFuses fuseOk clockOk elapsedUs s
  | .image flashOk stageA stageB elapsedUs => Sys2Proof.Machine.execImage flashOk stageA stageB elapsedUs s
  | .firmware ok elapsedUs => Sys2Proof.Machine.execFirmware ok elapsedUs s
  | .memory training elapsedUs => Sys2Proof.Machine.execMemory training elapsedUs s
  | .links vineStates punnets elapsedUs => Sys2Proof.Machine.execLinks vineStates punnets elapsedUs s
  | .release releaseUs => Sys2Proof.Machine.execRelease releaseUs s
  | .recoveryRestart => Sys2Proof.Machine.execRecoveryRestart s
  | .mgmtWrite off v => Sys2Proof.Machine.execMgmtWrite off v s
  | .extest => Sys2Proof.Machine.execExtest s
  | .intest => Sys2Proof.Machine.execIntest s
  | .clamp => Sys2Proof.Machine.execClamp s
  | .bypass tdi => Sys2Proof.Machine.execBypass tdi s
  | .vineFrame p f => Sys2Proof.Machine.execVineFrame p f s
  | .rcRead off size => Sys2Proof.Machine.execRcRead off size s
  | .configurationRequest busMaster memSpace => Sys2Proof.Machine.execConfigurationRequest busMaster memSpace s
  | .punnetControllerReady port => Sys2Proof.Machine.execPunnetControllerReady port s
  | .channelFailure stk c => Sys2Proof.Machine.execChannelFailure stk c s
  | .budgetWindowEnd => Sys2Proof.Machine.execBudgetWindowEnd s

end Sys2Proof.Machine
end

