-- ==== Sys2Proof/Machine/Step.lean ====
section
/-! DEFINITION. One step of the block: it takes the command at the front of its queue; on an empty queue one tick of 10 ns of the
interval counters passes (R6, R446, R360; log entry 1). -/

namespace Sys2Proof.Machine

/-- One step. (DESIGN CHOICE, log entry 1) -/
def step (s : State) : Host.Outcome State Fault Refusal :=
  match s.pending with
  | [] => .next (idle s)
  | c :: cs => exec c { s with pending := cs }

/-- The state with the command that a table word spells at the front of its queue; no row of the table has bits, so no word spells
one. (DESIGN CHOICE, log entry 4) -/
def State.withFetchWord (s : State) (nbits w : Nat) : State :=
  match decodeTableWord nbits w with
  | some c => { s with pending := c :: s.pending }
  | none => s

end Sys2Proof.Machine
end

