-- ==== Sys2Proof/Safety.lean ====
section
/-! DEFINITION. What claims about the block are stated in: an invariant of its states, and what commands leave alone. -/

namespace Sys2Proof

open Sys2Proof.Machine

/-- The contents of the block's memories are in canonical form (log entry 2). -/
def Canonical (s : State) : Prop := s.mem.wf = true ∧ twf 0 s.orchard = true ∧ twf 0 s.bar2 = true

/-- MOD_STATUS.STAGE names a stage (R433); from FUSES on the rails are in regulation, unless the module has halted (R421, R427); from
IMAGE on the interval counters run (R432, R446). -/
def StageOk (s : State) : Prop :=
  1 ≤ s.boot.stage ∧ s.boot.stage ≤ 10 ∧ (2 ≤ s.boot.stage → s.boot.stage ≤ 8 → s.boot.pg = true) ∧
    (3 ≤ s.boot.stage → s.boot.stage ≤ 8 → s.ctl.running = true)

/-- The invariant of the block. -/
def Inv (s : State) : Prop := Canonical s ∧ StageOk s

/-! ## What commands change -/

/-- The record (w, n) is t, of the opcode, not begun, and may run now: the module takes and runs records, and its power state lets this
one run (R80, R408). No record of the same count and opcode that outlived a reset of the host port waits at the window, whose turn would
come first (R73). -/
def Ready (op w n : Nat) (t : Taken) (s : State) : Prop :=
  s.record w n = some t ∧ s.live = true ∧ t.opcode = op ∧ t.started = false ∧ s.recordRuns op = true ∧
    ∀ o ∈ (s.win w).orphans, fld o.bytes 4 4 = n → o.opcode = op → o.started = true

/-- A record that may run, and that follows every earlier record with which it shares what it changes (R83, R253). -/
def ReadyInTurn (op w n : Nat) (t : Taken) (s : State) : Prop := Ready op w n t s ∧ s.inTurn t = true

/-- From s to t only window w has changed, to v. -/
def OnlyWindow (w : Nat) (v : Window) (s t : State) : Prop :=
  t.win w = v ∧ (∀ o, o ≠ w → t.win o = s.win o) ∧ t = { s with wins := t.wins }

/-! ## A chunk's layers -/

/-- From s to t the chunk c has run its next n layers, each to its end, and stands as x (R194). -/
def LayersRun : Nat → Chunk → State → Chunk → State → Prop
  | 0, c, s, x, t => x = c ∧ t = s
  | n + 1, c, s, x, t => ∃ es wide u,
      runSlots (s.layerIn c.model c.cap c.layer c.rows.length true) c.rows s = (.ok (es, wide), u) ∧
        LayersRun n { c with rows := es, layer := c.layer + 1 } (setChunk { c with rows := es, layer := c.layer + 1 } u) x t

/-! ## A pip's next instruction -/

/-- Pip p of pip stack k, in the RUNNING run of slot i, is to run the instruction w of operation op in the slice in progress (R140,
R144, R151). -/
def PipAt (k p op i w : Nat) (s : State) : Prop :=
  s.released = true ∧ (s.pip k).inSlice = true ∧ (s.pipUnit k p).ready = false ∧ (s.stack (stackOfPip k)).thermal ≠ 4 ∧
    iOp w = op ∧ w = tget 0 (s.pipUnit k p).store (s.pipUnit k p).pc ∧
    ∃ r, (s.pip k).runOf p = some (i, r) ∧ (s.pip k).active p = true ∧ s.inStep k p r = true

/-- No completed write to plot row of pip p still stands in the write queue: the arrays hold what was written (R65, R70). -/
def RowLanded (k p row : Nat) (s : State) : Prop := ∀ e ∈ s.mem.unlanded, e.1 / 64 ≠ plotRow k p row / 2048

/-- Every plot row that the instruction w reads and writes may be read and written: compute granules, the destination in the run's write
range (R110, R146), no row is read after the instruction has written it, and no write to a row that it reads waits in the queue. -/
def RowsFree (k p i w : Nat) (useA useB : Bool) (s : State) : Prop :=
  let d := s.pipA k p (iRd w)
  let a := s.pipA k p (iRa w)
  let b := s.pipA k p (iRb w)
  let r := tget Run.free (s.pip k).runs i
  ∀ j, j < iCount w →
    s.isCompute (plotRow k p (d + j)) = true ∧ r.wrowFirst ≤ (d + j) % 32768 ∧ (d + j) % 32768 < r.wrowFirst + r.wrowCount ∧
    (useA = true → s.isCompute (plotRow k p (a + j)) = true ∧ RowLanded k p (a + j) s ∧
      ∀ x, x < j → (d + x) % 32768 ≠ (a + j) % 32768) ∧
    (useB = true → s.isCompute (plotRow k p (b + j)) = true ∧ RowLanded k p (b + j) s ∧
      ∀ x, x < j → (d + x) % 32768 ≠ (b + j) % 32768)

/-- The step of a pip to its next instruction: its program counter, and with INC the registers used, advanced by COUNT (R138). -/
def PipMoves (k p w : Nat) (used : List Nat) (s t : State) : Prop :=
  (t.pipUnit k p).pc = ((s.pipUnit k p).pc + 1) % 256 ∧
    (∀ r, t.pipA k p r = if iInc w = true ∧ r ∈ used then (s.pipA k p r + iCount w) % 32768 else s.pipA k p r) ∧
    (t.pipUnit k p).store = (s.pipUnit k p).store ∧ (t.pipUnit k p).l = (s.pipUnit k p).l

/-- From s to t only pip p of pip stack k has changed, to v. -/
def PipBecomes (k p : Nat) (v : Pip) (s t : State) : Prop :=
  t.pipUnit k p = v ∧ (∀ h q, (h, q) ≠ (k, p) → t.pipUnit h q = s.pipUnit h q) ∧ t = { s with pips := t.pips }

/-- From s to t pip p has done the plot rows of its instruction w that still fit in the slice in progress (R140). With the last one it
moves on to its next instruction; before, it stands at the row where it stopped, and nothing else of it changes but what v says. -/
def PipAdvances (k p w : Nat) (used : List Nat) (v : Pip → Pip) (s t : State) : Prop :=
  let u := s.pipUnit k p
  let n := s.rowsNow k p w
  (t.pipUnit k p).slice = (s.pip k).sliceNo ∧
    (t.pipUnit k p).used = (if u.slice = (s.pip k).sliceNo then u.used else 0) + n ∧
    (u.row + n = iCount w → PipMoves k p w used s t ∧ (t.pipUnit k p).row = 0) ∧
    (u.row + n ≠ iCount w → t.pipUnit k p =
      { v u with row := u.row + n, slice := (t.pipUnit k p).slice, used := (t.pipUnit k p).used })

/-- From s to t the instruction w of pip p has written f of its rows A and B to its rows D, as many of them as fit in the slice, all other
bursts and everything but memory and the pip stacks stand, and the pip has moved on. -/
def RowsDone (k p w : Nat) (used : List Nat) (f : List Byte → List Byte → List Byte) (s t : State) : Prop :=
  let from_ := (s.pipUnit k p).row
  let end_ := from_ + s.rowsNow k p w
  (∀ j, from_ ≤ j → j < end_ → t.plotBytes k p (s.pipA k p (iRd w) + j) =
    f (s.plotBytes k p (s.pipA k p (iRa w) + j)) (s.plotBytes k p (s.pipA k p (iRb w) + j))) ∧
  (∀ x, (∀ j, from_ ≤ j → j < end_ → x / 64 ≠ plotRow k p (s.pipA k p (iRd w) + j) / 2048) → t.rawBurst x = s.rawBurst x) ∧
  PipAdvances k p w used id s t ∧ (∀ h q, (h, q) ≠ (k, p) → t.pipUnit h q = s.pipUnit h q) ∧
  t = { s with mem := t.mem, pips := t.pips }

/-! ## Messages and collectives of a cascade -/

/-- The message m, of a kind, is met here in one piece: it came by a port that is up, for this member or as a flood met for the first
time, in the module's group under its epoch or a later one, its seal or signature holds, and no other hand-off of its sender is partly
there (R343 to R347). -/
def Opens (m : VineMsg) (kind : Nat) (s : State) : Prop :=
  s.released = true ∧ s.vine.state ≠ 0 ∧ m.port < 12 ∧ (s.vinePort m.port).up = true ∧ m.hops ≠ 0 ∧
    ((m.dst = s.vine.member ∧ m.dst ≠ 0xFFFF) ∨
      (m.dst = 0xFFFF ∧ m.src ≠ s.vine.member ∧ s.vine.floods.contains (m.src, m.msgCtr) = false)) ∧
    m.groupId.toNat = s.vine.groupId ∧ s.vine.epoch ≤ m.epoch ∧ m.sealOk = true ∧ (signedKind kind = true ∨ 2 ≤ s.vine.state) ∧
    m.seg = 0 ∧ m.last = true ∧ ∀ x ∈ s.vine.partials, x.src ≠ m.src ∨ vcOf x.kind ≠ vcOf kind

/-- The module, in no group, is to run the COLLECT record r of operation op: its checks pass, it is the only member, and its SRC reads as
d and its DST can be written, whatever the windows and the Vine registers hold (R357). -/
def CollectsAlone (op w n : Nat) (errs : List SymErr) (r : Taken) (c : Collect) (d out : List Byte) (s : State) : Prop :=
  Ready 0x62 w n r s ∧ r.at 0x20 1 = op ∧ s.workStarts = true ∧ s.vine.state = 0 ∧ s.vine.collects = [] ∧
    firstFail (s.collectChecks r) = none ∧ c = collectOf w r s ∧ c.members = [s.vine.member] ∧ s.stoppedLine c.src c.len = none ∧
    s.closedIn c.src c.len = false ∧ s.closedIn c.dst c.written = false ∧ out = collectValue c s.press.lenLog2 [d] ∧
    ∀ v : State, v = { s with wins := v.wins, vine := { s.vine with collects := v.vine.collects } } →
      ∃ u, moduleRead (plainReader 7) c.src c.len (addErrs errs v) = ({ bytes := d, bad := none }, u) ∧ u.vine = v.vine ∧
        u.wins = v.wins ∧ u.press = v.press ∧ u.boot = v.boot ∧ u.pips = v.pips ∧
        ∀ x : State, x = { u with vine := { u.vine with collects := x.vine.collects } } →
          (writeMem 7 c.dst out x).1 = true ∧ (writeMem 7 c.dst out x).2.vine = x.vine

/-- From s to t the COLLECT c has read its SRC and written out to its DST, and its record has completed with one member and none that
failed. -/
def CollectDone (w : Nat) (errs : List SymErr) (r : Taken) (c : Collect) (out : List Byte) (s t : State) : Prop :=
  ∃ v x, v = { s with wins := v.wins, vine := { s.vine with collects := v.vine.collects } } ∧
    x.mem = (moduleRead (plainReader 7) c.src c.len (addErrs errs v)).2.mem ∧
    t.mem = (writeMem 7 c.dst out x).2.mem ∧
    t = complete w r.n (done (natLe 4 1 ++ natLe 4 0xFFFFFFFF)) { (writeMem 7 c.dst out x).2 with vine := s.vine }

end Sys2Proof
end

