-- ==== Sys2Proof/Certificates/Slice0/Obligations.lean ====
section
/-! DEFINITION. Statements about the block for the provers. -/

open Sys2Proof Sys2Proof.Machine

/-- A step runs the command at the front of the queue; on an empty queue one tick passes. (spec/opcode_table.json,
spec/02_handshake_timing.md, spec/20_bring_up.md) For every command c, queue cs and state s: a step of s with c at the
front of the queue and cs behind it answers what exec answers for c on s with the queue cs. With nothing queued a step
answers a next state whose queue is empty still; the interval counters, if they run, stand one tick of 10 ns further,
and device memory is as before. The queue is the form of the model and the tick on an empty queue its choice (DESIGN
CHOICE, log entry 1). -/
def Obligations.StepRunsFrontCommand : Prop :=
  ∀ s : State,
    (∀ (c : Instr) (cs : List Instr), step { s with pending := c :: cs } = exec c { s with pending := cs }) ∧
    (s.pending = [] → ∃ t, step s = .next t ∧ t.pending = [] ∧ t.mem = s.mem ∧
      t.ctl.ticks = (if s.ctl.running then s.ctl.ticks + 1 else s.ctl.ticks))

/-- No command stops the block, and none touches the queue. (spec/opcode_table.json, R2) Every command answers a next
state in every state, with the queue of commands as it was: the block has no fault, refuses nothing, and commands come
from outside only. -/
def Obligations.EveryCommandAnswersNextState : Prop :=
  ∀ (c : Instr) (s : State), ∃ t, exec c s = .next t ∧ t.pending = s.pending

/-- At power-up every register reads the reset value of its table, and nothing is queued, open or listed. (R441,
spec/22_register_summary.md) State.reset: every register that the register summary gives a reset value other than 0
reads that value (ZST_VALID after release apart), the window, pip stack, engine and wedge registers at every index; of
the others MOD_BOUNDARY_CNT, STN_TIME, HBM_STATUS and SEC_BOOT read 0. The queue is empty, device memory and BAR2 list
nothing, no sequence is open, and no record can be taken. -/
def Obligations.StateAtReset : Prop :=
  (∀ x ∈ ([(0x20, 0x1), (0x40, 0x102), (0x48, 0), (0x80, 0x203208), (0x180, 0x400C8), (0x200000, 0x7807801), (0x500000, 0),
      (0x600000, 0x1008), (0x600008, 0x16), (0x600018, 0x32), (0x700000, 0xC), (0x900000, 0x10000), (0x900008, 0x3E8),
      (0xA00000, 0x11F50), (0xA00008, 0x1), (0xC00000, 0x14050A03), (0xC00018, 0x80000), (0xD00000, 0), (0xE00008, 0x2EE),
      (0xE00010, 0xC80)] : List (Nat × Nat)), regRead State.reset x.1 = x.2) ∧
    (∀ w, w < 16 → regRead State.reset (0x100000 + 0x1000 * w) = w % 8 * 0x100 ∧
      regRead State.reset (0x100040 + 0x1000 * w) = 0x100 ∧ regRead State.reset (0x300000 + 0x10000 * w) = 0) ∧
    (∀ k, k < 8 → regRead State.reset (0x400000 + 0x10000 * k) = 0x41860 ∧
      regRead State.reset (0x400008 + 0x10000 * k) = 0x80200 ∧ regRead State.reset (0x700100 + 0x10 * k) = 0x20000) ∧
    (∀ e, e < 24 → regRead State.reset (0x600100 + 0x10 * e) = 0x20000) ∧
    (∀ w, w < 4 → regRead State.reset (0xE00040 + 8 * w) = 0x3520000) ∧
    State.reset.pending = [] ∧ State.reset.mem.cells = [] ∧ State.reset.bar2 = [] ∧
    (∀ q, State.reset.seq q = SeqEntry.free) ∧ (∀ w, State.reset.canTake w = false)

/-- The invariant holds at reset. (R441, R433, spec/20_bring_up.md) State.reset meets Inv: memory, Orchard SRAM and BAR2
are in their canonical form (log entry 2), and STAGE names a stage. -/
def Obligations.InvAtReset : Prop :=
  Inv State.reset

/-- Every step keeps the invariant. (R421, R427, R432, R433, R446, spec/05_memory_tiers.md, spec/20_bring_up.md) For every
state s that meets Inv: if a step answers next t, then t meets Inv. Inv says that the contents of device memory,
Orchard SRAM and BAR2 are in canonical form (the form is the model's own, log entry 2), that STAGE is between 1 and
10, that from FUSES to RECOVERY the rails are in regulation, and that from IMAGE to RECOVERY the interval counters
run. -/
def Obligations.StepKeepsInv : Prop :=
  ∀ s t : State, Inv s → step s = .next t → Inv t

/-- The record with sequence count n is the content of slot n mod 4,096 of its window. (R78) For every window w whose
EXPECT is n: the record that the module takes next from w has count n and is the 256 bytes at BAR2 offset w x
0x10_0000 + (n mod 4,096) x 0x100, and it can be taken only when that slot has landed. -/
def Obligations.RecordSlot : Prop :=
  ∀ (w n : Nat) (s : State), (s.win w).expect = n →
    (s.candidate w).n = n ∧
    (s.candidate w).bytes = (List.range 256).map (fun i => tget 0 s.bar2 (w * 0x100000 + n % 4096 * 0x100 + i)) ∧
    (s.canTake w = true → (s.win w).landed.contains (n % 4096) = true)

/-- A good BAR2 write to a slot that has not landed is stored; one to a landed slot, and one that breaks R55, is dropped.
(R55, R79, R78) BAR2_WRITE while BAR2 is open. A write of 4, 8, 16, 32 or 64 aligned bytes that carries no part of a
closing word or all of it, to a slot whose landed flag is clear: exactly its bytes of the aperture are replaced; the
flag of its slot (offset mod 1 MiB / 256 of window offset / 1 MiB) is set exactly when the write reaches past record
offset 0xF8; nothing else changes. Such a write to a landed slot changes nothing but LATE_WRITE of its window. One of
a wrong size or alignment, or that carries part of a closing word, below the end of BAR2, changes nothing but
BAD_WRITE of its window and the error log, which takes event 3 with unit kind 12, the window, the offset and the
length. -/
def Obligations.Bar2Writes : Prop :=
  ∀ (off : Nat) (data : List Byte) (s : State), s.live = true → s.barOpen = true →
    (s.bar2Bad off data.length = false → (s.win (off / 0x100000)).landed.contains (off % 0x100000 / 0x100) = false →
      ∃ t, exec (.bar2Write off data) s = .next t ∧
        (∀ a, tget 0 t.bar2 a = if off ≤ a ∧ a < off + data.length then data.getD (a - off) 0 else tget 0 s.bar2 a) ∧
        t.win (off / 0x100000) = (if 0xF8 < off % 0x100 + data.length
          then { s.win (off / 0x100000) with
            landed := sinsert (off % 0x100000 / 0x100) (s.win (off / 0x100000)).landed }
          else s.win (off / 0x100000)) ∧
        (∀ o, o ≠ off / 0x100000 → t.win o = s.win o) ∧ t = { s with bar2 := t.bar2, wins := t.wins }) ∧
    (s.bar2Bad off data.length = false → (s.win (off / 0x100000)).landed.contains (off % 0x100000 / 0x100) = true →
      ∃ t, exec (.bar2Write off data) s = .next t ∧
        OnlyWindow (off / 0x100000) { s.win (off / 0x100000) with errLate := true } s t) ∧
    (s.bar2Bad off data.length = true → off < 0x1000000 →
      ∃ u, OnlyWindow (off / 0x100000) { s.win (off / 0x100000) with errBadWrite := true } s u ∧
        exec (.bar2Write off data) s = .next (logErr 3 12 (off / 0x100000) off data.length u))

/-- WIN_CTL enables, disables and resets a window. (R98, R82) WIN_ENABLE, WIN_DISABLE and WIN_RESET outside RECOVERY, with
BAR0 open, whatever records outlived a reset of the host port. Clearing ENABLE with HOME_CORE unchanged stops intake
and nothing else. Setting ENABLE of a disabled window sets HOME_CORE first and then enables the window, in HELD_CONFIG
with CONFIG_ERR if its rings are ill placed. RESET of a disabled window without records in flight or output
reservations returns its registers to their reset values, leaves no record of its own and acts alone; records that
outlived a reset of the host port go on. A RESET of an enabled window that clears ENABLE disables it and is logged. No
other window and nothing else changes. -/
def Obligations.WindowControlWrites : Prop :=
  ∀ (w : Fin 16) (v : U32) (s : State), s.barOpen = true → s.recovery = false →
    (bit v.toNat 0 = false → bit v.toNat 1 = false → bits v.toNat 8 3 = (s.win w).homeCore →
      ∃ t, exec (.winDisable w v) s = .next t ∧ OnlyWindow w { s.win w with enable := false, heldConfig := false } s t) ∧
    (bit v.toNat 0 = true → bit v.toNat 1 = false → (s.win w).enable = false →
      ∃ t, exec (.winEnable w v) s = .next t ∧
        OnlyWindow w (if (s.win w).configOk
          then { s.win w with homeCore := bits v.toNat 8 3, enable := true, heldConfig := false }
          else { s.win w with homeCore := bits v.toNat 8 3, enable := true, heldConfig := true, errConfig := true }) s t) ∧
    (bit v.toNat 1 = true → (s.win w).enable = false → (s.win w).inflight = 0 → (s.win w).outReserved = 0 →
      ∃ t, exec (.winReset w v) s = .next t ∧ OnlyWindow w { Window.reset w with orphans := (s.win w).orphans } s t) ∧
    (bit v.toNat 0 = false → bit v.toNat 1 = true → bits v.toNat 8 3 = (s.win w).homeCore → (s.win w).enable = true →
      ∃ t, exec (.winReset w v) s = .next t ∧
        OnlyWindow w { s.win w with enable := false, heldConfig := false } (logInvalid (winOff w 0) v.toNat s) t)

/-- A head count at or below its tail is taken, one above it is ignored and marked. (R90, R92, R98, R388)
WIN_REPLY_HEAD_WRITE, WIN_OUT_HEAD_WRITE and MOD_ERR_HEAD_WRITE while the tail is below 2^32: a count up to the tail
becomes the head; a count above it leaves the head, sets HEAD_ERR for the window's rings, and is logged as an invalid
register write for the error log. Nothing else changes. -/
def Obligations.RingHeadsFollowTheHost : Prop :=
  ∀ (w : Fin 16) (v : U32) (s : State), s.barOpen = true → s.recovery = false →
    ((s.win w).replyTail < 2 ^ 32 → ∃ t, exec (.winReplyHeadWrite w v) s = .next t ∧
      OnlyWindow w (if v.toNat ≤ (s.win w).replyTail then { s.win w with replyHead := v.toNat }
        else { s.win w with errHead := true }) s t) ∧
    ((s.win w).outTail < 2 ^ 32 → ∃ t, exec (.winOutHeadWrite w v) s = .next t ∧
      OnlyWindow w (if v.toNat ≤ (s.win w).outTail then { s.win w with outHead := v.toNat }
        else { s.win w with errHead := true }) s t) ∧
    (s.log.tail < 2 ^ 32 → v.toNat ≤ s.log.tail →
      exec (.modErrHeadWrite v) s = .next { s with log := { s.log with head := v.toNat } }) ∧
    (s.log.tail < 2 ^ 32 → s.log.tail < v.toNat → exec (.modErrHeadWrite v) s = .next (logInvalid 0x18C v.toNat s))

/-- MOD_ENG_BAL takes the fields that are in range; a change of the pin fields makes the next boundary an edge. (R305,
R306) MOD_ENG_BAL_WRITE with every field in range sets PIN_EN, the pinned engine counts, MAX_MS and QUOTA from the
written value; the next boundary becomes an assignment edge if PIN_EN or a pinned count changes. Nothing else changes.
-/
def Obligations.EngineBalanceWrite : Prop :=
  ∀ (v : U32) (s : State), s.barOpen = true → s.recovery = false →
    bits v.toNat 24 3 ≤ 5 → inRange (bits v.toNat 20 4) 1 7 = true → 5 ≤ bits v.toNat 8 8 → 1 ≤ bits v.toNat 0 8 →
    exec (.modEngBalWrite v) s = .next { s with seqs := { s.seqs with
      pinEn := bit v.toNat 31, drupePrompt := bits v.toNat 24 3, pressPrompt := bits v.toNat 20 4,
      maxMs := bits v.toNat 8 8, quota := bits v.toNat 0 8,
      edgeDue := s.seqs.edgeDue || (bit v.toNat 31 != s.seqs.pinEn) || (bits v.toNat 24 3 != s.seqs.drupePrompt) ||
        (bits v.toNat 20 4 != s.seqs.pressPrompt) } }

/-- A register read answers and clears; writes and reads that are turned away change only the error log. (R9, R10, R53,
R56, R369, R443, R447) RC_READ, DBG_PRS_INSTR_LATCH, REGISTER_WRITE and BAD_ACCESS with BAR0 open outside RECOVERY. A
read of MOD_HOST_LINK answers its 32 bits and clears DOWN_CNT; a read of MOD_ERR_LOST answers its 64 bits and clears
LOST and COALESCED; a read of word 0 of DBG_PRS_INSTR e answers and latches the instruction at the head of engine e's
queue; a read uses up three free values of the model (freeCtr), and changes nothing else. A read of BAR2, which the
command gives as the offset past 0x100_0000, answers the bytes that BAR2 holds and changes nothing. A write of
PWR_VSET outside 650 to 850 mV is logged as an invalid register write and changes nothing else. A write of a register
with another width, or at an unaligned offset, is discarded and logged as event 1 with its offset and size; such a
read is answered with all ones and logged likewise. -/
def Obligations.RegisterAccess : Prop :=
  ∀ (e : Fin 8) (off size : Nat) (v : U64) (s : State), s.barOpen = true → s.recovery = false →
    exec (.rcRead 0x100 4) s = .next { s with
      freeCtr := s.freeCtr + 3,
      host := { s.host with downCnt := 0, out := s.host.out ++ [HostTx.regData 4 (regRead s 0x100)] } } ∧
    exec (.rcRead 0x190 8) s = .next { s with
      freeCtr := s.freeCtr + 3, log := { s.log with lost := 0, coalesced := 0 },
      host := { s.host with out := s.host.out ++ [HostTx.regData 8 (regRead s 0x190)] } } ∧
    exec (.dbgPrsInstrLatch e) s = .next
      ({ s with freeCtr := s.freeCtr + 3, host := { s.host with
          out := s.host.out ++ [HostTx.regData 8 (regRead s (0xF00100 + 32 * e.val))] } }.modPress e.val
        (fun v => { v with latch := s.pressHead e.val })) ∧
    exec (.rcRead (0x1000000 + off) size) s = .next { s with
      host := { s.host with out := s.host.out ++ [HostTx.barData (tslice 0 s.bar2 off size)] } } ∧
    (inRange (bits (v.toNat % 2 ^ 32) 0 10) 650 850 = false →
      exec (.registerWrite 0xE00008 4 v) s = .next (logInvalid 0xE00008 (v.toNat % 2 ^ 32) s)) ∧
    ((size ≠ 4 ∧ size ≠ 8) ∨ off % size ≠ 0 ∨ (∃ x, regWidth off = some x ∧ x ≠ size) →
      exec (.badAccess off size true v) s = .next (logErr 1 0 0 off size s) ∧
      exec (.badAccess off size false v) s = .next (send (.regData size (2 ^ (8 * size) - 1)) (logErr 1 0 0 off size s)))

/-- A write to PWR_VSET is kept in every power state and applies in ACTIVE. (R413) REGISTER_WRITE of PWR_VSET with BAR0
open outside RECOVERY and a voltage of 650 to 850 mV, whatever the power state: the setpoint is the voltage written
and nothing else changes. In every state with that setpoint that is released, with the rails up, in ACTIVE, so in this
one at once if it is, the rail of a wedge is the lowest of the setpoint, the cap level and the thermal level, and 650
mV at least. -/
def Obligations.VoltageSetpointIsKept : Prop :=
  ∀ (v : U64) (s : State), s.barOpen = true → s.recovery = false →
    inRange (bits (v.toNat % 2 ^ 32) 0 10) 650 850 = true →
    exec (.registerWrite 0xE00008 4 v) s = .next { s with pwr := { s.pwr with vset := bits (v.toNat % 2 ^ 32) 0 10 } } ∧
    ∀ (t : State) (w : Nat), t.pwr.vset = bits (v.toNat % 2 ^ 32) 0 10 → t.boot.pg = true → t.boot.stage = 7 → t.pwr.state = 0 →
      t.railMv w = max 650 (min (bits (v.toNat % 2 ^ 32) 0 10) (min t.pwr.capMv (t.wedge w).thermalMv))

/-- A bias command is accepted, rejected, and completed. (R61, R63, R64) BIAS_TO_HOST and BIAS_TO_DEVICE with no command
in progress, outside RECOVERY with BAR0 open: a range that is empty or runs past the DPA top reads RESULT 3, one that
meets a compute region RESULT 2, any other RESULT 1 with the command in progress; no granule changes. BIAS_COMPLETE of
a command to host bias, once no module write to the range waits, marks exactly its granules and reads RESULT 0 (those
that have become compute meanwhile stay in device bias, R61); to device bias, with no granule of the range in host
bias, it only reads RESULT 0. -/
def Obligations.BiasCommands : Prop :=
  ∀ s : State,
    (s.barOpen = true → s.recovery = false → s.host.biasResult ≠ 1 →
      ∀ toHost : Bool, ∃ r c,
        exec (if toHost then .biasToHost else .biasToDevice) s = .next { s with
          host := { s.host with biasTarget := toHost, biasResult := r, biasCmd := c } } ∧
        (if s.host.biasLen = 0 ∨ 0x20000000000 < 4096 * (s.host.biasBase / 4096 + s.host.biasLen)
          then r = 3 ∧ c = s.host.biasCmd
          else if s.mem.compute.any (fun g => overlaps (65536 * g) 65536 (4096 * (s.host.biasBase / 4096)) (4096 * s.host.biasLen))
          then r = 2 ∧ c = s.host.biasCmd
          else r = 1 ∧ c = some { first := s.host.biasBase / 4096, count := s.host.biasLen, toHost := toHost })) ∧
    (∀ c, s.released = true → s.host.biasCmd = some c →
      (c.toHost = true → s.waitingIn (4096 * c.first) (4096 * c.count) = false →
        ∃ t, exec .biasComplete s = .next t ∧
          (∀ g, g ∈ t.host.hostBias ↔ g ∈ s.host.hostBias ∨
            (c.first ≤ g ∧ g < c.first + c.count ∧ s.isCompute (4096 * g) = false)) ∧
          t = { s with host := { s.host with hostBias := t.host.hostBias, biasResult := 0, biasCmd := none } }) ∧
      (c.toHost = false → (∀ g ∈ s.host.hostBias, g < c.first ∨ c.first + c.count ≤ g) →
        exec .biasComplete s = .next { s with host := { s.host with biasResult := 0, biasCmd := none } }))

/-- An HDM decoder is committed in order and removes the interleave bits of an address. (R52, R58) HDM_DECODER_COMMIT with
BAR4 open. A commit while every higher decoder is uncommitted and every lower one committed, with 1 to 16 ways at a
granularity of 256 B to 16 KiB (R52), window size divisible by the ways, DPA size a multiple of 256 MiB and its end
within the DPA space, stores the decoder and answers committed. An uncommit while every higher decoder is uncommitted
leaves the decoder uncommitted and the others as they were. A commit while a higher decoder is committed answers Error
Not Committed and changes no decoder; so does an uncommit, by the model's choice (DESIGN CHOICE, log entry 49). Where
a decoder interleaves 2^n ways at granularity 2^g, the address of byte x of the module's share, on any way k below
2^n, translates to DPA_START plus x, in 41 bits. -/
def Obligations.HdmDecoders : Prop :=
  ∀ (d : Fin 4) (hpaBase size ways gran dpaSkip : Nat) (s : State),
    (s.barOpen = true →
      ((∀ i, d.val < i → i < 4 → (s.decoder i).committed = false) → (∀ i, i < d.val → (s.decoder i).committed = true) →
        ways ≤ 4 → 8 ≤ gran → gran ≤ 14 → size % 2 ^ ways = 0 → size / 2 ^ ways % 0x10000000 = 0 → 
        s.dpaStart d dpaSkip + size / 2 ^ ways ≤ 0x20000000000 →
        ∃ t, exec (.hdmDecoderCommit d true hpaBase size ways gran dpaSkip) s = .next t ∧
          t.decoder d = { committed := true, hpaBase := hpaBase, size := size, ways := ways, gran := gran, dpaSkip := dpaSkip } ∧
          (∀ i, i ≠ d.val → t.decoder i = s.decoder i) ∧
          t = { s with host := { s.host with
            decoders := t.host.decoders, out := s.host.out ++ [.decoderAnswer true] } }) ∧
      ((∀ i, d.val < i → i < 4 → (s.decoder i).committed = false) →
        ∃ t, exec (.hdmDecoderCommit d false hpaBase size ways gran dpaSkip) s = .next t ∧
          t.decoder d = { s.decoder d with committed := false } ∧ (∀ i, i ≠ d.val → t.decoder i = s.decoder i) ∧
          t = { s with host := { s.host with decoders := t.host.decoders, out := s.host.out ++ [.decoderReleased] } }) ∧
      ((∃ i, d.val < i ∧ i < 4 ∧ (s.decoder i).committed = true) →
        ∀ commit, exec (.hdmDecoderCommit d commit hpaBase size ways gran dpaSkip) s =
          .next { s with host := { s.host with out := s.host.out ++ [.decoderAnswer false] } })) ∧
    (∀ (v : HdmDecoder) (start x k : Nat), k < 2 ^ v.ways →
      v.translate start (v.hpaBase + (x / 2 ^ v.gran * 2 ^ v.ways + k) * 2 ^ v.gran + x % 2 ^ v.gran) = (start + x) % 2 ^ 41)

/-- Holes are the top 32 GiB of a pip-stack slot and lost capacity; an access to one changes no memory and is logged.
(R59) A DPA of the 2 TiB space is a hole exactly where it lies past the capacity of the plain stacks' channels in
service, in the upper 32 GiB of a 128 GiB pip-stack slot, or in a plot of a channel that is mapped out of its pip
stack. With CXL.mem open outside FATAL and no access of the line waiting, CXL_MEM_READ of an HPA that translates to a
hole answers 64 bytes of ones with poison, CXL_MEM_WRITE completes and is dropped; each logs HDM_HOLE (event 4) with
the DPA first, and neither changes the contents of any memory. -/
def Obligations.HoleAccess : Prop :=
  ∀ (hpa a : Nat) (errs : List SymErr) (data : List Byte) (poison : Bool) (s : State),
    (a < 0x10000000000 → (s.hole a = true ↔ s.plainCaps.sum * 4096 ≤ a)) ∧
    (0x10000000000 ≤ a → a < 0x20000000000 → (s.hole a = true ↔
      (0x1800000000 ≤ a % 0x2000000000 ∨
        bit (s.stack (stackOfPip ((a - 0x10000000000) / 0x2000000000))).chMap (a % 0x2000000000 / 0x4000000 % 128 / 4) = true))) ∧
    (s.memOpen = true → s.hdmDpa (hpa / 64 * 64) = some a → s.boot.stage ≠ 10 → s.hole a = true →
      (∀ y ∈ s.host.held, y.dpa ≠ a) →
      (∃ t, exec (.cxlMemRead hpa errs) s = .next t ∧ t.mem.cells = s.mem.cells ∧ t.bar2 = s.bar2 ∧ t.orchard = s.orchard ∧
        t = send (.memData (List.replicate 64 0xFF#8) true) (logErr 4 10 0 a 0 (addErrs errs s))) ∧
      (∃ t, exec (.cxlMemWrite hpa data poison) s = .next t ∧ t.mem = s.mem ∧ t.bar2 = s.bar2 ∧ t.orchard = s.orchard ∧
        t = send .memDone (logErr 4 10 0 a 1 s)))

/-- A CXL.mem read of good memory answers its bytes, a write stores both bursts; in FATAL nothing is stored. (R70, R75,
R142, R382) CXL_MEM_READ and CXL_MEM_WRITE of an HPA that a committed decoder translates to a DPA, with CXL.mem open.
An access of a bank pair whose pip computes in the slice in progress waits, in the order of arrival, and nothing else
changes but the errors that come with it. With the bank pair open and no access of the line waiting: at a DPA with
memory, outside FATAL, a read whose two bursts are good answers their bytes without poison, and a write that stores
its two bursts completes. In FATAL a write completes and changes nothing. -/
def Obligations.HostMemoryAccess : Prop :=
  ∀ (hpa a : Nat) (errs : List SymErr) (data : List Byte) (poison : Bool) (s : State),
    s.memOpen = true → s.hdmDpa (hpa / 64 * 64) = some a →
    (s.closedAt a = true →
      exec (.cxlMemRead hpa errs) s = .next { addErrs errs s with
        host := { s.host with held := s.host.held ++ [{ dpa := a, write := none }] } } ∧
      exec (.cxlMemWrite hpa data poison) s = .next { s with
        host := { s.host with held := s.host.held ++ [{ dpa := a, write := some (data, poison) }] } }) ∧
    (s.closedAt a = false → (∀ y ∈ s.host.held, y.dpa ≠ a) →
    (∀ o u, s.boot.stage ≠ 10 → s.hole a = false → readBursts (ledgerReader 10) (a / 32) 2 (addErrs errs s) = (o, u) →
      o.bad = none → exec (.cxlMemRead hpa errs) s = .next (send (.memData o.bytes false) u)) ∧
    (∀ u1 u2, s.boot.stage ≠ 10 → s.hole a = false → writeBurst 10 (a / 32) (data.take 32) poison s = (true, u1) →
      writeBurst 10 (a / 32 + 1) (padTo 32 (data.drop 32)) poison u1 = (true, u2) →
      exec (.cxlMemWrite hpa data poison) s = .next (send .memDone u2)) ∧
    (s.boot.stage = 10 → exec (.cxlMemWrite hpa data poison) s = .next (send .memDone s)))

/-- Training, snoops, configuration requests and link errors of the host port. (R51, R52, R60, R67, R75, R425)
HOST_LINK_TRAIN with the rails up outside RECOVERY sets PROTO (CXL 3.1 only at 64 GT/s, CXL 2.0 from 32 GT/s on, else
PCIe only), the rate and width that training reached, and the host's CXL enables only under CXL. SNOOP_RESPONSE under
CXL.cache answers without data and changes nothing else. CONFIGURATION_REQUEST before configuration space is live
answers retry status; afterwards it completes and writes the bits it carries, or, carrying none, answers the ranges of
the CXL DVSEC. HOST_LINK_ERROR with the link up adds to AER's status and to that of the CXL RAS capability, and logs
event 0x40. -/
def Obligations.HostLinkEvents : Prop :=
  ∀ (p : HostProto) (rate width line : Nat) (c m : Bool) (bm ms : Option Bool) (aer ras : U32) (s : State),
    (s.boot.pg = true → s.recovery = false → inRange rate 1 6 = true → width ∈ [4, 8, 16] →
      exec (.hostLinkTrain p rate width c m) s = .next { s with host := { s.host with
        proto := (if p = .pcieOnly ∨ rate < 5 then 1 else if p = .cxl31 ∧ rate = 6 then 3 else 2),
        rate := rate, width := width,
        cacheEn := c && !(decide (p = .pcieOnly) || decide (rate < 5)),
        memEn := m && !(decide (p = .pcieOnly) || decide (rate < 5)) } }) ∧
    (2 ≤ s.host.proto → s.host.cacheEn = true →
      exec (.snoopResponse line) s = .next { s with host := { s.host with out := s.host.out ++ [.snoopResp line] } }) ∧
    (s.host.proto ≠ 0 → s.host.configLive = false →
      exec (.configurationRequest bm ms) s = .next { s with host := { s.host with out := s.host.out ++ [.retryStatus] } }) ∧
    (s.host.proto ≠ 0 → s.host.configLive = true → exec (.configurationRequest none none) s = .next { s with host := { s.host with
        out := s.host.out ++ [.dvsec s.host.memActive 0 s.host.range1 0x10000000000 s.host.range2] } }) ∧
    (s.host.proto ≠ 0 → s.host.configLive = true → (bm ≠ none ∨ ms ≠ none) →
      exec (.configurationRequest bm ms) s = .next { s with host := { s.host with
        busMaster := bm.getD s.host.busMaster, memSpace := ms.getD s.host.memSpace, out := s.host.out ++ [.cfgDone] } }) ∧
    (s.host.proto ≠ 0 → exec (.hostLinkError ⟨aer, ras⟩) s =
      .next (logErr 0x40 10 0 0 aer.toNat { s with host := { s.host with
        aer := Nat.lor s.host.aer aer.toNat, ras := Nat.lor s.host.ras ras.toNat } }))

/-- The resets of R73 return every window to its reset values and keep memory, decoders and models; CXL Reset drops the
models. (R73, R425) FUNCTION_LEVEL_RESET, HOT_RESET and HOST_LINK_DOWN with the link up, and PERST, answer a next
state in which every window's registers are at their reset values with no landed slot and no record of its own;
records taken before go on without a reply, a STEP that had not formed excepted. The bytes of device memory, the HDM
decoders and the models are unchanged. After HOST_LINK_DOWN, and after PERST, the link is down; after PERST Bus Master
Enable and Memory Space are clear. CXL_RESET of a released module with the link up leaves no chunk, the HDM decoders,
the windows likewise at their reset values and, with no step FORMED and no share of one, no model. -/
def Obligations.ResetsReturnWindows : Prop :=
  ∀ (c : Instr) (s : State),
    ((c = .functionLevelReset ∨ c = .hotReset ∨ c = .hostLinkDown ∨ c = .perst) → (c = .perst ∨ s.host.proto ≠ 0) →
      ∃ t, exec c s = .next t ∧
        (∀ w, w < 16 → ∃ l, t.win w = { Window.reset w with orphans := (s.win w).orphans ++ l } ∧
          (∀ r ∈ l, ∃ x ∈ (s.win w).taken, r = { x with orphan := true, reserved := [], n := 2 ^ 32 + x.order }) ∧
          ∀ x ∈ (s.win w).taken, x.opcode ≠ 0x32 →
            { x with orphan := true, reserved := [], n := 2 ^ 32 + x.order } ∈ l) ∧
        t.mem.cells = s.mem.cells ∧ t.host.decoders = s.host.decoders ∧ t.seqs.models = s.seqs.models ∧
        t.seqs.variants.map (·.1) = s.seqs.variants.map (·.1) ∧
        (c = .hostLinkDown → t.host.proto = 0) ∧
        (c = .perst → t.host.proto = 0 ∧ t.host.busMaster = false ∧ t.host.memSpace = false)) ∧
    (s.host.proto ≠ 0 → s.released = true → ∃ t, exec .cxlReset s = .next t ∧
      ((∀ p ∈ s.seqs.steps, p.state ≠ 2) → (∀ h ∈ s.vine.steps, h.planned = true → h.chunk = true) → t.seqs.models = []) ∧
      t.seqs.chunks = [] ∧ t.host.decoders = s.host.decoders ∧
      (∀ w, w < 16 → ∃ l, t.win w = { Window.reset w with orphans := l }))

/-- A completed record leaves its window and its reply is written to the next entry of the ring. (R81, R88, R89, R90, R74)
For a record of window w that has not outlived a reset of its window and is the first of its count, while host writes
leave the module: completion with an answer appends to what the module has sent exactly one write of 64 bytes to entry
REPLY_TAIL mod 2^LOG2 of the reply ring, and after it at most window w's vector; the bytes carry TAG, the count,
OPCODE (0xFF when void), both phase bytes, STATUS, FLAGS, DETAIL, the ORDINAL and STAMP captured when the record was
taken, and RESULT. The record is in flight no longer, REPLY_TAIL grows by one, and device memory, the error log and
the sequences stay as they were. -/
def Obligations.CompletionWritesOneReply : Prop :=
  ∀ (w n : Nat) (r : Taken) (a : Answer) (s : State), w < 16 → s.hostWritable = true →
    s.record w n = some r → r.orphan = false →
    ∃ v, complete w n a s = v ∧
      (v.host.out = s.host.out ++ [.write ((s.win w).replyBase + 64 * ((s.win w).replyTail % 2 ^ (s.win w).replyLog2))
          (replyBytes r (decide (a.flags / 8 % 2 = 1)) (s.win w).replyLog2 (s.win w).replyTail r.ordinal r.stamp a)] ∨
        v.host.out = s.host.out ++ [.write ((s.win w).replyBase + 64 * ((s.win w).replyTail % 2 ^ (s.win w).replyLog2))
          (replyBytes r (decide (a.flags / 8 % 2 = 1)) (s.win w).replyLog2 (s.win w).replyTail r.ordinal r.stamp a),
          .msix w]) ∧
      (v.win w).replyTail = (s.win w).replyTail + 1 ∧
      (v.win w).taken = dropFirst (fun u => u == r) (s.win w).taken ∧
      v = { s with host := { s.host with out := v.host.out }, wins := v.wins }

/-- A reply is 64 bytes with its phase in both halves. (R88, R89, R8) For a record of 256 bytes, reply n of a ring of
2^LOG2 entries is 64 bytes long: SEQ_COUNT at 0x08 is the record's count, OPCODE at 0x0C is the record's or 0xFF for a
void one, PHASE_A at 0x0D and PHASE_B at 0x3F both equal 1 - ((n >> LOG2) & 1), STATUS stands at 0x0E, FLAGS at 0x10,
DETAIL at 0x14, ORDINAL at 0x18, STAMP at 0x20, each little-endian. -/
def Obligations.ReplyLayout : Prop :=
  ∀ (r : Taken) (void : Bool) (lg n ordinal stamp : Nat) (a : Answer), r.bytes.length = 256 →
    (replyBytes r void lg n ordinal stamp a).length = 64 ∧
    fld (replyBytes r void lg n ordinal stamp a) 0x08 4 = r.n % 2 ^ 32 ∧
    fld (replyBytes r void lg n ordinal stamp a) 0x0C 1 = (if void then 0xFF else r.opcode) ∧
    fld (replyBytes r void lg n ordinal stamp a) 0x0D 1 = 1 - (n >>> lg) % 2 ∧
    fld (replyBytes r void lg n ordinal stamp a) 0x3F 1 = 1 - (n >>> lg) % 2 ∧
    fld (replyBytes r void lg n ordinal stamp a) 0x0E 2 = a.status % 2 ^ 16 ∧
    fld (replyBytes r void lg n ordinal stamp a) 0x10 4 = a.flags % 2 ^ 32 ∧
    fld (replyBytes r void lg n ordinal stamp a) 0x14 4 = a.detail % 2 ^ 32 ∧
    fld (replyBytes r void lg n ordinal stamp a) 0x18 8 = ordinal % 2 ^ 64 ∧
    fld (replyBytes r void lg n ordinal stamp a) 0x20 8 = stamp % 2 ^ 64

/-- An event enters the error log as a new entry, or is coalesced into the newest. (R366, R367, R368, R388) An event that
the newest unread entry already describes, within 1 ms, raises that entry's COUNT up to 255 and COALESCED, and TAIL
stays. Any other event takes entry TAIL mod 1024 with its code, severity, unit, stamp, ADDR and DETAIL and COUNT 1,
raises TAIL by one, and LOST when the entry it replaces was unread. MOD_FAULT_STAT shows its severity either way. Only
the log and what is sent to the host change. -/
def Obligations.ErrorLogTakesEvents : Prop :=
  ∀ (code kind idx addr detail : Nat) (s : State), ∃ t, logErr code kind idx addr detail s = t ∧
    (coalesces s.log s.now code kind idx addr = true →
      t.log.tail = s.log.tail ∧ t.host = s.host ∧ t.log.coalesced = satAdd 32 s.log.coalesced 1 ∧
      (tget ErrEntry.none t.log.ring ((s.log.tail + 1023) % 1024)).count =
        min 255 ((tget ErrEntry.none s.log.ring ((s.log.tail + 1023) % 1024)).count + 1)) ∧
    (coalesces s.log s.now code kind idx addr = false →
      t.log.tail = s.log.tail + 1 ∧ t.log.coalesced = s.log.coalesced ∧
      t.log.lost = (if 1024 ≤ s.log.tail ∧ s.log.head ≤ s.log.tail - 1024 then satAdd 32 s.log.lost 1 else s.log.lost) ∧
      tget ErrEntry.none t.log.ring (s.log.tail % 1024) =
        { seq := s.log.tail % 2 ^ 32, code := code, severity := severityOf code detail, unitKind := kind, stamp := s.now,
          addr := addr % 2 ^ 64, detail := detail % 2 ^ 32, unitIndex := idx % 256, count := 1 } ∧
      (∀ i, i ≠ s.log.tail % 1024 → tget ErrEntry.none t.log.ring i = tget ErrEntry.none s.log.ring i) ∧
      t.host.out = (if s.hostWritable then s.host.out ++ [.msix 16] else s.host.out)) ∧
    (severityOf code detail = 4 → t.log.statFatal = true) ∧ (severityOf code detail = 3 → t.log.statUnit = true) ∧
    (severityOf code detail = 2 → t.log.statContained = true) ∧ (severityOf code detail = 1 → t.log.statNotice = true) ∧
    t = { s with log := t.log, host := { s.host with out := t.host.out } }

/-- A record is taken in turn: EXPECT advances, its landed flag clears, and a void record is answered at once. (R79, R80,
R85, R86) RECORD_TAKE of a window that can take a record and comes next in the round. The window's EXPECT grows by one
modulo 2^32, the flag of slot EXPECT mod 4096 is cleared, and no other slot or window lands or loses a record. A
record that fails check 1, 2 or 3 is answered BAD_FIELD with flag VOID and DETAIL 0x100, 0x101 or 0x102 and marks its
window. A record other than STEP that meets no check of orders 1 to 9 and no state that bars every record, on a
standalone module, is in flight afterwards and nothing is answered. -/
def Obligations.TakingARecord : Prop :=
  ∀ (w : Fin 16) (src : Src) (s : State), s.canTake w = true → s.isNext w = true →
    (∀ t v, (takeSlot w t v s).win w = { s.win w with
        expect := ((s.win w).expect + 1) % 2 ^ 32, landed := serase (t.n % 4096) (s.win w).landed,
        taken := (s.win w).taken ++ [t], outList := [], errVoid := (s.win w).errVoid || v,
        fenceAfter := if !v && bit (t.at 1 1) 1 then some t.n else (s.win w).fenceAfter } ∧
      (∀ o, o ≠ w.val → (takeSlot w t v s).win o = s.win o)) ∧
    (∀ d, voidDetail (s.candidate w) = some d → exec (.recordTake w src) s =
      .next (complete w (s.win w).expect { badField d with flags := flagVoid } (takeSlot w (s.candidate w) true s))) ∧
    (voidDetail (s.candidate w) = none → (s.candidate w).opcode ≠ 0x32 →
      ∀ r, r = { s.candidate w with formed := s.formedNaming (s.candidate w) } →
        s.recordFault w r = none → s.stateFault r = none →
        exec (.recordTake w src) s = .next (forwardRecord r (takeSlot w r false s)) ∧
        (s.vine.state ≠ 3 → exec (.recordTake w src) s = .next (takeSlot w r false s)))

/-- Where some window can take a record, exactly one comes next in the round. (R83) If some window below 16 could take a
record at once, there is one window among these that comes next in the round, and no second one. -/
def Obligations.RoundRobinServesSomeWindow : Prop :=
  ∀ s : State, s.lastWin < 16 → (∃ w, w < 16 ∧ s.couldTake w = true) →
    ∃ w, (w < 16 ∧ s.couldTake w = true ∧ s.isNext w = true) ∧
      ∀ o, o < 16 → s.couldTake o = true → s.isNext o = true → o = w

/-- Checks 4 to 9 of a taken record decide in their order. (R85, R52, R96) For a record that is not void: FORMAT other
than 1 answers BAD_FIELD with DETAIL 2 whatever else holds; with FORMAT 1 an opcode outside the index answers
BAD_OPCODE with the opcode; with an opcode of the index from 0x10 on while the port is not in CXL mode the answer is
BAD_STATE reason 1; outside RECOVERY a privileged opcode of a window without PRIV in CXL mode answers NOT_AUTHORISED
with DETAIL 0. -/
def Obligations.RecordCheckOrder : Prop :=
  ∀ (w : Nat) (r : Taken) (s : State),
    (r.at 2 1 ≠ 1 → s.recordFault w r = some { status := 0x0102, flags := 0, detail := 2, result := [] }) ∧
    (r.at 2 1 = 1 → opcodes.contains r.opcode = false →
      s.recordFault w r = some { status := 0x0101, flags := 0, detail := r.opcode, result := [] }) ∧
    (r.at 2 1 = 1 → opcodes.contains r.opcode = true → s.host.proto < 2 → 7 < r.opcode →
      s.recordFault w r = some { status := 0x0103, flags := 0, detail := 1, result := [] }) ∧
    (r.at 2 1 = 1 → r.opcode ∈ [3, 4, 6, 7, 0x10, 0x11, 0x12, 0x13, 0x14, 0x20, 0x21, 0x22, 0x25, 0x26, 0x27, 0x38, 0x40, 0x50,
        0x51, 0x60, 0x61, 0x62, 0x63, 0x70, 0x72] → 2 ≤ s.host.proto → (s.win w).priv = false → s.recovery = false →
      s.recordFault w r = some { status := 0x0402, flags := 0, detail := 0, result := [] })

/-- NOP and FLUSH_ACK complete with DONE; fences hold until their scope has completed. (R95, R66, R72, R73, R94, R142) NOP
completes with DONE and has no other effect; FLUSH_ACK does once no module write to its range waits and no slice keeps
a bank pair of it closed, and no write of its range stands in a write queue then. A FENCE record of WINDOW or MODULE
scope, or of CASCADE scope on a standalone module, begins to hold. FENCE_RELEASE of one that holds completes it with
DONE once every record taken before it, of its window or of all windows by its scope, has completed. A NOP that
outlived a reset of the host port leaves the records of its window that did so, and nothing is answered. -/
def Obligations.NopFlushAndFences : Prop :=
  ∀ (w : Fin 16) (n : U32) (r : Taken) (s : State),
    (Ready 0 w n.toNat r s → exec (.nop w n) s = .next (complete w r.n (done []) s)) ∧
    ((s.win w).orphans.find? (fun t => fld t.bytes 4 4 == n.toNat && (t.opcode == 0 && !t.started)) = some r →
      s.live = true → r.orphan = true → s.record (32 + w) r.n = some r →
      ∃ t, exec (.nop w n) s = .next t ∧
        OnlyWindow w { s.win w with orphans := dropFirst (fun u => u == r) (s.win w).orphans } s t) ∧
    (Ready 0x15 w n.toNat r s → s.waitingIn r.base r.len = false → s.closedIn r.base r.len = false →
      ∃ u, exec (.flushAck w n) s = .next (complete w r.n (done []) u) ∧
        (∀ b, tget [] u.mem.unlanded b = if r.base / 32 ≤ b ∧ 32 * b < r.base + r.len then [] else tget [] s.mem.unlanded b) ∧
        u = { s with mem := { s.mem with unlanded := u.mem.unlanded } }) ∧
    (Ready 1 w n.toNat r s → r.at 0x20 1 = 0 → exec (.fenceWindow w n) s = .next (startRecord w r.n s)) ∧
    (Ready 1 w n.toNat r s → r.at 0x20 1 = 1 → exec (.fenceModule w n) s = .next (startRecord w r.n s)) ∧
    (Ready 1 w n.toNat r s → r.at 0x20 1 = 2 → exec (.fenceCascade w n) s = .next (if 2 ≤ s.vine.state then
      askGroupFence r (startRecord w r.n s) else startRecord w r.n s)) ∧
    (s.record w n.toNat = some r → (∀ o ∈ (s.win w).orphans, fld o.bytes 4 4 ≠ n.toNat) →
      s.live = true → r.opcode = 1 → r.started = true → s.vine.fenceWaits = [] →
      (if r.at 0x20 1 = 2 ∧ 2 ≤ s.vine.state then r.progress = 1 else s.fencePassed w r.order (r.at 0x20 1 != 0) = true) →
      exec (.fenceRelease w n) s = .next (complete w n.toNat (done []) s))

/-- QUERY writes the lesser of the page and LENGTH; ATTEST writes a signed report. (R95, R402, R403) QUERY writes the
first LENGTH bytes of its page to DEST and completes with DONE, the page's full size in RESULT. ATTEST writes its
report, as the module stood when the record was taken, followed by the Ed25519 signature, under the chosen identity
key, of the report's SHA-512 digest to DEST, and completes with DONE. Nothing else changes. -/
def Obligations.QueryAndAttest : Prop :=
  ∀ (w : Fin 16) (n : U32) (r : Taken) (s : State),
    (Ready 2 w n.toNat r s → exec (.query w n) s = .next (complete w r.n
      (done (natLe 4 (s.queryBytes w (r.at 0x20 2)).length))
      (hostWrite (r.at 0x28 8) ((s.queryBytes w (r.at 0x20 2)).take (r.at 0x30 4)) s))) ∧
    (Ready 5 w n.toNat r s → exec (.attest w n) s = .next (complete w r.n (done [])
      (hostWrite (r.at 0x48 8) (r.shown ++ edSign (identityKey (r.at 0x20 1)) (sha512 r.shown)) s))) ∧
    (∀ v : Fin 16, (s.candidate v).opcode = 5 → (s.candidate v).shown = s.report (s.slotBytes v (s.win v).expect))

/-- FW_STAGE stages a verified image in the other slot, or leaves it empty; FW_COMMIT selects, confirms and abandons it.
(R397, R398, R399, R401) FW_STAGE with no earlier FW_STAGE or FW_COMMIT, no trial boot and a slot that is not
SELECTED. WRITE of an image that passes every check leaves it STAGED in the other slot, with its length and VERIFY
shown, and answers DONE with its length, SVN, slot and the head of its digest. An image that fails a check answers
SIG_INVALID with the stage code and leaves the slot EMPTY; CLEAR erases the slot and answers DONE. FW_COMMIT with no
earlier FW_STAGE or FW_COMMIT, outside RECOVERY. SELECT of a STAGED slot writes a selector record for a trial boot of
the other slot with the running one as fallback, and the slot reads SELECTED. CONFIRM of a trial boot writes a record
for the running slot, ends the trial, leaves the other slot STAGED, and with BURN raises the fused SVN to the image's.
ABANDON of a SELECTED slot points the selector back at the running slot, and the slot reads STAGED. Each answers DONE.
-/
def Obligations.FirmwareIsStagedAndSelected : Prop :=
  ∀ (w : Fin 16) (n : U32) (src : Src) (r : Taken) (d : List Byte) (u s : State),
    (Ready 6 w n.toNat r s →
      s.earlierTaken 7 r = false → s.earlierTaken 6 r = false → s.sec.trial = false → s.sec.otherState ≠ 3 →
      (r.at 0x20 1 = 0 → readSource (r.at 0x21 1 == 1) (r.at 0x28 8) (r.at 0x30 4) src s = (.bytes d, u) →
        match imageFault d u.sec.fusedSvn with
        | none => exec (.fwStageWrite w n src true) s = .next (complete w r.n
            (done (natLe 4 (r.at 0x30 4) ++ natLe 1 (fld d 6 1) ++ natLe 1 u.otherSlot ++ natLe 2 0 ++ (imageDigest d).take 8))
            (showStage (r.at 0x30 4) true (setOther (.image d) 2 u)))
        | some c => exec (.fwStageWrite w n src true) s = .next (complete w r.n (ans 0x0401 c)
            (showStage (r.at 0x30 4) true (noteSigFail c (setOther .erased 0 u))))) ∧
      (r.at 0x20 1 = 1 → exec (.fwStageClear w n true) s =
        .next (complete w r.n (done []) (showStage 0 false (setOther .erased 0 s))))) ∧
    (ReadyInTurn 7 w n.toNat r s → s.earlierTaken 6 r = false →
      s.recovery = false →
      (r.at 0x20 1 = 0 → s.sec.otherState = 2 → ∃ u, exec (.fwCommitSelect w n) s = .next (complete w r.n (done []) u) ∧
        u.sec = { (writeSelector s.otherSlot true (some s.sec.slot) s).sec with otherState := 3 } ∧ u = { s with sec := u.sec }) ∧
      (r.at 0x20 1 = 1 → s.sec.trial = true → ∃ u, exec (.fwCommitConfirm w n) s = .next (complete w r.n (done []) u) ∧
        u.sec = { (writeSelector s.sec.slot false none s).sec with
          trial := false, otherState := 2,
          fusedSvn := if r.at 0x21 1 = 1 then max s.sec.fusedSvn s.sec.imageSvn else s.sec.fusedSvn } ∧ u = { s with sec := u.sec }) ∧
      (r.at 0x20 1 = 2 → s.sec.otherState = 3 → ∃ u, exec (.fwCommitAbandon w n) s = .next (complete w r.n (done []) u) ∧
        u.sec = { (writeSelector s.sec.slot false none s).sec with otherState := 2 } ∧ u = { s with sec := u.sec }))

/-- POWER_SET sets a target, the module descends to it, reaches it and leaves it on its own. (R406, R407, R408, R411)
POWER_SET of a state with no POWER_SET or move in progress and, for S states and deeper, no cascade: the target
becomes the deepest sub-state whose entry and wake times fit NEXT_EVENT_US, the record waits, and nothing is answered.
POWER_DESCEND once the work it waits for is over begins the descent. POWER_SUBSTATE_REACHED makes the target the
present sub-state and ends the move. POWER_SELF_WAKE at the planned tick with no move under way starts the move to the
shallowest sub-state. A POWER_SET while a move is under way stops that move at the sub-state that it has reached when
the record was taken, and sets the new target. -/
def Obligations.PowerStateMoves : Prop :=
  ∀ (w : Fin 16) (n : U32) (r : Taken) (s : State),
    (Ready 3 w n.toNat r s → (r.at 0x20 1 < 3 ∨ s.vine.state = 0) → s.pwr.record = none → s.pwr.transit = false →
      ∃ t, exec (.powerSet w n) s = .next t ∧ t.pwr.target = r.at 0x20 1 ∧
        t.pwr.targetSub = chooseSub (r.at 0x20 1) (r.at 0x24 4) ∧ t.pwr.transit = true ∧ t.pwr.state = s.pwr.state ∧
        t.pwr.sub = s.pwr.sub ∧ t.pwr.record = some (w.val, r.n) ∧ t = { startRecord w r.n s with pwr := t.pwr }) ∧
    (Ready 3 w n.toNat r s → (r.at 0x20 1 < 3 ∨ s.vine.state = 0) → s.pwr.transit = true → s.pwr.descending = true →
      ∃ t, exec (.powerSet w n) s = .next t ∧ (t.pwr.state, t.pwr.sub) = s.pwr.soFar r.at_ ∧ t.pwr.target = r.at 0x20 1 ∧
        t.pwr.targetSub = chooseSub (r.at 0x20 1) (r.at 0x24 4) ∧ t.pwr.transit = true ∧ t.pwr.record = some (w.val, r.n)) ∧
    (s.released = true → s.pwr.transit = true → s.pwr.descending = false → s.working = false →
      exec .powerDescend s = .next { s with pwr := { s.pwr with descending := true, takenAt := max s.pwr.takenAt s.now } }) ∧
    (s.released = true → s.pwr.transit = true → s.pwr.descending = true →
      ∃ t, exec .powerSubstateReached s = .next t ∧ t.pwr.state = s.pwr.target ∧ t.pwr.sub = s.pwr.targetSub ∧
        t.pwr.transit = false ∧ t.pwr.record = none) ∧
    (∀ k, s.released = true → s.pwr.wakeAt = some k → (s.pwr.transit = false ∨ s.pwr.descending = false) →
      ∃ t, exec .powerSelfWake s = .next t ∧ t.pwr.targetSub = 0 ∧
      t.pwr.target = s.pwr.target ∧ t.pwr.transit = true ∧ t.pwr.wakeAt = none ∧ t.mem = s.mem ∧ t.wins = s.wins)

/-- A window's vector is sent once its delay has passed since the first entry. (R93) IRQ_DELAY_EXPIRE of a window with an
unsignalled entry and DELAY_US set, whose deadline has come: the vector of the window is sent, as R74 lets it, and the
counts of COUNT and DELAY_US start anew. Nothing else changes. -/
def Obligations.DelayedWindowVector : Prop :=
  ∀ (w : Fin 16) (t0 : Nat) (s : State), s.live = true → (s.win w).irqFirst = some t0 → (s.win w).irqDelay ≠ 0 →
    t0 + 100 * (s.win w).irqDelay ≤ s.now →
    ∃ u, OnlyWindow w { s.win w with irqPending := 0, irqFirst := none } s u ∧
      exec (.irqDelayExpire w) s = .next (if s.hostWritable then send (.msix w) u else u)

/-- A burst of protected memory reads back what was written, and no other byte changes. (R103, R75, R316) A write of 32
bytes to a burst that exists, outside mirrors and mirrored ranges, whose stack is not stopped and whose block is not
quarantined, lands: every byte outside the burst is as before. Where the burst is protected and its channel has not
failed, a read of it by any reader then gives the 32 bytes written, or, where they were written with poison, gives
nothing. -/
def Obligations.BurstReadsBackWhatWasWritten : Prop :=
  ∀ (r : ReadBy) (unit b st ch : Nat) (d : List Byte) (poison : Bool) (s : State),
    s.fold (32 * b) = some (st, ch) → (s.stack st).thermal ≠ 4 → s.inMirror (32 * b) = false →
    s.mirrorPair (32 * b) = none → s.quarSlot (b / 128) = none → d.length = 32 →
    ∃ t, writeBurst unit b d poison s = (true, t) ∧
      (∀ a, a < 32 * b ∨ 32 * b + 32 ≤ a → tget 0 t.mem.cells a = tget 0 s.mem.cells a) ∧
      (s.isCompute (32 * b) = false → bit (s.stack st).failedCh ch = false →
        (poison = false → (readBurst r b t).1 = some d) ∧ (poison = true → (readBurst r b t).1 = none)) ∧
      t = { s with mem := t.mem }

/-- The granules of the plain stacks and the granules of the plain range stand one to one. (R100, R245) For any capacities
of the eight plain stacks: granule q of stack j, with q below the stack's capacity, is held by one granule of the
plain range, which the zones of the address fold lead back to (j, q). -/
def Obligations.AddressFoldInverts : Prop :=
  ∀ (cap : List Nat) (j q : Nat), cap.length = 8 → j < 8 → q < cap.getD j 0 →
    foldZones cap (unfoldZones cap j q 9 0 0) 9 0 0 = some (j, q)

/-- MEM_COPY and MEM_FILL write lines and answer the bytes done. (R128, R129, R142, R459) MEM_FILL whose remaining lines
are all written completes with DONE and LENGTH; one that a stopped stack or a slice holds up has its progress noted
and stays in flight. MEM_COPY from device memory whose lines are all copied completes with DONE and LENGTH; one whose
source meets poison completes with ECC_UNCORRECTED, the stack of the burst, and the bytes copied before it. MEM_COPY
from host memory whose lines are all written completes with DONE and LENGTH; from poisoned host memory it completes
with ECC_UNCORRECTED and 0xFFFFFFFF. No command of these changes anything but through the line writes and the reply.
-/
def Obligations.CopyAndFill : Prop :=
  ∀ (w : Fin 16) (n : U32) (src : Src) (r : Taken) (s : State),
    (Ready 0x11 w n.toNat r s → r.progress = 0 → ∀ k u,
      writeLines (r.at 0x20 8) (List.replicate (r.at 0x28 8 / 64) (List.replicate 8 (bytesAt r.bytes 0x30 8)).flatten) s = (k, u) →
      (r.at 0x28 8 ≤ 64 * k → exec (.memFill w n) s = .next (complete w r.n (done (natLe 8 (r.at 0x28 8))) u)) ∧
      (64 * k < r.at 0x28 8 → exec (.memFill w n) s =
        .next (modRecord w r.n (fun t => { t with progress := 64 * k }) u))) ∧
    (Ready 0x10 w n.toNat r s → r.progress = 0 → r.at 0x38 1 = 0 → ∀ o u,
      copyLines (r.at 0x20 8) (r.at 0x28 8) (r.at 0x30 8 / 64) (addErrs src.errs s) = (o, u) →
      (o.bad = none → r.at 0x30 8 ≤ 64 * o.lines → exec (.memCopy w n src) s =
        .next (complete w r.n (done (natLe 8 (r.at 0x30 8))) u)) ∧
      (∀ b, o.bad = some b → exec (.memCopy w n src) s = .next (complete w r.n
        { status := 0x0303, flags := 0, detail := u.stackOf (32 * b), result := natLe 8 (64 * o.lines) } u))) ∧
    (Ready 0x10 w n.toNat r s → r.progress = 0 → r.at 0x38 1 ≠ 0 → src.host = .poison →
      exec (.memCopy w n src) s = .next (complete w r.n
        { status := 0x0303, flags := 0, detail := 0xFFFFFFFF, result := natLe 8 0 } (hostRead (r.at 0x20 8) 64 s))) ∧
    (Ready 0x10 w n.toNat r s → r.progress = 0 → r.at 0x38 1 ≠ 0 → r.at 0x30 8 % 64 = 0 → ∀ b k u, src.host = .bytes b →
      r.at 0x30 8 ≤ b.length →
      writeLines (r.at 0x28 8) (chunksOf 64 (b.take (r.at 0x30 8))) (hostRead (r.at 0x20 8) (r.at 0x30 8) s) = (k, u) →
      r.at 0x30 8 ≤ 64 * k → exec (.memCopy w n src) s = .next (complete w r.n (done (natLe 8 (r.at 0x30 8))) u))

/-- REGION_SET and REGION_SEAL convert, mirror and seal their range, and are turned away while a run names it. (R115,
R116, R125, R142, R149) Of a range that no FORMED step reads, whose stacks are not stopped and whose bank pairs are
open. MAKE_COMPUTE and REGION_SEAL whose granules all convert answer DONE with LENGTH. SET_MIRROR whose lines are all
copied adds the pair and answers DONE with LENGTH. CLEAR_MIRROR of a pair's primary removes exactly that pair; of
another range it is turned away with BAD_FIELD (DESIGN CHOICE, log entry 50). While a pip run names the range,
MAKE_COMPUTE answers BAD_STATE reason 2 and changes nothing else. -/
def Obligations.RegionCommands : Prop :=
  ∀ (w : Fin 16) (n : U32) (errs : List SymErr) (r : Taken) (s : State), s.regionFree r = true →
    (Ready 0x12 w n.toNat r s → r.at 0x30 1 = 0 → s.runNames r r.base r.len = false → ∀ k u,
      convertAll makeCompute r.granules (addErrs errs s) = ((k, none), u) →
      exec (.regionSetMakeCompute w n errs) s = .next (complete w r.n (done (natLe 8 r.len)) u)) ∧
    (Ready 0x12 w n.toNat r s → r.at 0x30 1 = 0 → s.runNames r r.base r.len = true →
      exec (.regionSetMakeCompute w n errs) s = .next (complete w r.n (ans 0x0103 2) s)) ∧
    (Ready 0x12 w n.toNat r s → r.at 0x30 1 = 1 → firstFail (s.mirrorChecks r) = none → s.closedIn (r.at 0x38 8) r.len = false → ∀ o u,
      copyLines r.base (r.at 0x38 8) (r.len / 64) (addErrs errs s) = (o, u) → o.bad = none → r.len ≤ 64 * o.lines →
      exec (.regionSetSetMirror w n errs) s = .next (complete w r.n (done (natLe 8 r.len)) { u with mem := { u.mem with
        mirrors := u.mem.mirrors ++ [{ primary := r.base, length := r.len, mirror := r.at 0x38 8 }] } })) ∧
    (Ready 0x12 w n.toNat r s → r.at 0x30 1 = 2 →
      s.mem.mirrors.any (fun x => x.primary == r.base && x.length == r.len) = true → s.runNames r r.base r.len = false →
      exec (.regionSetClearMirror w n) s = .next (complete w r.n (done (natLe 8 r.len)) (awaitHost r.base r.len
        { s with mem := { s.mem with
          mirrors := s.mem.mirrors.filter (fun x => !(x.primary == r.base && x.length == r.len)) } }))) ∧
    (Ready 0x12 w n.toNat r s → r.at 0x30 1 = 2 →
      s.mem.mirrors.any (fun x => x.primary == r.base && x.length == r.len) = false →
      exec (.regionSetClearMirror w n) s = .next (complete w r.n (ans 0x0102 0x20) s)) ∧
    (Ready 0x13 w n.toNat r s → s.runNames r r.base r.len = false →
      r.granules.any (fun g => s.mem.compute.contains g && (granuleBlocks g).any (fun b => (s.entryOf b).isOpen)) = false →
      ∀ k u, convertAll sealGranule r.granules (addErrs errs s) = ((k, none), u) →
      exec (.regionSeal w n errs) s = .next (complete w r.n (done (natLe 8 r.len)) u))

/-- A granule that becomes compute keeps its bytes and is in device bias; sealing makes it protected again. (R61, R115,
R116) A protected granule whose bursts all read becomes a compute granule: it is listed among them, every other
granule stays as it was, and its bytes are those that the read gave. A compute granule whose blocks all pass their
ledger entries ceases to be one, and no other granule changes kind. -/
def Obligations.ConversionOfGranules : Prop :=
  ∀ (g : Nat) (s t : State),
    (s.mem.compute.contains g = false → makeCompute g s = (none, t) →
      t.mem.compute = sinsert g s.mem.compute ∧
      (∀ o u, readBursts (plainReader 9) (2048 * g) 2048 s = (o, u) →
        ∀ i, i < 65536 → tget 0 t.mem.cells (65536 * g + i) = o.bytes.getD i 0)) ∧
    (s.mem.compute.contains g = true → sealGranule g s = (none, t) → t.mem.compute = serase g s.mem.compute)

/-- SCRUB reports what one sweep found; the scrubber's own sweeps correct errors and count a pass. (R118, R119, R142)
SCRUB of a range without a stopped stack or a closed bank pair answers DONE with the bursts corrected, the
uncorrectable ones and the first of them (all ones when there is none). A sweep of protected memory that finds no
symbol error, no poison marker, no channel failed whole and no granule in host bias, with the scrubber enabled and not
paused, only counts a pass. A sweep of the compute granules changes no byte of memory, no granule's kind and no count
of passes. -/
def Obligations.ScrubbingReportsAndSweeps : Prop :=
  ∀ (w : Fin 16) (n : U32) (errs : List SymErr) (r : Taken) (s : State),
    (Ready 0x14 w n.toNat r s →
      (List.range (r.len / 4096)).any (fun i => s.stopped (r.base + 4096 * i)) = false → s.closedIn r.base r.len = false → ∀ x u,
      sweepBlocks ((List.range (r.len / 4096)).map (fun i => r.base / 4096 + i)) (addErrs errs s) = (x, u) →
      exec (.scrub w n errs) s = .next (complete w r.n
        (done (natLe 4 x.fixed ++ natLe 4 x.bad ++ natLe 8 (x.first.getD (2 ^ 64 - 1)))) u)) ∧
    (s.released = true → s.scrubs = true → s.mem.errs = [] → s.mem.poison = [] →
      (∀ i, i < 16 → (s.stack i).failedCh = 0) → s.host.hostBias = [] →
      exec (.scrubProtectedSweep []) s = .next { s with mem := { s.mem with passes := (s.mem.passes + 1) % 2 ^ 32 } }) ∧
    (s.released = true → s.scrubs = true → ∃ t, exec (.scrubComputeSweep errs) s = .next t ∧
      t.mem.cells = s.mem.cells ∧ t.mem.compute = s.mem.compute ∧ t.mem.passes = s.mem.passes)

/-- MODEL_LOAD places and drops a model; LAYER_DESC describes its layers. (R169, R171) PLACE of a free model slot for
which firmware finds no room answers BAD_STATE 3 (not for PLACE_MODE 1, which needs no pip stack), BAD_STATE 8 (only
for a layer of more than 32,768 rows) or NO_PAGES with more pages than are free beyond the areas' need, and changes
nothing else; a placement that keeps to the rules, with pages for the areas, room for the map and a key, answers DONE.
DROP of a model that no sequence, variant, bramble node, membership or open load names leaves the slot empty.
LAYER_DESC of a loaded model stores the descriptor of its layer, and the model becomes usable once every layer has
one. -/
def Obligations.ModelsAreLoadedAndDropped : Prop :=
  ∀ (w : Fin 16) (n : U32) (r : Taken) (s : State),
    (ReadyInTurn 0x20 w n.toNat r s → r.at 0x20 1 = 0 → (s.model (r.at 0x21 1)).state = 0 →
      (r.at 0x36 1 ≠ 1 → exec (.modelLoadPlace w n .pipSpaceLacking) s = .next (complete w r.n (ans 0x0103 3) s)) ∧
      ((placedModel r [] []).mayExceed = true →
        exec (.modelLoadPlace w n .rowsBeyondEngines) s = .next (complete w r.n (ans 0x0103 8) s)) ∧
      (∀ k, s.mayLack (placedModel r [] []) k = true →
        exec (.modelLoadPlace w n (.pagesLacking k)) s = .next (complete w r.n (ans 0x0201 k) s)) ∧
      (∀ map pages, s.placementOk (placedModel r map pages) = true →
        pages.length + (placedModel r map pages).scalePageCount + (placedModel r map pages).gainPageCount ≤ s.freePages →
        48 * map.length ≤ r.at 0x48 4 → s.keyRoom r.tenant = true →
        ∃ u, exec (.modelLoadPlace w n (.placed map pages)) s = .next (complete w r.n
            (done (natLe 4 (48 * map.length) ++ natLe 4 map.length ++ natLe 8 (placedModel r map pages).weightBytes))
            (hostWrite (r.at 0x40 8) (map.flatMap MapEntry.bytes) u)) ∧
          (u.model (r.at 0x21 1)).map = map ∧ (u.model (r.at 0x21 1)).state = (placedModel r map pages).state ∧
          (∀ k, k ≠ r.at 0x21 1 → u.model k = s.model k) ∧ u.mem.cells = s.mem.cells)) ∧
    (ReadyInTurn 0x20 w n.toNat r s → r.at 0x20 1 = 1 → firstFail (s.dropChecks (r.at 0x21 1)) = none →
      ∃ u, exec (.modelLoadDrop w n) s = .next (complete w r.n (done []) u) ∧ u.model (r.at 0x21 1) = Model.none ∧
        u.mem.cells = s.mem.cells) ∧
    (ReadyInTurn 0x21 w n.toNat r s → (s.model (r.at 0x20 1)).state ≠ 0 → r.at 0x22 2 ≤ (s.model (r.at 0x20 1)).layers →
      s.actFnOk (r.at 0x3C 2) = true →
      ∃ u, exec (.layerDesc w n) s = .next (complete w r.n (done []) u) ∧
        tget none (u.model (r.at 0x20 1)).descs (r.at 0x22 2) = some (descOf r) ∧
        (∀ l, l ≠ r.at 0x22 2 → tget none (u.model (r.at 0x20 1)).descs l = tget none (s.model (r.at 0x20 1)).descs l) ∧
        (∀ k, k ≠ r.at 0x20 1 → u.model k = s.model k) ∧ u = { s with seqs := { s.seqs with models := u.seqs.models } })

/-- SCALE_LOAD writes the scales or channels of its target, in order, or names the first bad value. (R209, R210, R211,
R212) SCALE_LOAD with its checks passed, the other copy held by nothing, and its source read. With every value good,
ROW_SCALES, INPUT_SCALES and INPUT_RANGES write the values to the target of their model, every other model and
everything else staying, and answer DONE. With a value that is not allowed, ROW_SCALES answers BAD_FIELD at 0x28 with
the index of the first such value and nothing is written. -/
def Obligations.ScalesAreLoaded : Prop :=
  ∀ (w : Fin 16) (n : U32) (src : Src) (r : Taken) (d : List Byte) (u s : State), ReadyInTurn 0x22 w n.toNat r s →
    firstFail (s.scaleChecks r) = none →
    s.copyHeld (r.at 0x21 1) (if r.at 0x20 1 = 0 then scaleTarget (r.at 0x22 2) (r.at 0x24 1)
      else pointTarget (r.at 0x22 2) (r.at 0x24 1)) = false →
    readSource (r.at 0x26 1 == 1) (r.at 0x28 8) (scaleBytes r) src s = (.bytes d, u) →
    ∀ vs, vs = (chunksOf (srcWidth (r.at 0x25 1)) d).map (fun b => srcValue (r.at 0x25 1) (leNat b)) →
    (r.at 0x20 1 = 0 → (∀ v ∈ vs, f32Finite v = true) →
      ∃ t, exec (.scaleLoadRowScales w n src) s = .next (complete w r.n (done []) t) ∧
        (∀ i, i < vs.length → tget f32One (t.model (r.at 0x21 1)).scaleSet.scales
          (scaleKey (r.at 0x22 2) (r.at 0x24 1) (r.at 0x30 4) + i) = vs.getD i 0) ∧
        (∀ k, k ≠ r.at 0x21 1 → t.model k = u.model k) ∧ t = { u with seqs := { u.seqs with models := t.seqs.models } }) ∧
    (r.at 0x20 1 = 0 → ∀ i, firstFault (fun v => if f32Finite v then none else some 0) vs = some (i, 0) →
      exec (.scaleLoadRowScales w n src) s = .next (complete w r.n
        { status := 0x0102, flags := 0, detail := 0x28, result := natLe 4 i ++ natLe 1 0 } u)) ∧
    (r.at 0x20 1 = 1 → firstFault scalePairFault (pairsOf vs) = none →
      ∃ t, exec (.scaleLoadInputScales w n src) s = .next (complete w r.n (done []) t) ∧
        (t.model (r.at 0x21 1)).scaleSet.channels = tsets Channel.initial (u.model (r.at 0x21 1)).scaleSet.channels
          (channelKey (r.at 0x22 2) (r.at 0x24 1) (r.at 0x30 4))
          ((pairsOf vs).map (fun p => (channelOfScale p.1 p.2).getD Channel.initial)) ∧
        (∀ k, k ≠ r.at 0x21 1 → t.model k = u.model k) ∧ t = { u with seqs := { u.seqs with models := t.seqs.models } }) ∧
    (r.at 0x20 1 = 2 → firstFault rangePairFault (pairsOf vs) = none →
      ∃ t, exec (.scaleLoadInputRanges w n src) s = .next (complete w r.n (done []) t) ∧
        (t.model (r.at 0x21 1)).scaleSet.channels = tsets Channel.initial (u.model (r.at 0x21 1)).scaleSet.channels
          (channelKey (r.at 0x22 2) (r.at 0x24 1) (r.at 0x30 4))
          ((pairsOf vs).map (fun p => (channelOfRange p.1 p.2).getD Channel.initial)) ∧
        (∀ k, k ≠ r.at 0x21 1 → t.model k = u.model k) ∧ t = { u with seqs := { u.seqs with models := t.seqs.models } })

/-- VARIANT_LOAD makes a good image resident and names the first bad byte of another; VARIANT_DROP removes a variant that
nothing names. (R295, R298, R299) VARIANT_LOAD of a usable model with its image read: an image that breaks its format
answers BAD_FIELD at 0x28 with the byte offset of the first failing item and nothing becomes resident; a good one with
a placement that keeps to the rules becomes resident under its id with its delta blocks, for its model and tenant, and
answers DONE with the counts. Where the pip stacks lack space it answers BAD_STATE 0x37, where plain stacks lack pages
NO_PAGES with their number, and nothing becomes resident. VARIANT_DROP of a variant that no sequence and no bramble
node names answers DONE and the variant is resident no longer. -/
def Obligations.VariantsComeAndGo : Prop :=
  ∀ (w : Fin 16) (n : U32) (src : Src) (r : Taken) (s : State),
    (ReadyInTurn 0x23 w n.toNat r s → (s.model (r.at 0x22 1)).state = 2 →
      r.at 0x38 4 ≤ 8 * ((s.model (r.at 0x22 1)).layers + 1) →
      (tget Variant.none s.seqs.variants (r.at 0x20 2)).model = 16 → s.residents < 256 → s.keyRoom r.tenant = true →
      ∀ d u, readSource (r.at 0x24 1 == 1) (r.at 0x28 8) (r.at 0x30 8) src s = (.bytes d, u) →
      (∀ plan o, readSections (u.model (r.at 0x22 1)) d (r.at 0x38 4) 0 none = .error o →
        exec (.variantLoad w n src plan) s = .next (complete w r.n
          { status := 0x0102, flags := 0, detail := 0x28, result := natLe 4 o } u)) ∧
      (∀ ds, readSections (u.model (r.at 0x22 1)) d (r.at 0x38 4) 0 none = .ok ds →
        (u.deltaNoSpace (u.model (r.at 0x22 1)) ds = true →
          exec (.variantLoad w n src .pipSpaceLacking) s = .next (complete w r.n (ans 0x0103 0x37) u)) ∧
        (u.deltaLacks (u.model (r.at 0x22 1)) ds ≠ 0 →
          exec (.variantLoad w n src (.pagesLacking (u.deltaLacks (u.model (r.at 0x22 1)) ds))) s =
            .next (complete w r.n (ans 0x0201 (u.deltaLacks (u.model (r.at 0x22 1)) ds)) u))) ∧
      (∀ ds pages granules, readSections (u.model (r.at 0x22 1)) d (r.at 0x38 4) 0 none = .ok ds →
        u.deltaOk (u.model (r.at 0x22 1)) ds pages granules = true →
        ∃ t, exec (.variantLoad w n src (.placed pages granules)) s = .next (complete w r.n
            (done (natLe 4 ds.length ++ natLe 4 pages.length ++ natLe 4 granules.length)) t) ∧
          tget Variant.none t.seqs.variants (r.at 0x20 2) = {
            model := r.at 0x22 1, tenant := r.tenant, isGlobal := r.at 0x23 1 == 1, pages := pages, granules := granules, blocks := ds } ∧
          (∀ v, v ≠ r.at 0x20 2 → tget Variant.none t.seqs.variants v = tget Variant.none u.seqs.variants v))) ∧
    (ReadyInTurn 0x24 w n.toNat r s → s.variantNamed (r.at 0x20 2) = false →
      ∃ t, exec (.variantDrop w n) s = .next (complete w r.n (done []) t) ∧
        tget Variant.none t.seqs.variants (r.at 0x20 2) = Variant.none ∧
        (∀ v, v ≠ r.at 0x20 2 → tget Variant.none t.seqs.variants v = tget Variant.none s.seqs.variants v))

/-- TABLE_LOAD writes the shadow bank or a model's gains; TABLE_SWAP makes the shadow bank current, and the copy ends it.
(R224, R227, R230, R231, R232, R239) A good TABLE or PROGRAM image is stored in its slot of the shadow bank, the
current bank unchanged, and answers DONE; a program image with a bad word answers BAD_FIELD 0x80000000 plus its index.
GAIN writes the gains of its normalisation index of a loaded model. TABLE_SWAP with no other swap about and a shadow
bank whose programs name loaded tables and hold every layer's function makes the shadow bank current.
TABLE_SWAP_PROCEED does the same for the oldest waiting swap. TABLE_SWAP_COPY, once no job is on the old bank, copies
the current bank over it, counts the swap and answers DONE with the current bank. -/
def Obligations.ZestTablesAndPrograms : Prop :=
  ∀ (w : Fin 16) (n : U32) (src : Src) (r : Taken) (d : List Byte) (u s : State),
    (Ready 0x25 w n.toNat r s → r.at 0x20 1 = 0 → s.tableTurn r = true →
      readSource (r.at 0x24 1 == 1) (r.at 0x28 8) 3136 src s = (.bytes d, u) → tblReject d = none →
      exec (.tableLoadTable w n src) s = .next (complete w r.n (done [])
        (setBank u.shadow { u.zbank u.shadow with
          tables := tinsert (r.at 0x21 1) d (u.zbank u.shadow).tables } u))) ∧
    (Ready 0x25 w n.toNat r s → r.at 0x20 1 = 1 → s.tableTurn r = true →
      readSource (r.at 0x24 1 == 1) (r.at 0x28 8) (8 * r.at 0x26 2) src s = (.bytes d, u) →
      (programFault ((chunksOf 8 d).map leNat) = none →
        exec (.tableLoadProgram w n src) s = .next (complete w r.n (done [])
          (setBank u.shadow { u.zbank u.shadow with
            programs := tinsert (r.at 0x21 1) (((chunksOf 8 d).map leNat).map (BitVec.ofNat 64))
              (u.zbank u.shadow).programs } u))) ∧
      (∀ i, programFault ((chunksOf 8 d).map leNat) = some i →
        exec (.tableLoadProgram w n src) s = .next (complete w r.n (ans 0x0102 (0x80000000 + i)) u))) ∧
    (ReadyInTurn 0x25 w n.toNat r s → r.at 0x20 1 = 2 → (s.model (r.at 0x21 1)).state ≠ 0 →
      r.at 0x22 2 ≤ 2 * (s.model (r.at 0x21 1)).layers → s.copyHeld (r.at 0x21 1) (gainTarget (r.at 0x22 2)) = false →
      readSource (r.at 0x24 1 == 1) (r.at 0x28 8) (4 * (s.model (r.at 0x21 1)).hidden) src s = (.bytes d, u) →
      (∀ v ∈ (chunksOf 4 d).map (fun b => BitVec.ofNat 32 (leNat b)), f32Finite v = true) →
      ∃ t, exec (.tableLoadGain w n src) s = .next (complete w r.n (done []) t) ∧
        (t.model (r.at 0x21 1)).scaleSet.gains = tsets f32One (u.model (r.at 0x21 1)).scaleSet.gains
          (gainKey (r.at 0x22 2) 0) ((chunksOf 4 d).map (fun b => BitVec.ofNat 32 (leNat b))) ∧
        (∀ k, k ≠ r.at 0x21 1 → t.model k = u.model k)) ∧
    (Ready 0x26 w n.toNat r s → s.zest.swapping = none → s.earlierTaken 0x26 r = false →
      lutFault (s.zbank s.shadow) = none → s.actFault (s.zbank s.shadow) = none →
      exec (.tableSwap w n) s = .next { startRecord w r.n s with
        zest := { s.zest with current := s.shadow, swapping := some (w.val, r.n) } }) ∧
    (∀ v, s.oldestSwap = some (v, r) → s.live = true → r.started = true → s.zest.swapping = none →
      s.earlierTaken 0x25 r = false → s.recordRuns 0x26 = true → lutFault (s.zbank s.shadow) = none →
      s.actFault (s.zbank s.shadow) = none →
      exec .tableSwapProceed s = .next { startRecord v r.n s with
        zest := { s.zest with current := s.shadow, swapping := some (v, r.n) } }) ∧
    (∀ v k, s.released = true → s.zest.swapping = some (v, k) → s.bankBusy s.shadow = false →
      ∃ t, exec .tableSwapCopy s = .next (complete v k (done (natLe 1 s.zest.current)) t) ∧
        t.zbank 0 = s.zbank s.zest.current ∧ t.zbank 1 = s.zbank s.zest.current ∧ t.zest.current = s.zest.current ∧
        t.zest.swapping = none ∧ t.zest.swaps = (s.zest.swaps + 1) % 65536 ∧ t = { s with zest := t.zest })

/-- CODEC_TABLE loads the shadow bank of a slot that nothing refers to, and swaps it in. (R314, R315) LOAD of a slot with
its image read: code lengths of which one exceeds 15 answer BAD_FIELD at 0x28 with the first such index, lengths that
overfill the code answer the same with all ones; a good image while the shadow bank has references answers TABLE_BUSY
with the slot and changes nothing; otherwise the shadow bank holds the lengths with the next generation and no
references, the current bank stays, and the answer carries the generation and the bank. SWAP of a loaded shadow bank
makes it current. -/
def Obligations.CodecTables : Prop :=
  ∀ (w : Fin 16) (n : U32) (src : Src) (r : Taken) (d : List Byte) (u s : State), ReadyInTurn 0x27 w n.toNat r s →
    (r.at 0x20 1 = 0 → readSource (r.at 0x22 1 == 1) (r.at 0x28 8) 256 src s = (.bytes d, u) →
      (∀ k, codecImageFault (d.map (·.toNat)) = some k → exec (.codecTableLoad w n src) s =
        .next (complete w r.n { status := 0x0102, flags := 0, detail := 0x28, result := natLe 4 k } u)) ∧
      (codecImageFault (d.map (·.toNat)) = none →
        ((u.codecSlot (r.at 0x21 1)).bank (1 - (u.codecSlot (r.at 0x21 1)).current)).refs ≠ 0 →
        exec (.codecTableLoad w n src) s = .next (complete w r.n (ans 0x0203 (r.at 0x21 1)) u)) ∧
      (codecImageFault (d.map (·.toNat)) = none → (u.codecSlot (r.at 0x21 1)).current ≤ 1 →
        ((u.codecSlot (r.at 0x21 1)).bank (1 - (u.codecSlot (r.at 0x21 1)).current)).refs = 0 →
        ∃ t g, exec (.codecTableLoad w n src) s =
            .next (complete w r.n (done (natLe 2 g ++ natLe 1 (1 - (u.codecSlot (r.at 0x21 1)).current))) t) ∧
          g = nextGen (u.codecSlot (r.at 0x21 1)).lastGen
            ((u.codecSlot (r.at 0x21 1)).bank (u.codecSlot (r.at 0x21 1)).current).gen ∧
          (t.codecSlot (r.at 0x21 1)).bank (1 - (u.codecSlot (r.at 0x21 1)).current) =
            { lens := d.map (·.toNat), gen := g, refs := 0 } ∧
          (t.codecSlot (r.at 0x21 1)).bank (u.codecSlot (r.at 0x21 1)).current =
            (u.codecSlot (r.at 0x21 1)).bank (u.codecSlot (r.at 0x21 1)).current ∧
          t = { u with codec := t.codec })) ∧
    (r.at 0x20 1 = 1 → ((s.codecSlot (r.at 0x21 1)).bank (1 - (s.codecSlot (r.at 0x21 1)).current)).lens ≠ [] →
      ∃ t, exec (.codecTableSwap w n) s = .next (complete w r.n
          (done (natLe 2 ((s.codecSlot (r.at 0x21 1)).bank (1 - (s.codecSlot (r.at 0x21 1)).current)).gen ++
            natLe 1 (1 - (s.codecSlot (r.at 0x21 1)).current))) t) ∧
        t.codecSlot (r.at 0x21 1) = { s.codecSlot (r.at 0x21 1) with current := 1 - (s.codecSlot (r.at 0x21 1)).current } ∧
        t = { s with codec := t.codec })

/-- Sequence records open, append to, trim, cancel and close a sequence. (R242, R244, R251, R254, R255, R256, R257, R460)
SEQ_OPEN of a FREE entry with its checks passed makes it READY and empty under its tenant, model, variant and
customer. SEQ_APPEND of tokens below VOCAB, in its record or read from its source, with pages enough queues one append
and the entry reads FILLING. FILL_BEGIN of an append that waits for nothing clears STOPPED and fixes the rows;
FILL_COMPLETE of a fill whose rows are done advances LEN by them, makes the last token pending and leaves the appends
behind it as they were, but for the pages that they reserve. On a module that follows no stem, while a step is in the
module, SEQ_CANCEL and SEQ_CLOSE of a READY sequence, and SEQ_TRIM within its length and vocabulary, put their effect
down for its boundary; without any step and other effect it falls at once, at a rest boundary: a cancel and a close
free the entry, a trim sets its LEN and its pending token. Other sequences stay as they were. -/
def Obligations.SequencesOpenFillAndEnd : Prop :=
  ∀ (w : Fin 16) (n : U32) (src : Src) (r : Taken) (s : State),
    (ReadyInTurn 0x30 w n.toNat r s → firstFail (openChecks r s) = none →
      ∃ u, exec (.seqOpen w n) s = .next (complete w r.n (done []) u) ∧
        u.seq (r.at 0x20 2) = { SeqEntry.free with
          state := 1, tenant := r.tenant, model := r.at 0x22 1, outWindow := r.at 0x23 1, variant := r.at 0x24 2,
          customer := r.at 0x26 2, maxLen := r.at 0x28 4, gen := (s.seq (r.at 0x20 2)).gen } ∧
        (∀ k, k ≠ r.at 0x20 2 → u.seq k = s.seq k) ∧ u = { s with seqs := u.seqs, codec := u.codec }) ∧
    (ReadyInTurn 0x31 w n.toNat r s → ((s.seq (r.at 0x20 2)).state = 1 ∨ (s.seq (r.at 0x20 2)).state = 2) →
      ∀ toks v, (r.at 0x22 1 = 0 ∧ toks = (List.range (r.at 0x24 4)).map (fun i => r.at (0x30 + 4 * i) 4) ∧ v = s) ∨
        (r.at 0x22 1 ≠ 0 ∧ ∃ d x, readSource (r.at 0x22 1 == 1) (r.at 0x28 8) (4 * r.at 0x24 4) src s = (.bytes d, x) ∧
          toks = wordsOf 4 d ∧ v = forwardWith r d x) →
      (∀ x ∈ toks, x < (v.modelOf (r.at 0x20 2)).vocab) →
      (v.appendPlaces (r.at 0x20 2) toks.length).length + 1 ≤ v.freePages →
      ∃ u a, exec (.seqAppend w n src) s = .next (startRecord w r.n u) ∧ (u.seq (r.at 0x20 2)).state = 2 ∧
        (u.seq (r.at 0x20 2)).appends = (v.seq (r.at 0x20 2)).appends ++ [a] ∧ a.tokens = toks ∧ a.begun = false ∧
        a.w = w.val ∧ a.n = r.n ∧ (u.seq (r.at 0x20 2)).len = (v.seq (r.at 0x20 2)).len) ∧
    (∀ (q : Fin 4096) (a : Append) (rest : List Append), s.released = true → (s.seq q).appends = a :: rest →
      (a.begun = false → (s.seq q).state = 2 → s.seqs.steps.any (fun p => a.waits.contains p.id) = false →
        s.seqs.effects = [] → (s.seq q).len + (fillRows (s.seq q) a.tokens).length ≤ (s.seq q).maxLen →
        fillRows (s.seq q) a.tokens ≠ [] →
        ∃ t b, exec (.fillBegin q) s = .next t ∧ (t.seq q).appends = b :: rest ∧ b.begun = true ∧
          b.rows = fillRows (s.seq q) a.tokens ∧ (t.seq q).stopped = false ∧ (t.seq q).newCnt = 0 ∧
          (t.seq q).len = (s.seq q).len) ∧
      (a.begun = true → a.rows.length ≤ a.done →
        ∃ t, exec (.fillComplete q) s = .next t ∧ (t.seq q).len = a.len0 + a.rows.length ∧
          (t.seq q).pending = a.tokens.getLast? ∧
          (t.seq q).appends.map (fun x => { x with reserved := [] }) = rest.map (fun x => { x with reserved := [] }) ∧
          (rest = [] → (s.seq q).state = 2 → (t.seq q).state = 1))) ∧
    (s.follows = false → s.seqs.steps ≠ [] →
      (ReadyInTurn 0x33 w n.toNat r s → (s.seq (r.at 0x20 2)).state = 1 →
        ∃ t, exec (.seqCancel w n) s = .next t ∧ (t.seq (r.at 0x20 2)).state = 5 ∧
          t.seqs.effects = s.seqs.effects ++
            [{ w := w.val, n := r.n, reply := true, at_ := s.effectAt r, eff := .cancel (r.at 0x20 2) }] ∧
          (∀ k, k ≠ r.at 0x20 2 → t.seq k = s.seq k)) ∧
      (ReadyInTurn 0x36 w n.toNat r s → (s.seq (r.at 0x20 2)).state = 1 → r.at 0x24 4 ≤ (s.seq (r.at 0x20 2)).len →
        r.at 0x28 4 < (s.modelOf (r.at 0x20 2)).vocab →
        ∃ t, exec (.seqTrim w n) s = .next t ∧ (∀ k, t.seq k = s.seq k) ∧ t.seqs.effects = s.seqs.effects ++
            [{ w := w.val, n := r.n, reply := true, at_ := s.effectAt r,
               eff := .trim (r.at 0x20 2) (r.at 0x24 4) (r.at 0x28 4) }]) ∧
      (ReadyInTurn 0x39 w n.toNat r s → (s.seq (r.at 0x20 2)).state = 1 →
        ∃ t, exec (.seqClose w n) s = .next t ∧ (t.seq (r.at 0x20 2)).state = 6 ∧
          t.seqs.effects = s.seqs.effects ++
            [{ w := w.val, n := r.n, reply := true, at_ := ((s.stepsNaming (r.at 0x20 2)).getLast?).map (·.id),
               eff := .close (r.at 0x20 2) }] ∧
          (∀ k, k ≠ r.at 0x20 2 → t.seq k = s.seq k))) ∧
    (s.follows = false → s.seqs.steps = [] → s.seqs.effects = [] → (s.seq (r.at 0x20 2)).state = 1 →
      (ReadyInTurn 0x33 w n.toNat r s → ∃ t, exec (.seqCancel w n) s = .next t ∧
        t.seq (r.at 0x20 2) = { SeqEntry.free with gen := (s.seq (r.at 0x20 2)).gen + 1 } ∧ t.seqs.effects = [] ∧
        t.seqs.boundaryCnt = (s.seqs.boundaryCnt + 1) % 2 ^ 64) ∧
      (ReadyInTurn 0x36 w n.toNat r s → r.at 0x24 4 ≤ (s.seq (r.at 0x20 2)).len →
        r.at 0x28 4 < (s.modelOf (r.at 0x20 2)).vocab → ∃ t, exec (.seqTrim w n) s = .next t ∧
        (t.seq (r.at 0x20 2)).len = r.at 0x24 4 ∧ (t.seq (r.at 0x20 2)).pending = some (r.at 0x28 4) ∧ t.seqs.effects = [] ∧
        t.seqs.boundaryCnt = (s.seqs.boundaryCnt + 1) % 2 ^ 64) ∧
      (ReadyInTurn 0x39 w n.toNat r s → ∃ t, exec (.seqClose w n) s = .next t ∧
        t.seq (r.at 0x20 2) = { SeqEntry.free with gen := (s.seq (r.at 0x20 2)).gen + 1 } ∧ t.seqs.effects = [] ∧
        t.seqs.boundaryCnt = (s.seqs.boundaryCnt + 1) % 2 ^ 64))

/-- A sequence is parked, its image coded and made durable, and resumed, dropped or expired. (R262, R263, R311, R313,
R325, R326, R327, R328) Alone or in a group. SEQ_PARK of a READY sequence with a port that admits it makes a park
under the next handle and the entry reads PARKING. PARK_IMAGE_WRITE of a park whose boundary has passed and whose
image reads queues its streams, one per MiB and the state stream. CODEC_STREAM_ENCODE adds the coded block of the
stream at the head of its queue; CODEC_STREAM_DECODE of a good block gives its bytes to the resume that waits for
them, and of a bad one ends that resume. PARK_DURABLE makes the park live with a deadline TTL seconds away. SEQ_RESUME
of a live park opens a FREE entry in RESUMING with the length that was saved; RESUME_COMPLETE with every stream read
makes it READY and the park is gone. SEQ_RESUME DROP of a live park answers DONE and the park is gone.
PARK_EXPIRY_SCAN, 100 ms after the last one, ends every park whose deadline is past and that no resume wants, and with
no park only notes its time. -/
def Obligations.ParksAndResumes : Prop :=
  ∀ (w : Fin 16) (n : U32) (r : Taken) (q : Fin 4096) (c : Fin 8) (errs : List SymErr) (s : State),
    (ReadyInTurn 0x34 w n.toNat r s → s.workStarts = true → (s.seq (r.at 0x20 2)).state = 1 →
      (s.seqs.steps ≠ [] ∨ s.seqs.effects = []) →
      ∀ p, s.choosePort (r.at 0x22 1) (parkMax ((s.modelOf (r.at 0x20 2)).kvImage ((s.seq (r.at 0x20 2)).len +
        ((s.stepsNaming (r.at 0x20 2)).filter (fun x => x.state == 2)).length))) = some p →
      ∃ t k, exec (.seqPark w n) s = .next t ∧ t.pun.parks = s.pun.parks ++ [k] ∧ k.handle = s.pun.nextHandle ∧ k.port = p ∧
        k.q = r.at 0x20 2 ∧ k.state = 0 ∧ (t.seq (r.at 0x20 2)).state = 3 ∧ t.mem.cells = s.mem.cells) ∧
    (∀ k o u, s.released = true → s.pun.parks.find? (fun k => k.q == q.val && s.parkDue k) = some k →
      s.park k.handle = some k → readImage q (addErrs errs s) = (o, u) → o.bad = none →
      ∃ t x, exec (.parkImageWrite q errs) s = .next t ∧ t.park k.handle = some x ∧ x.state = 1 ∧
        x.streams = (o.bytes.length + 1048575) / 1048576 + 1 ∧ t.mem = u.mem) ∧
    (∀ v vs k, s.released = true → s.unitUp 5 c = true → s.codecQueue c = v :: vs → v.encode = true →
      s.park v.handle = some k →
      ∃ t x b, exec (.codecStreamEncode c) s = .next t ∧ t.park v.handle = some x ∧ b ∈ x.blocks ∧ b.idx = v.idx ∧
        b.bytes = (s.encodeBlock (s.parkKey k.tenant) v).1 ∧ b.raw = (s.encodeBlock (s.parkKey k.tenant) v).2 ∧
        t.codecQueue c = vs) ∧
    (∀ v vs x k, s.released = true → s.unitUp 5 c = true → s.codecQueue c = v :: vs → v.encode = false →
      s.pun.resumes.find? (fun y => y.handle == v.handle) = some x → s.park v.handle = some k →
      match s.decodeBlock (s.parkKey k.tenant) v.src with
      | .ok d => ∃ t y, exec (.codecStreamDecode c) s = .next t ∧ t.codecQueue c = vs ∧ y ∈ t.pun.resumes ∧ y.handle = v.handle ∧
          y.got = x.got ++ [(v.idx, d)]
      | .error _ => ∃ t, exec (.codecStreamDecode c) s = .next t ∧ ∀ y ∈ t.pun.resumes, y.handle ≠ v.handle) ∧
    (∀ k, s.released = true → s.pun.parks.find? (fun k => k.q == q.val && k.state == 3) = some k → s.park k.handle = some k →
      (s.seqs.steps ≠ [] ∨ s.seqs.effects = []) →
      ∃ t x, exec (.parkDurable q) s = .next t ∧ t.park k.handle = some x ∧ x.state = 4 ∧
        x.deadline = s.now + k.ttl * 100000000) ∧
    (∀ k, ReadyInTurn 0x35 w n.toNat r s → s.workStarts = true → r.at 0x20 1 = 0 → s.beingRead (r.at 0x28 8) = false →
      s.park (r.at 0x28 8) = some k → k.state = 4 → r.at_ < k.deadline → (s.seq (r.at 0x22 2)).state = 0 →
      s.keyRoom r.tenant = true → s.resumePages (r.at 0x22 2) k.saved ≤ s.freePages →
      ∃ t, exec (.seqResumeResume w n) s = .next t ∧ (t.seq (r.at 0x22 2)).state = 4 ∧
        (t.seq (r.at 0x22 2)).len = k.saved.len ∧ (t.seq (r.at 0x22 2)).tenant = r.tenant ∧
        t.beingRead (r.at 0x28 8) = true) ∧
    (∀ x k, s.released = true → s.pun.resumes.find? (fun y => y.q == q.val) = some x → s.park x.handle = some k →
      k.streams ≤ x.got.length →
      ∃ t, exec (.resumeComplete q) s = .next t ∧ (t.seq q).state = 1 ∧ (t.seq q).len = (s.seq q).len ∧
        t.park x.handle = none ∧ t.beingRead x.handle = false) ∧
    (∀ k, ReadyInTurn 0x35 w n.toNat r s → r.at 0x20 1 = 1 → s.beingRead (r.at 0x28 8) = false →
      s.park (r.at 0x28 8) = some k → k.state = 4 → r.at_ < k.deadline →
      ∃ u, exec (.seqResumeDrop w n) s = .next (complete w r.n (done []) u) ∧ u.park (r.at 0x28 8) = none) ∧
    (s.released = true → s.pun.parks = [] → ∃ t, exec .parkExpiryScan s = .next t ∧ t.pun = { s.pun with lastScan := t.now } ∧
      t.mem = s.mem ∧ t.seqs = s.seqs) ∧
    (s.released = true → ∃ t, exec .parkExpiryScan s = .next t ∧
      (s.ctl.running = true → t.now = max s.now (s.pun.lastScan + 10000000)) ∧
      ∀ k ∈ s.pun.parks, k.state = 4 → k.deadline ≤ t.now → s.parkWanted k.handle = false → t.park k.handle = none)

/-- Prefixes are found, pinned and unpinned; sampler, stop, mask and budget settings are put down or take effect. (R260,
R261, R275, R276, R278, R281, R283) Alone or in a group. PREFIX_FIND that only asks answers the length of the longest
match; one that attaches gives a fresh sequence that many positions, cut to its MAX_LEN (DESIGN CHOICE, log entry 54).
PREFIX_PIN PIN with room for its nodes pins the path's last node once more; UNPIN of a path without a pin answers
BAD_STATE 0x1C. On a module that follows no stem, while a step is in the module, SAMPLER_SET, STOP_SET and both
BUDGET_SET forms put their settings down for the boundary; without any step and other effect the settings apply at
once, at a rest boundary. MASK_LOAD LOAD stores the image in its slot; FREE of a slot that nothing names empties it.
BUDGET_WINDOW_END brings the counter to the end of the present budget window. -/
def Obligations.PrefixesAndSettings : Prop :=
  ∀ (w : Fin 16) (n : U32) (src : Src) (r : Taken) (d : List Byte) (u s : State),
    (ReadyInTurn 0x37 w n.toNat r s → (s.seq (r.at 0x20 2)).state = 1 → r.at 0x23 1 = 0 →
      readSource (r.at 0x22 1 == 1) (r.at 0x28 8) (4 * r.at 0x24 4) src s = (.bytes d, u) →
      ∃ m k, exec (.prefixFind w n src) s = .next (complete w r.n (done (natLe 4 m ++ natLe 4 0 ++ natLe 1 k)) (forwardWith r d u)) ∧
        m = max (u.brambleMatch (u.seq (r.at 0x20 2)).model (u.seq (r.at 0x20 2)).variant (some r.tenant) (wordsOf 4 d)
            (((wordsOf 4 d).length - 1) / 16 * 16))
          (u.brambleMatch (u.seq (r.at 0x20 2)).model (u.seq (r.at 0x20 2)).variant none (wordsOf 4 d)
            (((wordsOf 4 d).length - 1) / 16 * 16)) ∧ (m = 0 → k = 0xFF)) ∧
    (ReadyInTurn 0x37 w n.toNat r s → (s.seq (r.at 0x20 2)).fresh = true → r.at 0x23 1 ≠ 0 →
      readSource (r.at 0x22 1 == 1) (r.at 0x28 8) (4 * r.at 0x24 4) src s = (.bytes d, u) →
      ∀ m x, m = max (u.brambleMatch (u.seq (r.at 0x20 2)).model (u.seq (r.at 0x20 2)).variant (some r.tenant) (wordsOf 4 d)
            (min ((wordsOf 4 d).length - 1) (u.seq (r.at 0x20 2)).maxLen / 16 * 16))
          (u.brambleMatch (u.seq (r.at 0x20 2)).model (u.seq (r.at 0x20 2)).variant none (wordsOf 4 d)
            (min ((wordsOf 4 d).length - 1) (u.seq (r.at 0x20 2)).maxLen / 16 * 16)) → m ≠ 0 →
        takeListPage (r.at 0x20 2) (forwardWith r d u) = some x →
        ∃ t a, exec (.prefixFind w n src) s = .next (complete w r.n a t) ∧ a.status = 0 ∧ (t.seq (r.at 0x20 2)).len = m ∧
          (∀ p ∈ (t.seq (r.at 0x20 2)).pages, p.shared = true)) ∧
    (ReadyInTurn 0x38 w n.toNat r s → r.at 0x20 1 = 0 → (s.seq (r.at 0x22 2)).state = 1 →
      r.at 0x24 4 ≤ (s.seq (r.at 0x22 2)).len → readSource true (r.at 0x28 8) (4 * r.at 0x24 4) src s = (.bytes d, u) →
      u.seqs.bramble.length + (wordsOf 4 d).length / 16 ≤ 262144 →
      ∃ t, exec (.prefixPinPin w n src) s = .next (complete w r.n (done []) t) ∧
        t.seqs.bramble.length = u.seqs.bramble.length + (u.missingNodes (u.seq (r.at 0x22 2)).model
          (u.seq (r.at 0x22 2)).variant (pinScope r) (wordsOf 4 d)).length ∧ t.mem = u.mem) ∧
    (ReadyInTurn 0x38 w n.toNat r s → r.at 0x20 1 = 1 → readSource true (r.at 0x28 8) (4 * r.at 0x24 4) src s = (.bytes d, u) →
      (u.seqs.bramble.any (fun b => b.under (r.at 0x30 1) (r.at 0x32 2) (pinScope r) && b.path == wordsOf 4 d && b.pins != 0) = true →
        ∃ t, exec (.prefixPinUnpin w n src) s = .next (complete w r.n (done []) t) ∧
          t.seqs.bramble.length ≤ u.seqs.bramble.length) ∧
      (u.seqs.bramble.any (fun b => b.under (r.at 0x30 1) (r.at 0x32 2) (pinScope r) && b.path == wordsOf 4 d && b.pins != 0) = false →
        exec (.prefixPinUnpin w n src) s = .next (complete w r.n (ans 0x0103 0x1C) (forwardWith r d u)))) ∧
    (s.follows = false → s.seqs.steps ≠ [] →
      (ReadyInTurn 0x41 w n.toNat r s → (s.seq (r.at 0x20 2)).state = 1 → r.shown = [] →
        ∃ t, exec (.samplerSet w n) s = .next t ∧ (∀ k, t.seq k = s.seq k) ∧ t.seqs.effects = s.seqs.effects ++
          [{ w := w.val, n := r.n, reply := true, at_ := s.effectAt r, eff := .sampler (r.at 0x20 2) (samplerOf r) }]) ∧
      (ReadyInTurn 0x42 w n.toNat r s → (s.seq (r.at 0x20 2)).state = 1 → r.at 0x22 1 = 0 →
        (∀ i, i < 16 → r.at (0x28 + 4 * i) 4 = 0xFFFFFFFF ∨ r.at (0x28 + 4 * i) 4 < (s.modelOf (r.at 0x20 2)).vocab) →
        ∃ t, exec (.stopSet w n src) s = .next t ∧ (∀ k, t.seq k = s.seq k) ∧ t.seqs.effects = s.seqs.effects ++
          [{ w := w.val, n := r.n, reply := true, at_ := s.effectAt r, eff := .stops (r.at 0x20 2) (stopsOf r []) }]) ∧
      (ReadyInTurn 0x42 w n.toNat r s → (s.seq (r.at 0x20 2)).state = 1 → r.at 0x22 1 ≠ 0 →
        readSource (r.at 0x23 1 == 1) (r.at 0x68 8) (36 * r.at 0x22 1) src s = (.bytes d, u) →
        stopTableFault d (r.at 0x22 1) none = none → stopTableFault d (r.at 0x22 1) (some (s.modelOf (r.at 0x20 2)).vocab) = none →
        (∀ i, i < 16 → r.at (0x28 + 4 * i) 4 = 0xFFFFFFFF ∨ r.at (0x28 + 4 * i) 4 < (s.modelOf (r.at 0x20 2)).vocab) →
        ∃ t, exec (.stopSet w n src) s = .next t ∧ (∀ k, t.seq k = s.seq k) ∧ t.seqs.effects = s.seqs.effects ++
          [{ w := w.val, n := r.n, reply := true, at_ := s.effectAt r, eff := .stops (r.at 0x20 2) (stopsOf r d) }]) ∧
      (ReadyInTurn 0x40 w n.toNat r s → r.at 0x20 1 = 0 →
        ∃ t, exec (.budgetSetSet w n) s = .next t ∧ t.seqs.customers = s.seqs.customers ∧ t.seqs.effects = s.seqs.effects ++
          [{ w := w.val, n := r.n, reply := true, at_ := none, eff := .budgetSet (r.at 0x22 2) (r.at 0x24 2) (r.at 0x28 4) }]) ∧
      (ReadyInTurn 0x40 w n.toNat r s → r.at 0x20 1 = 1 →
        ∃ t, exec (.budgetSetWindow w n) s = .next t ∧ t.seqs.customers = s.seqs.customers ∧ t.seqs.effects = s.seqs.effects ++
          [{ w := w.val, n := r.n, reply := true, at_ := none,
             eff := .budgetWindow (r.at 0x21 1 == 1) (r.at 0x2C 4) (r.at 0x30 8) }])) ∧
    (s.follows = false → s.seqs.steps = [] → s.seqs.effects = [] →
      (ReadyInTurn 0x41 w n.toNat r s → (s.seq (r.at 0x20 2)).state = 1 → r.shown = [] →
        ∃ t, exec (.samplerSet w n) s = .next t ∧ (t.seq (r.at 0x20 2)).sampler = samplerOf r ∧ t.seqs.effects = []) ∧
      (ReadyInTurn 0x42 w n.toNat r s → (s.seq (r.at 0x20 2)).state = 1 → r.at 0x22 1 = 0 →
        (∀ i, i < 16 → r.at (0x28 + 4 * i) 4 = 0xFFFFFFFF ∨ r.at (0x28 + 4 * i) 4 < (s.modelOf (r.at 0x20 2)).vocab) →
        ∃ t, exec (.stopSet w n src) s = .next t ∧ (t.seq (r.at 0x20 2)).stops = stopsOf r [] ∧
          (t.seq (r.at 0x20 2)).newCnt = 0 ∧ t.seqs.effects = []) ∧
      (ReadyInTurn 0x40 w n.toNat r s → r.at 0x20 1 = 0 → ∃ t, exec (.budgetSetSet w n) s = .next t ∧
        (∀ c, r.at 0x22 2 ≤ c → c < r.at 0x22 2 + r.at 0x24 2 → (t.customer c).budget = r.at 0x28 4) ∧ t.seqs.effects = []) ∧
      (ReadyInTurn 0x40 w n.toNat r s → r.at 0x20 1 = 1 → ∃ t, exec (.budgetSetWindow w n) s = .next t ∧
        t.seqs.budgetEn = (r.at 0x21 1 == 1) ∧ t.seqs.windowMs = r.at 0x2C 4 ∧ t.seqs.origin = r.at 0x30 8 ∧
        t.seqs.effects = [])) ∧
    (ReadyInTurn 0x43 w n.toNat r s → r.at 0x20 1 = 0 → s.maskBusy (r.at 0x22 2) = false →
      readSource (r.at 0x21 1 == 1) (r.at 0x28 8) (ceilDiv (r.at 0x24 4) 8) src s = (.bytes d, u) →
      ∃ t, exec (.maskLoadLoad w n src) s = .next (complete w r.n (done []) t) ∧ (t.mask (r.at 0x22 2)).image = d ∧
        (t.mask (r.at 0x22 2)).nbits = r.at 0x24 4 ∧
        (t.mask (r.at 0x22 2)).owner = some ((u.mask (r.at 0x22 2)).owner.getD r.tenant) ∧
        (∀ k, k ≠ r.at 0x22 2 → t.mask k = u.mask k)) ∧
    (ReadyInTurn 0x43 w n.toNat r s → r.at 0x20 1 = 1 → s.maskNamed (r.at 0x22 2) = false →
      ∃ t, exec (.maskLoadFree w n) s = .next (complete w r.n (done []) t) ∧ t.mask (r.at 0x22 2) = MaskSlot.free ∧
        (∀ k, k ≠ r.at 0x22 2 → t.mask k = s.mask k)) ∧
    (s.released = true → s.ctl.running = true → ∃ t, exec .budgetWindowEnd s = .next t ∧
      t.now = max s.now ((s.seqs.origin : Int) + (s.budgetWindow s.now + 1) * (s.seqs.windowMs * 100000 : Nat)).toNat ∧
      t.seqs = s.seqs ∧ t.mem = s.mem)

/-- A STEP is queued; STEP_HEADING and STEP_FORM carry it to FORMED, with the outcome of every sequence. (R38, R40, R286,
R288, R289, R290, R291, R354) A STEP record whose checks pass, with its output entries reserved since its taking or,
where its sequences were opened anew, free now, puts one QUEUED step behind the others: its group, model and list of
sequences are those of the record. STEP_HEADING makes a QUEUED step that may head HEADING, and STEP_FORM makes a
HEADING step that may form, with a model that is not suspect, FORMED, with the slots that R291 leaves, the batch of
those that run and the settings captured; the stem of a group then sends it to the members of its replica (R354);
otherwise neither changes anything. At formation a sequence that was reopened or closed, is CANCELLING, PARKING or
faulted, stopped or without a pending token, over its budget, at MAX_LEN or beyond, or without a page, is left out
with outcome 9, 3, 4, 8, 2, 5, 7 or 6, the first that holds in this order. -/
def Obligations.StepsAreQueuedHeadedAndFormed : Prop :=
  ∀ (w : Fin 16) (n : U32) (r : Taken) (id : Nat) (s : State),
    (ReadyInTurn 0x32 w n.toNat r s → s.stepFault w r = none → r.shown = [] →
      (r.reserved = s.stepReserve r.list ∨
        (s.stepOutFault r.list = [] ∧ (releaseOutput r.reserved s).stepOutRoom r.list = true)) →
      ∃ t p, exec (.step w n) s = .next t ∧ t.seqs.steps = s.seqs.steps ++ [p] ∧ p.state = 0 ∧ p.id = r.order ∧ p.w = w.val ∧
        p.n = r.n ∧ p.group = r.at 0x20 2 ∧ p.model = r.at 0x22 1 ∧ p.dest = r.at 0x30 8 ∧ p.slots.map (·.q) = r.list ∧
        t.mem = s.mem ∧ (∀ q, t.seq q = s.seq q)) ∧
    (∀ p, s.step id = some p →
      (s.workStarts = true → s.mayHead p = true →
        exec (.stepHeading id) s = .next (modStep id (fun p => { p with state := 1 }) s)) ∧
      ((s.workStarts && s.mayHead p) = false → exec (.stepHeading id) s = .next s) ∧
      (s.workStarts = true → s.mayForm p = true → bit s.mem.suspect p.model = false →
        ∀ slots u live cap v, p.slots.foldl formSlot ([], s) = (slots, u) → live = slots.filter (fun x => x.outcome == 13) →
        live ≠ [] → cap = u.capture p.model (live.filterMap (fun x => x.sampler.mask)) →
        v = modStep id (fun _ => { p with state := 2, slots := slots, batch := live.length, cap := cap }) u →
        exec (.stepForm id) s = .next (if s.vine.state = 3 then
            planReplica id p.model false ((slots.zipIdx.filter (fun x => x.1.outcome == 13)).map (fun x => (x.2, x.1.q))) cap v
          else v) ∧
        slots.map (·.q) = p.slots.map (·.q)) ∧
      ((s.workStarts && s.mayForm p) = false → exec (.stepForm id) s = .next s)) ∧
    (∀ (x : StepSlot) (e : SeqEntry), e = s.seq x.q → ∀ o, ((formSlot ([], s) x).1 = [{ x with outcome := o }] ∧ o ≠ 13) →
      o = (if e.gen ≠ x.gen ∨ e.state = 0 then 9 else if e.state = 5 then 3 else if e.state = 3 then 4
        else if e.faulted = true then 8 else if e.stopped = true ∨ e.pending = none then 2
        else if s.exhausted e.customer s.now = true then 5 else if e.maxLen ≤ e.len then 7 else 6))

/-- A FORMED step runs layer by layer; its boundary commits one token a sequence, or nothing after a fault. (R26, R32,
R34, R36, R37, R142, R177, R233, R250, R273, R354, R371) On a released module. STEP_LAYER of a FORMED step of a module
that stands alone, whose engines have their phase and no weight or KV of whose layer lies behind a closed bank pair,
runs the next layer over the sequences that the step holds: the step stands one layer further with what the layer left
in their slots; a layer that ends in a skew gives the step that fault and no layer. STEP_LAYER of a member's share of
a step likewise runs the share's next layer. A layer that meets an uncorrectable word of Orchard SRAM, of a lane bank
or of a Zest bank gives the step ECC_UNCORRECTED with the layer index, an entry of the error log, and for a lane bank
or a Zest bank PRS_FAULT_LOG or ZST_FAULT (log entry 44 for the moment within the layer); memory stands as before the
layer. STEP_BOUNDARY of a step past the head, or in a group of one whose tokens have come, with no other effect due
and every sequence as the step holds it, advances the LEN of each sequence that runs by one, makes the committed token
pending, counts it, leaves every other sequence as it was, takes the step away and counts one boundary. STEP_BOUNDARY
of a step with a fault leaves every sequence as it was, takes the step away and counts the boundary. A step that is
not FORMED has neither. -/
def Obligations.StepsRunTheirLayersToABoundary : Prop :=
  ∀ (id : Nat) (errs : List SymErr) (own : OwnReads) (p : Step) (s : State), s.released = true →
    (∀ (h : Share) (s0 u : State) es wide, s0 = noteCorrected own.corrected (addErrs errs s) → s.share id = some h →
      h.planned = true → h.fin = false → h.input ≠ none → h.hold = none → h.chunk = false →
      s.enginesReady h.cap h.slots.length = true → s.layerOpen h.model h.cap h.layer h.slots.length = true → own.bad = none →
      runSlots (s0.shareIn h) h.slots s0 = (.ok (es, wide), u) → h.layer + 1 ≠ s.shareEnd h →
      ∃ t x, exec (.stepLayer id errs own) s = .next t ∧ t.share id = some x ∧ x.layer = h.layer + 1 ∧ x.slots = es ∧
        x.wide = h.wide + b2n wide ∧ x.fin = false) ∧
    (s.step id = some p →
    (∀ s0 : State, s0 = noteCorrected own.corrected (addErrs errs s) → s.inCascade = false →
      s.share id = none → p.state = 2 → p.fault = none → p.hold = none → p.layer ≤ (s.model p.model).layers →
      s.enginesReady p.cap p.batch = true → s.layerOpen p.model p.cap p.layer p.batch = true →
      (∀ es wide u, own.bad = none → runSlots (s0.layerIn p.model p.cap p.layer p.batch false)
          (p.slots.filter (fun x => x.outcome == 13)) s0 = (.ok (es, wide), u) →
        exec (.stepLayer id errs own) s = .next (modStep id (fun p => { p with
          started := true, slots := p.slots.map (fun x => (es.find? (fun e => e.q == x.q)).getD x), layer := p.layer + 1,
          wideLayers := p.wideLayers + b2n wide }) (pipLayerDone (s0.layerIn p.model p.cap p.layer p.batch false) u))) ∧
      (∀ l wide u, own.bad = none → runSlots (s0.layerIn p.model p.cap p.layer p.batch false)
          (p.slots.filter (fun x => x.outcome == 13)) s0 = (.error (.skew, l, wide), u) →
        exec (.stepLayer id errs own) s = .next (faultStep id 0x0302 l
          (modStep id (fun p => { p with wideLayers := p.wideLayers + b2n wide }) u))) ∧
      (∀ f, own.bad = some f → (∀ e tile g, f = .lane e tile g → (s.pressEngine e.val).queue = []) →
        ∃ t, exec (.stepLayer id errs own) s = .next t ∧ t.step id = some { p with fault := some (0x0303, p.layer), hold := none } ∧
          t.mem = s0.mem ∧ t.seqs.entries = s.seqs.entries ∧
          (tget ErrEntry.none t.log.ring ((t.log.tail + 1023) % 1024)).code =
            (match f with | .sram _ _ => 0x12 | .lane _ _ _ => 0x15 | .bank _ _ _ => 0x16) ∧
          (∀ e tile g, f = .lane e tile g → t.press.faultKind = 1 ∧ t.press.faultLayer = p.layer % 256 ∧
            t.press.faultEngine = e.val ∧ t.press.faultTile = tile.val ∧ t.press.faultGroup = g.val ∧
            t.press.faultCount = satAdd 8 s.press.faultCount 1) ∧
          (∀ i prog slot, f = .bank i prog slot → t.zest.faultSection = i.val ∧ t.zest.faultBank = s.zest.current ∧
            t.zest.faultKind = b2n prog ∧ t.zest.faultSlot = slot.val ∧ t.zest.faultCount = satAdd 8 s.zest.faultCount 1))) ∧
    (p.state = 2 → s.seqs.effects = [] →
      (p.fault = none → p.hold = none → ∀ picks,
        (p.toks = none ∧ s.inCascade = false ∧ (s.model p.model).layers < p.layer ∧ s.kindsUp [4] = true ∧
            picks = s.picks p.model p.cap p.slots) ∨ (∃ toks, p.toks = some toks ∧ picks = reportedPicks p toks) →
        (p.slots.map (·.q)).Nodup → (∀ x ∈ p.slots, x.outcome = 13 → (s.seq x.q).gen = x.gen) →
        ∃ t, exec (.stepBoundary id) s = .next t ∧
          (∀ (i : Nat) (x : StepSlot), p.slots[i]? = some x → x.outcome = 13 →
            (t.seq x.q).len = (s.seq x.q).len + 1 ∧ (t.seq x.q).newCnt = ((s.seq x.q).newCnt + 1) % 2 ^ 32 ∧
            (t.seq x.q).pending = ((picks[i]?).bind (·.token)) ∧
            (t.seq x.q).sampler.drawCtr = ((s.seq x.q).sampler.drawCtr + 1) % 2 ^ 32 ∧
            (t.seq x.q).pages = (s.seq x.q).pages) ∧
          (∀ k, (∀ x ∈ p.slots, x.outcome = 13 → x.q ≠ k) → t.seq k = s.seq k) ∧
          t.seqs.steps = s.seqs.steps.filter (fun x => x.id != id) ∧
          t.seqs.boundaryCnt = (s.seqs.boundaryCnt + 1) % 2 ^ 64) ∧
      (∀ f, p.fault = some f →
        ∃ t, exec (.stepBoundary id) s = .next t ∧ (∀ k, t.seq k = s.seq k) ∧
          t.seqs.steps = s.seqs.steps.filter (fun x => x.id != id) ∧
          t.seqs.boundaryCnt = (s.seqs.boundaryCnt + 1) % 2 ^ 64)) ∧
    (p.state ≠ 2 → exec (.stepBoundary id) s = .next s ∧ (s.share id = none → exec (.stepLayer id errs own) s = .next s)))

/-- Prompt chunks start and end, holds for a quarantined block end at REPAIR_MS, and mirrors repair blocks. (R142, R194,
R371, R373, R375, R462) On a released module. CHUNK_START, at the stem in a group, with queued rows, a Press engine in
PROMPT and a model that is not suspect adds one chunk of at most 256 rows, the first queued (in a group those of one
replica), and each fill has given those rows. CHUNK_COMPLETE of a chunk of a module that stands alone, whose layers
all run, takes it away and counts its rows for their fills; one that meets an uncorrectable word of the module's own
memories puts the chunk back to layer 0 with its rows, fails no fill and logs the word (that the chunk runs again as a
whole is the model's choice, log entry 44). REPAIR_DEADLINE of a step that is held for a block brings the counter to
the block's deadline at least and ends the step in a null boundary. MIRROR_REPAIR of a quarantined mirrored block
whose mirror reads clean frees the block's entry of the quarantine table; one whose mirror fails makes the entry
UNMIRRORED. -/
def Obligations.ChunksRunAndFaultsAreRepaired : Prop :=
  ∀ (m : Fin 16) (id block : Nat) (errs : List SymErr) (own : OwnReads) (s : State), s.released = true →
    (∀ queue, queue = (if s.inCascade then (s.promptQueue m).filter (fun x => x.1 % s.shapeR ==
        (((s.promptQueue m).head?).map (fun x => x.1 % s.shapeR)).getD 0) else s.promptQueue m) →
      (s.inCascade = false ∨ s.vine.state = 3) → s.workStarts = true → s.pressIn 1 = true → bit s.mem.suspect m = false →
      chunkRows 256 queue ≠ [] →
      ∃ t c, exec (.chunkStart m) s = .next t ∧ t.seqs.chunks = s.seqs.chunks ++ [c] ∧ c.id = s.seqs.nextId ∧ c.model = m.val ∧
        c.rows.length = (chunkRows 256 queue).length ∧ c.rows.length ≤ 256 ∧ c.layer = 0 ∧ c.hold = none ∧
        c.rows.map (·.q) = (chunkRows 256 queue).map (·.1) ∧ t.mem = s.mem ∧
        (∀ q, (∀ x ∈ chunkRows 256 queue, x.1 ≠ q) → t.seq q = s.seq q)) ∧
    (∀ c : Chunk, s.seqs.chunks.find? (fun c => c.id == id) = some c → s.share id = none → s.inCascade = false →
      (∀ x ∈ s.seqs.chunks, x.id < id → ∀ a ∈ x.rows, ∀ b ∈ c.rows, a.q ≠ b.q) → s.pressIn 1 = true →
      s.kindsUp [2, 3, 6] = true → c.hold = none → (∀ l, l < (s.model c.model).layers → s.layerOpen c.model c.cap l 256 = true) →
      (∀ f, own.bad = some f → (∀ e tile g, f = .lane e tile g → (s.pressEngine e.val).queue = []) → c.layer < (s.model c.model).layers →
        ∃ t x, exec (.chunkComplete id errs own) s = .next t ∧ t.seqs.chunks.find? (fun c => c.id == id) = some x ∧
          x.rows = c.rows ∧ x.model = c.model ∧ x.layer = 0 ∧ x.hold = none ∧ t.seqs.entries = s.seqs.entries ∧
          t.seqs.steps = s.seqs.steps ∧ (tget ErrEntry.none t.log.ring ((t.log.tail + 1023) % 1024)).code =
            (match f with | .sram _ _ => 0x12 | .lane _ _ _ => 0x15 | .bank _ _ _ => 0x16)) ∧
      (∀ (k : Nat) (x : Chunk) (u : State), own.bad = none → c.layer + k = (s.model c.model).layers →
        LayersRun k c (noteCorrected own.corrected (addErrs errs s)) x u →
        ∃ t, exec (.chunkComplete id errs own) s = .next t ∧ t.seqs.chunks = u.seqs.chunks.filter (fun x => x.id != id) ∧
        (∀ q, (∀ y ∈ x.rows, y.q ≠ q) → t.seq q = u.seq q) ∧
        (∀ (y : StepSlot) (a : Append) as, x.rows = [y] → y.outcome = 13 → (u.seq y.q).gen = y.gen →
          (u.seq y.q).appends = a :: as → a.begun = true → (t.seq y.q).appends = { a with done := a.done + 1 } :: as))) ∧
    (∀ p b l, s.step id = some p → p.hold = some (b, l) → s.ctl.running = true →
      ∃ t, exec (.repairDeadline id) s = .next t ∧ t.now = max s.now (s.repairTick b) ∧ t.step id = none ∧
        t.seqs.boundaryCnt = (s.seqs.boundaryCnt + 1) % 2 ^ 64) ∧
    (∀ i q ds u x, s.quarSlot block = some (i, q) → q.state = 1 → s.stopped (block * 4096) = false →
      s.closedIn (block * 4096) 4096 = false → s.closedIn (32 * s.mirrorBurst (128 * block)) 4096 = false →
      ((List.range 128).map (fun k => 128 * block + k)).foldl (fun (a : List (Option (List Byte)) × State) b =>
        ((a.1 ++ [(readMirror (ledgerReader 9) b a.2).1]), (readMirror (ledgerReader 9) b a.2).2)) ([], addErrs errs s) = (ds, u) →
      u.quarSlot block = some (i, x) →
      (ds.all (·.isSome) = true →
        ∃ t, exec (.mirrorRepair block errs) s = .next t ∧ tget QuarEntry.free t.mem.quarantine i = QuarEntry.free ∧
          t.mem.repaired = satAdd 16 u.mem.repaired 1 ∧ t.seqs = u.seqs) ∧
      (ds.all (·.isSome) = false →
        ∃ t, exec (.mirrorRepair block errs) s = .next t ∧
          tget QuarEntry.free t.mem.quarantine i = { q with state := 2 }))

/-- Press instructions open, stream, save, restore, close and discard groups of tiles. (R173, R174, R176, R177, R179,
R180, R181, R183, R184, R192, R193, R406) With the engines powered, on an engine whose issue queue is empty. OPEN of
tiles and a group number that no open group owns opens the group at position 0 with all lane words zero. PASS of an
open group whose weights lie in a model spills its lane words into its spill area first where it stands at a spill
point, adds the terms of one K-tile to the lane words of the streamed token rows and advances the group by the tile's
positions. SAVE takes the group off the engine and writes its context to Orchard SRAM (its layout is the model's,
DESIGN CHOICE, log entry 27); RESTORE into as many free tiles brings it back with the lane words that the context
holds; CLOSE joins each lane word with its spill pair and writes the finished results as FP32 words to Orchard SRAM
and frees the tiles; DISCARD frees them and writes nothing. An instruction for a group that is not open, other than
OPEN and RESTORE, changes nothing. A PASS, CLOSE or SAVE that reads an uncorrectable lane word discards the group,
writes nothing and records the word in PRS_FAULT_LOG. Other engines stay as they were. -/
def Obligations.PressGroupsOpenStreamAndClose : Prop :=
  ∀ (e : Fin 8) (group tile count rows fmt lenLog2 mat col wsrc addr : Nat) (errs : List SymErr) (own : OwnReads) (s : State),
    s.enginesOn = true → (s.pressEngine e).queue = [] →
    (tilesOk group tile count = true → 1 ≤ rows → rows ≤ min 256 (32 * count) →
      (∀ x ∈ (s.pressEngine e).groups, x.1 ≠ group ∧ overlaps x.2.tile x.2.count tile count = false) →
      ∃ t, exec (.pressOpen e group tile count rows lenLog2 mat col addr) s = .next t ∧ t = { s with press := t.press } ∧
        (∀ k, k ≠ e.val → t.pressEngine k = s.pressEngine k) ∧
        t.pressEngine e = { s.pressEngine e with groups := (s.pressEngine e).groups ++ [(group,
          { tile := tile, count := count, rows := rows, lenLog2 := lenLog2, mat := mat, col := col, spillAddr := addr, model := 16,
            pos := 0, lanes := [] })] }) ∧
    (∀ x, (s.pressEngine e).group group = some x →
      (∀ m cells y o base, own.bad = none → s.weightModel x wsrc = some m →
        (y, o) = (if x.spills then ((spillGroup e x s).1, (spillGroup e x s).2.orchard) else (x, s.orchard)) →
        base = tileBase (s.model m) y fmt wsrc →
        (∀ i : PressInstr, i = { PressInstr.plain 2 group with
            tile := tile, count := count, fmt := fmt, wsrc := wsrc, addr := addr, errs := errs, own := own } →
          ∀ v : State, v = { s with press := { s.press with engines := v.press.engines }, orchard := o } →
          ∃ u, tileCells (v.passIn m y i) e i y base (8 * tilePositions fmt) (addErrs errs v) = (.ok cells, u) ∧
            u.press.engines = v.press.engines) →
        ∃ t z, exec (.pressPass e group tile count fmt wsrc addr errs own) s = .next t ∧ (t.pressEngine e).group group = some z ∧
          z.pos = x.pos + tilePositions fmt ∧ z.model = m ∧
          z.lanes = (streamTile y ((List.range (32 * count)).map (· + 32 * tile) |>.filter (fun q => decide (q < x.rows))) cells
            (fun q c => BitVec.ofNat 32 (leNat (tslice 0 o (orchardAt e
              (addr + 4 * ((q - 32 * tile) * (8 * tilePositions fmt) + (c - base)))) 4)))).lanes) ∧
      (own.bad = none → ∃ t, exec (.pressClose e group addr own) s = .next t ∧ t = { s with press := t.press, orchard := t.orchard } ∧
        t.pressEngine e = { s.pressEngine e with groups := (s.pressEngine e).groups.filter (fun y => y.1 != group) } ∧
        t.orchard = tsets 0 s.orchard (orchardAt e addr) (f32Bytes (groupResults s (s.withPairs e x))) ∧
        (∀ k, k ≠ e.val → t.pressEngine k = s.pressEngine k)) ∧
      (∃ t, exec (.pressDiscard e group) s = .next t ∧ t = { s with press := t.press } ∧
        t.pressEngine e = { s.pressEngine e with groups := (s.pressEngine e).groups.filter (fun y => y.1 != group) } ∧
        (∀ k, k ≠ e.val → t.pressEngine k = s.pressEngine k)) ∧
      (own.bad = none → ∃ t, exec (.pressSave e group addr own) s = .next t ∧
        t = { s with press := t.press, orchard := (saveGroup e addr x s).orchard } ∧
        t.pressEngine e = { s.pressEngine e with groups := (s.pressEngine e).groups.filter (fun y => y.1 != group) } ∧
        (orchardAt e addr, x) ∈ t.press.saved ∧ (∀ k, k ≠ e.val → t.pressEngine k = s.pressEngine k)) ∧
      (∀ (t0 : Fin 56) (g : Fin 8), own.bad = some (.lane e t0 g) →
        ∀ i, i = Instr.pressPass e group tile count fmt wsrc addr errs own ∨ i = Instr.pressClose e group addr own ∨
          i = Instr.pressSave e group addr own →
        ∃ t, exec i s = .next t ∧ t.mem = s.mem ∧ t.orchard = s.orchard ∧ t.press.saved = s.press.saved ∧
          t.pressEngine e = { s.pressEngine e with groups := (s.pressEngine e).groups.filter (fun y => y.1 != group) } ∧
          (∀ k, k ≠ e.val → t.pressEngine k = s.pressEngine k) ∧ t.press.faultKind = 1 ∧
          t.press.faultLayer = x.mat / 8 % 256 ∧ t.press.faultEngine = e.val ∧ t.press.faultTile = t0.val ∧
          t.press.faultGroup = g.val ∧ t.press.faultCount = satAdd 8 s.press.faultCount 1)) ∧
    (∀ k x, own.bad = none → tilesOk group tile count = true → s.press.saved.find? (fun y => y.1 == orchardAt e addr) = some (k, x) →
      x.count = count → (∀ x ∈ (s.pressEngine e).groups, x.1 ≠ group ∧ overlaps x.2.tile x.2.count tile count = false) →
      ∃ t, exec (.pressRestore e group tile count addr own) s = .next t ∧ t = { s with press := t.press } ∧
        t.pressEngine e = { s.pressEngine e with groups := (s.pressEngine e).groups ++ [(group, s.restored e addr tile x)] } ∧
        (∀ k, k ≠ e.val → t.pressEngine k = s.pressEngine k)) ∧
    ((s.pressEngine e).group group = none →
      (∃ t, exec (.pressClose e group addr own) s = .next t ∧ t.orchard = s.orchard ∧ ∀ k, t.pressEngine k = s.pressEngine k) ∧
      (∃ t, exec (.pressDiscard e group) s = .next t ∧ t.orchard = s.orchard ∧ ∀ k, t.pressEngine k = s.pressEngine k) ∧
      (∃ t, exec (.pressSave e group addr own) s = .next t ∧ t.press.saved = s.press.saved ∧ ∀ k, t.pressEngine k = s.pressEngine k) ∧
      (∃ t, exec (.pressPass e group tile count fmt wsrc addr errs own) s = .next t ∧ t.mem = s.mem ∧
        ∀ k, t.pressEngine k = s.pressEngine k))

/-- A window of engine assignment ends in an edge that assigns every engine its phase. (R301, R302, R303, R304, R305) On a
released module. ASSIGN_WINDOW_END after 64 boundaries, or once MAX_MS has passed, and EARLY_EDGE when work lacks an
engine of its phase, make an edge: the settings of MOD_ENG_BAL come into force, a new window begins, one edge is
counted, and every Press and Drupe engine has the phase of R303 or R304. EARLY_EDGE counts as early, and without such
work it changes nothing. Sequences, steps and the bytes of memory stay as they were. -/
def Obligations.PhaseWindowsEnd : Prop :=
  ∀ (s : State), s.released = true →
    (64 ≤ s.seqs.windowBoundaries →
      ∃ t, exec .assignWindowEnd s = .next t ∧ t.seqs.balInForce =
          [b2n s.seqs.pinEn, s.seqs.drupePrompt, s.seqs.pressPrompt, s.seqs.maxMs, s.seqs.quota] ∧
        t.seqs.windowBoundaries = 0 ∧ t.seqs.windowStart = s.now ∧ t.seqs.edges = (s.seqs.edges + 1) % 2 ^ 32 ∧
        t.seqs.edgeDue = false ∧ (∀ e, e < 8 → (t.pressEngine e).phase = t.assign.1 e) ∧
        (∀ e, e < 24 → (t.drupeEngine e).phase = t.assign.2 e) ∧ t.mem.cells = s.mem.cells ∧ t.seqs.steps = s.seqs.steps ∧
        t.seqs.entries = s.seqs.entries) ∧
    (s.seqs.windowBoundaries < 64 → s.ctl.running = true →
      ∃ t, exec .assignWindowEnd s = .next t ∧
        t.now = max s.now (s.seqs.windowStart + msTicks (s.seqs.balInForce.getD 3 0)) ∧ t.seqs.windowStart = t.now ∧
        t.seqs.edges = (s.seqs.edges + 1) % 2 ^ 32 ∧ (∀ e, e < 8 → (t.pressEngine e).phase = t.assign.1 e)) ∧
    (s.earlyDue = true →
      ∃ t, exec .earlyEdge s = .next t ∧ t.seqs.early = satAdd 8 s.seqs.early 1 ∧ t.seqs.edges = (s.seqs.edges + 1) % 2 ^ 32 ∧
        t.seqs.windowStart = s.now ∧ t.seqs.windowBoundaries = 0 ∧ (∀ e, e < 24 → (t.drupeEngine e).phase = t.assign.2 e) ∧
        t.mem.cells = s.mem.cells) ∧
    (s.earlyDue = false → exec .earlyEdge s = .next s)

/-- A job starts in a Zest section; each instruction gives its register its value; END gives the result. (R219, R220,
R222, R225, R226, R230, R233, R240, R241, R406) With the engines powered. ZEST_JOB in a section whose engine has a
phase with Zest work and that has no job in progress starts one on the current bank, at the first word, with its two
inputs in r0 and r1 and all other registers zero, and counts the bank words that the code corrected; a job that reads
an uncorrectable bank word stops, and ZST_FAULT records it. In another phase it starts none. The command of each
operation, where the word at the section's program counter has it, writes one register, D, and moves to the next word:
LDI writes IMM, MADD A x B + C rounded once, EXP2, LOG2, RECIP, RSQRT, TANH and LOGISTIC their function of A, CMPSEL C
if the condition holds of A and B and nothing otherwise, SIGN A with its sign changed, LUT the segment table at A. END
ends the job with r0 as its result. Only that section's job changes, and at END the counts of special results. -/
def Obligations.ZestSectionsRunTheirPrograms : Prop :=
  ∀ (sec slot : Fin 32) (in0 in1 : F32) (own : OwnReads) (s : State), s.enginesOn = true →
    (s.sectionWorks sec = false → exec (.zestJob sec slot in0 in1 own) s = .next s) ∧
    (s.sectionWorks sec = true → (∀ j, s.zestJob sec = some j → j.result ≠ none) → own.bad = none →
      ∃ t j, exec (.zestJob sec slot in0 in1 own) s = .next t ∧ t.zestJob sec = some j ∧ j.bank = s.zest.current ∧ j.slot = slot.val ∧
        j.pc = 0 ∧ j.result = none ∧ (∀ r, tget 0 j.regs r = if r = 0 then in0 else if r = 1 then in1 else 0) ∧
        (∀ o, o ≠ sec.val → t.zestJob o = s.zestJob o) ∧
        t.zest.faultCorr = (if own.corrected = 0 then s.zest.faultCorr else satAdd 12 s.zest.faultCorr own.corrected) ∧
        t = { s with zest := { s.zest with jobs := t.zest.jobs, faultCorr := t.zest.faultCorr } }) ∧
    (s.sectionWorks sec = true → (∀ j, s.zestJob sec = some j → j.result ≠ none) → ∀ i prog sl, own.bad = some (.bank i prog sl) →
      ∃ t, exec (.zestJob sec slot in0 in1 own) s = .next t ∧ t.zestJob sec = none ∧
        (∀ o, o ≠ sec.val → t.zestJob o = s.zestJob o) ∧ t.zest.bank0 = s.zest.bank0 ∧ t.zest.bank1 = s.zest.bank1 ∧
        t.zest.faultSection = i.val ∧ t.zest.faultBank = s.zest.current ∧ t.zest.faultKind = b2n prog ∧
        t.zest.faultSlot = sl.val ∧ t.zest.faultCount = satAdd 8 s.zest.faultCount 1 ∧
        (tget ErrEntry.none t.log.ring ((t.log.tail + 1023) % 1024)).code = 0x16) ∧
    (∀ j wd a b c imm op, s.zestJob sec = some j → j.result = none → wd = s.jobWord j → a = tget 0 j.regs (bits wd 48 5) →
      b = tget 0 j.regs (bits wd 43 5) → c = tget 0 j.regs (bits wd 38 5) → imm = bits wd 0 32 → op = bits wd 58 6 →
      ∀ go : F32 → State, go = (fun v => setJob sec { j with pc := j.pc + 1, regs := tset 0 j.regs (bits wd 53 5) v } s) →
      (op = 0x01 → exec (.zestLdi sec) s = .next (go (BitVec.ofNat 32 imm))) ∧
      (op = 0x02 → exec (.zestMadd sec) s = .next (go (f32Madd a b c))) ∧
      (op = 0x03 → exec (.zestExp2 sec) s = .next (go (zExp2 a))) ∧
      (op = 0x04 → exec (.zestLog2 sec) s = .next (go (zLog2 a))) ∧
      (op = 0x05 → exec (.zestRecip sec) s = .next (go (zRecip a))) ∧
      (op = 0x06 → exec (.zestRsqrt sec) s = .next (go (zRsqrt a))) ∧
      (op = 0x07 → exec (.zestCmpsel sec) s =
        .next (if zCond (imm % 4) a b then go c else setJob sec { j with pc := j.pc + 1 } s)) ∧
      (op = 0x08 → exec (.zestSign sec) s = .next (go (zSignOp (imm % 4) a b))) ∧
      (op = 0x09 → exec (.zestLut sec) s = .next (go (zLut ((s.zbank j.bank).table (bits wd 34 4)) a))) ∧
      (op = 0x0A → exec (.zestTanh sec) s = .next (go (zTanh a))) ∧
      (op = 0x0B → exec (.zestLogistic sec) s = .next (go (zLogistic a))) ∧
      (op = 0x00 → ∃ t, exec (.zestEnd sec) s = .next t ∧ t.zestJob sec = some { j with result := some (tget 0 j.regs 0) } ∧
        t.zest.nanOut = (if f32IsNan (tget 0 j.regs 0) = true then satAdd 32 s.zest.nanOut 1 else s.zest.nanOut) ∧
        (∀ o, o ≠ sec.val → t.zestJob o = s.zestJob o) ∧ t = { s with zest := t.zest }) ∧
      (∀ v, (go v).zestJob sec = some { j with pc := j.pc + 1, regs := tset 0 j.regs (bits wd 53 5) v } ∧
        (∀ o, o ≠ sec.val → (go v).zestJob o = s.zestJob o) ∧ go v = { s with zest := { s.zest with jobs := (go v).zest.jobs } }))

/-- Pip programs are loaded, runs are held, admitted, sliced and rebuilt, and their status is read. (R112, R137, R139,
R140, R143, R144, R145, R147, R148, R151) PIP_LOAD of words that pass R139 puts them into the stores of the named pips
and of no others; PIP_RUN of a program that passes its checks holds the run on a COOL stack and ends with THERMAL_HOLD
on another; PIP_STATUS answers with the slot as it stood when the record was taken. PIP_SLICE_START admits a HELD run
whose checks pass: RUNNING, one slice counted, its write range OPEN, the slice as long as PIP_SLICE says (the rows
that fit: log entry 51); it counts a slice for every RUNNING run; without any it starts none. PIP_SLICE_END ends the
slice, a run at its SLICE_LIMIT goes to REBUILD with LIMIT_HIT, and the accesses that the slice kept waiting are
served. PIP_RUN_REBUILD of a slot in REBUILD computes the entries of its write range anew, and the slot reads
COMPLETE. -/
def Obligations.PipRecordsAndSlices : Prop :=
  ∀ (w : Fin 16) (n : U32) (src : Src) (k : Fin 8) (slot : Fin 16) (r : Taken) (s u : State),
    (Ready 0x50 w n.toNat r s → (s.pip (r.at 0x20 1)).pipsBusy (r.at 0x22 2) (r.at 0x24 2) = false →
      s.earlierPips r [0x50, 0x51] = false → ∀ d ws, readSource (r.at 0x2A 1 == 1) (r.at 0x30 8) (8 * r.at 0x28 2) src s = (.bytes d, u) →
      ws = (chunksOf 8 d).map leNat → (∀ i x, ws[i]? = some x → wordOk (r.at 0x26 1 + i) x = true) →
      ∃ v, exec (.pipLoad w n src) s = .next (complete w r.n (done []) v) ∧ v = { u with pips := v.pips } ∧
        (∀ p, r.at 0x22 2 ≤ p → p < r.at 0x22 2 + r.at 0x24 2 → v.pipUnit (r.at 0x20 1) p =
          { u.pipUnit (r.at 0x20 1) p with store := tsets 0 (u.pipUnit (r.at 0x20 1) p).store (r.at 0x26 1) ws }) ∧
        (∀ h p, (h ≠ r.at 0x20 1 ∨ p < r.at 0x22 2 ∨ r.at 0x22 2 + r.at 0x24 2 ≤ p) → v.pipUnit h p = u.pipUnit h p)) ∧
    (Ready 0x51 w n.toNat r s → s.earlierPips r [0x50] = false → firstFail (s.programChecks r) = none →
      ((s.stack (stackOfPip (r.at 0x20 1))).thermal = 0 →
        ∃ v, exec (.pipRun w n) s = .next (startRecord w r.n v) ∧ (r.at 0x21 1, runOfRecord w r) ∈ (v.pip (r.at 0x20 1)).held ∧
          (v.pip (r.at 0x20 1)).held.length = (s.pip (r.at 0x20 1)).held.length + 1 ∧
          (v.pip (r.at 0x20 1)).runs = (s.pip (r.at 0x20 1)).runs ∧ v = { s with pips := v.pips }) ∧
      ((s.stack (stackOfPip (r.at 0x20 1))).thermal ≠ 0 → exec (.pipRun w n) s =
        .next (complete w r.n { ans 0x0305 (stackOfPip (r.at 0x20 1)) with result := runResult Run.free } s))) ∧
    (Ready 0x52 w n.toNat r s → exec (.pipStatus w n) s = .next (complete w r.n (done (padTo 20 r.shown)) s)) ∧
    ((s.candidate w).opcode = 0x52 → (s.candidate w).shown =
      runResult ((s.pip ((s.candidate w).at 0x20 1)).runAt ((s.candidate w).at 0x21 1))) ∧
    (s.released = true → (s.pip k).inSlice = false → (s.stack (stackOfPip k)).thermal ≠ 4 →
      (s.stack (stackOfPip k)).powerSr = false → s.unitUp 6 k = true →
      (∀ i (x : Run), (s.pip k).held = [(i, x)] → s.admitting k = true → s.admits k x = true → s.admitChecks k i x = none →
        x.actBytes = 0 →
        ∃ t, exec (.pipSliceStart k) s = .next t ∧ tget Run.free (t.pip k).runs i =
            { x with state := 2, slices := satAdd 32 x.slices 1 } ∧
          (t.pip k).held = [] ∧ (t.pip k).inSlice = true ∧ (t.pip k).credit = s.pipEffective k ∧
          (t.pip k).sliceRows = (5 * (s.pip k).sliceCyc - 112) / 1024 ∧ (∀ b ∈ x.blocks k, (t.entryOf b).isOpen = true) ∧
          (∀ j, j < x.pipCount → (t.pipUnit k (x.pipFirst + j)).pc = x.entry ∧ (t.pipUnit k (x.pipFirst + j)).ready = false ∧
            (t.pipUnit k (x.pipFirst + j)).store = (s.pipUnit k (x.pipFirst + j)).store)) ∧
      ((s.pip k).held = [] →
        ((s.pip k).runs.any (fun e => e.2.state == 2) = true →
          ∃ t, exec (.pipSliceStart k) s = .next t ∧ (t.pip k).inSlice = true ∧ t = { s with pips := t.pips } ∧
            ∀ i, (tget Run.free (s.pip k).runs i).state = 2 → tget Run.free (t.pip k).runs i =
              { tget Run.free (s.pip k).runs i with slices := satAdd 32 (tget Run.free (s.pip k).runs i).slices 1 }) ∧
        ((s.pip k).runs.any (fun e => e.2.state == 2) = false → exec (.pipSliceStart k) s = .next s))) ∧
    (s.released = true → (s.pip k).inSlice = true →
      ∃ v, exec (.pipSliceEnd k) s = .next (riseNow (stackOfPip k) (serveWaiting v)) ∧ (v.pip k).inSlice = false ∧
        (v.pip k).refreshDue = 0 ∧ v = { s with pips := v.pips } ∧
        (∀ i x, tget Run.free (s.pip k).runs i = x → tget Run.free (v.pip k).runs i =
          if x.state = 2 ∧ x.sliceLimit ≤ x.slices then { x with state := 3, faults := setBit x.faults 3 true } else x) ∧
        (∀ a, s.host.held = [a] → s.vine.collects = [] → v.closedAt a.dpa = false →
          serveWaiting v = serveAccess a { v with host := { v.host with held := [] } })) ∧
    (∀ x, s.released = true → tget Run.free (s.pip k).runs slot = x → x.state = 3 → (s.stack (stackOfPip k)).thermal ≠ 4 →
      (s.stack (stackOfPip k)).powerSr = false →
      ∃ t, exec (.pipRunRebuild k slot) s = .next t ∧ tget Run.free (t.pip k).runs slot = { x with state := 4, replied := true } ∧
        (∀ b ∈ x.blocks k, t.entryOf b = { isOpen := false, crc := crc32c (s.blockData b) }) ∧
        (∀ b, b ∉ x.blocks k → t.entryOf b = s.entryOf b) ∧ (∀ b, t.rawBurst b = s.rawBurst b))

/-- END, SETA, SETL, LOOP, CLR, STAT, GEMV and REDUCE change their pip alone, as their operation says. (R132, R133, R134,
R135, R136, R138, R143, R147, R148, R205, R236) For a pip whose next instruction has the operation. END raises ready,
and the run goes to REBUILD when all its pips have; SETA and SETL write A[RD] and L; LOOP with L not zero takes L down
and jumps back, otherwise moves on; CLR clears the lane accumulators. STAT adds the rows that fit in the slice to the
statistics, and stands at the next row until it has them all; GEMV reads its rows slice by slice likewise, and with
the last one, where they decode, adds the products to the accumulators, in order, and keeps the octet lanes for the
REDUCE; rows that do not decode set STREAM_SKEW on the run and leave the accumulators. REDUCE with a tag at or above
OUT_ROWS sends nothing and sets BAD_TAG; while the row slot of its tag (log entry 51) holds another tag it waits; with
a free row slot it puts the lane sums there, or, all lanes present, writes the row result to OUT_BASE + 32 x tag; the
accumulators are then clear. -/
def Obligations.PipControlInstructions : Prop :=
  ∀ (k : Fin 8) (p : Fin 1536) (i w : Nat) (u : Pip) (s : State), u = s.pipUnit k p →
    (PipAt k p 0x00 i w s →
      ∃ t, exec (.pipEnd k p) s = .next t ∧ t.pipUnit k p = { u with ready := true } ∧ t = { s with pips := t.pips } ∧
        (tget Run.free (t.pip k).runs i = { tget Run.free (s.pip k).runs i with state := 3 } ∨
          (tget Run.free (t.pip k).runs i = tget Run.free (s.pip k).runs i ∧
            ∃ j, j < (tget Run.free (s.pip k).runs i).pipCount ∧
              (t.pipUnit k ((tget Run.free (s.pip k).runs i).pipFirst + j)).ready = false))) ∧
    (PipAt k p 0x01 i w s → ∃ t, exec (.pipSeta k p) s = .next t ∧
      PipBecomes k p { u with pc := (u.pc + 1) % 256, done := u.done + 1, a := tset 0 u.a (iRd w) (iImm w % 32768) } s t) ∧
    (PipAt k p 0x02 i w s → ∃ t, exec (.pipSetl k p) s = .next t ∧
      PipBecomes k p { u with pc := (u.pc + 1) % 256, done := u.done + 1, l := iImm w % 65536 } s t) ∧
    (PipAt k p 0x03 i w s → ∃ t, exec (.pipLoop k p) s = .next t ∧
      PipBecomes k p (if u.l = 0 then { u with pc := (u.pc + 1) % 256, done := u.done + 1 }
        else { u with l := u.l - 1, pc := (u.pc + 256 - iImm w % 256) % 256, done := u.done + 1 }) s t) ∧
    (PipAt k p 0x21 i w s → ∃ t, exec (.pipClr k p) s = .next t ∧
      PipBecomes k p { u with pc := (u.pc + 1) % 256, done := u.done + 1, acc := [] } s t) ∧
    (∀ a x : Nat, a = s.pipA k p (iRa w) + u.row → x = s.rowsNow k p w →
      (∀ j, j < x → s.isCompute (plotRow k p (a + j)) = true ∧ RowLanded k p (a + j) s) →
      (PipAt k p 0x18 i w s → ∀ v : Pip,
        v = (List.range x).foldl (fun (v : Pip) j => v.stat (rowElems (iFmt w) (s.plotBytes k p (a + j))))
          (if bit (iImm w) 0 = true ∧ u.row = 0 then { u with cnt := [], mean := [], m2 := [] } else u) →
        ∃ t, exec (.pipStat k p) s = .next t ∧ t = { s with pips := t.pips } ∧ PipAdvances k p w [iRa w] (fun _ => v) s t ∧
          (t.pipUnit k p).rowMean = v.rowMean ∧ (t.pipUnit k p).rowVar = v.rowVar ∧ (t.pipUnit k p).mean = v.mean ∧
            (t.pipUnit k p).cnt = v.cnt ∧ (t.pipUnit k p).m2 = v.m2 ∧ (t.pipUnit k p).acc = u.acc) ∧
      (PipAt k p 0x20 i w s → bit (tget Run.free (s.pip k).runs i).faults 1 = false →
        ∀ fmt lanes first bf col0 cols cb d, fmt = iFmt w → lanes = 2 ^ bits (iImm w) 3 2 → first = bits (iImm w) 24 8 →
          bf = bit (iImm w) 5 → col0 = bits (iImm w) 8 16 →
          cols = gemvColumns w fmt lanes (iCount w) ((if bf then 8192 else 16384) - col0) → cb = rowCodeBytes fmt cols lanes →
          d = u.buf ++ (List.range x).flatMap (fun j => s.plotBytes k p (a + j)) →
        if u.row + x ≠ iCount w then ∃ t, exec (.pipGemv k p) s = .next t ∧ t = { s with pips := t.pips } ∧
          PipAdvances k p w [iRa w] (fun v => { v with buf := d }) s t
        else match decodeRow fmt cols first lanes u.bsn 0 (d.take cb) (bytesAt d cb (rowSlotBytes fmt cols)) with
        | .ok row => ∃ t, exec (.pipGemv k p) s = .next t ∧ t = { s with pips := t.pips } ∧ PipAdvances k p w [iRa w] id s t ∧
            (t.pipUnit k p).acc = (u.accumulate (bits (iImm w) 0 3 + 1) row
              (fun q c => (s.pip k).activation bf q (col0 + c))).acc ∧
            (t.pipUnit k p).laneFirst = first ∧ (t.pipUnit k p).lanes = lanes ∧ (t.pipUnit k p).nseq = bits (iImm w) 0 3 + 1 ∧
            (t.pipUnit k p).bsn = (u.bsn + ceilDiv cols 256) % 65536
        | .error _ => ∃ t, exec (.pipGemv k p) s = .next t ∧ (t.pipUnit k p).acc = u.acc ∧ PipAdvances k p w [iRa w] id s t ∧
            bit (tget Run.free (t.pip k).runs i).faults 1 = true ∧ t = { s with pips := t.pips })) ∧
    (PipAt k p 0x28 i w s → bit (tget Run.free (s.pip k).runs i).faults 1 = false → ∀ tag : Nat, tag = iImm w % 65536 →
      ((tget Run.free (s.pip k).runs i).outRows ≤ tag →
        ∃ t, exec (.pipReduce k p) s = .next t ∧ (t.pipUnit k p).acc = [] ∧ (t.pip k).gather = (s.pip k).gather ∧
          (t.pipUnit k p).pc = (u.pc + 1) % 256 ∧ bit (tget Run.free (t.pip k).runs i).faults 4 = true ∧
          t = { s with pips := t.pips }) ∧
      (tag < (tget Run.free (s.pip k).runs i).outRows → u.lanes ≠ 0 → ∀ g ∈ (s.pip k).gather, g.run = i → g.tag ≠ tag →
        g.tag % max 1 (tget Run.free (s.pip k).runs i).gatherSlots = tag % max 1 (tget Run.free (s.pip k).runs i).gatherSlots →
        exec (.pipReduce k p) s = .next s) ∧
      (tag < (tget Run.free (s.pip k).runs i).outRows → (∀ g ∈ (s.pip k).gather, g.run ≠ i) →
        (u.lanes ≠ 0 → u.lanes < 8 → u.laneFirst + u.lanes ≤ 8 → u.nseq ≠ 0 →
          ∃ t g, exec (.pipReduce k p) s = .next t ∧ (t.pip k).gather = (s.pip k).gather ++ [g] ∧ g.run = i ∧ g.tag = tag ∧
            g.sums = u.laneSums ∧ (t.pipUnit k p).acc = [] ∧ (t.pipUnit k p).pc = (u.pc + 1) % 256 ∧
            t = { s with pips := t.pips }) ∧
        (u.lanes = 8 → u.laneFirst = 0 → ∀ out : List Byte,
          out = (List.range 8).flatMap (fun q => natLe 4 (if q < u.nseq then
            octetTree f32Add (fun l => tget 0 u.acc (8 * q + l)) else 0).toNat) →
          (∀ v : State, v = { s with pips := v.pips } →
            (writeMem 6 ((tget Run.free (s.pip k).runs i).outBase + 32 * tag) out v).1 = true ∧
            (writeMem 6 ((tget Run.free (s.pip k).runs i).outBase + 32 * tag) out v).2.pips = v.pips) →
          ∃ t v, exec (.pipReduce k p) s = .next t ∧ v = { s with pips := v.pips } ∧
            t.mem = (writeMem 6 ((tget Run.free (s.pip k).runs i).outBase + 32 * tag) out v).2.mem ∧
            (t.pipUnit k p).acc = [] ∧ (t.pipUnit k p).pc = (u.pc + 1) % 256 ∧ (t.pip k).gather = (s.pip k).gather ∧
            (tget Run.free (t.pip k).runs i).rowsOut = (tget Run.free (s.pip k).runs i).rowsOut + 1)))

/-- COPY, FILL, AND, OR, XOR, NOT, ADD, MUL, SCALE and NORM write their rows D from their rows A and B. (R110, R138, R146,
R236, R238) For a pip whose next instruction has the operation, with rows that may be read and written: every row D
afterwards holds the operation of the rows A and B as they stood, byte by byte for COPY, FILL, AND, OR, XOR and NOT,
and element by element in the instruction's format for ADD, MUL, SCALE by IMM and NORM; every other burst of memory,
every other pip and everything outside memory and the pip stacks stands; what does not fit in the slice is left for
the next one. A destination row outside the write range is not written and counts as a fence event of the run. -/
def Obligations.PipRowInstructions : Prop :=
  ∀ (k : Fin 8) (p : Fin 1536) (i w : Nat) (s : State),
    (RowsFree k p i w true false s →
      (PipAt k p 0x08 i w s → ∃ t, exec (.pipCopy k p) s = .next t ∧ RowsDone k p w [iRd w, iRa w] (fun x _ => x) s t) ∧
      (PipAt k p 0x0D i w s → ∃ t, exec (.pipNot k p) s = .next t ∧ RowsDone k p w [iRd w, iRa w] (fun x _ => x.map (fun b => ~~~ b)) s t) ∧
      (PipAt k p 0x12 i w s → ∃ t, exec (.pipScale k p) s = .next t ∧
        RowsDone k p w [iRd w, iRa w] (fun x _ => scaleRow (iFmt w) (BitVec.ofNat 32 (iImm w)) x) s t)) ∧
    (RowsFree k p i w false false s → PipAt k p 0x09 i w s → ∃ t, exec (.pipFill k p) s = .next t ∧
      RowsDone k p w [iRd w] (fun _ _ => (List.replicate 512 (natLe 4 (iImm w))).flatten) s t) ∧
    (RowsFree k p i w true true s →
      (PipAt k p 0x0A i w s → ∃ t, exec (.pipAnd k p) s = .next t ∧ RowsDone k p w [iRd w, iRa w, iRb w] (List.zipWith (· &&& ·)) s t) ∧
      (PipAt k p 0x0B i w s → ∃ t, exec (.pipOr k p) s = .next t ∧ RowsDone k p w [iRd w, iRa w, iRb w] (List.zipWith (· ||| ·)) s t) ∧
      (PipAt k p 0x0C i w s → ∃ t, exec (.pipXor k p) s = .next t ∧ RowsDone k p w [iRd w, iRa w, iRb w] (List.zipWith (· ^^^ ·)) s t) ∧
      (PipAt k p 0x10 i w s → ∃ t, exec (.pipAdd k p) s = .next t ∧
        RowsDone k p w [iRd w, iRa w, iRb w] (elemOp (iFmt w) bf16Add f32Add) s t) ∧
      (PipAt k p 0x11 i w s → ∃ t, exec (.pipMul k p) s = .next t ∧
        RowsDone k p w [iRd w, iRa w, iRb w] (elemOp (iFmt w) bf16Mul f32Mul) s t) ∧
      (PipAt k p 0x19 i w s → ∃ t, exec (.pipNorm k p) s = .next t ∧ RowsDone k p w [iRd w, iRa w, iRb w] (fun x y =>
        List.flatten (List.zipWith (fun a b => elemBytes (iFmt w) (f32Mul (f32Mul (f32Sub a (s.pipUnit k p).rowMean)
          (normRho (s.pipUnit k p).rowVar (BitVec.ofNat 32 (iImm w)))) b)) (rowElems (iFmt w) x) (rowElems (iFmt w) y))) s t)) ∧
    (PipAt k p 0x09 i w s → iCount w = 1 → (s.pipUnit k p).row = 0 → 1 ≤ s.rowsLeft k p →
        (s.pipA k p (iRd w)) % 32768 < (tget Run.free (s.pip k).runs i).wrowFirst →
      ∃ t, exec (.pipFill k p) s = .next t ∧ t.mem = s.mem ∧ bit (tget Run.free (t.pip k).runs i).faults 0 = true ∧
        (tget Run.free (t.pip k).runs i).fenceCount = satAdd 32 (tget Run.free (s.pip k).runs i).fenceCount 1 ∧
        PipMoves k p w [iRd w] s t)

/-- Temperature and power samples move thermal rows, refresh, die states and the cap level at once, and back after their
time. (R46, R123, R124, R130, R150, R152, R414, R416, R417, R418) STACK_TEMP_SAMPLE, from the start of MEMORY on, of a
stack whose sensors answer, or that trains, notes the temperature and never lowers the thermal row; a rise takes
effect at once, on a pip stack in a slice after it, forced self-refresh apart, which stops the runs; other stacks
stay. On a released module STACK_THERMAL_STEPDOWN, REFRESH_STEPDOWN and DIE_THERMAL_STEPDOWN of a unit that has been
cool bring the counter at least 10 ms past the moment from which it has been, and lead down past every row that has
had its 10 ms below, and to no other; of another unit they change nothing. REFRESH_DUE in a slice counts one waiting
refresh, at most four, and otherwise changes nothing. DIE_TEMP_SAMPLE of 105 degrees makes the module FATAL; below, it
notes the temperature and raises the die state. POWER_SAMPLE adds one sample and lowers the cap level by 25 mV where
the average exceeds WATTS and a step is due; CAP_STEP_UP raises it by 25 mV; POWER_CAP_UNMET sets UNMET.
STAGE_MONITOR_MEASURE keeps the slowest and the last measure of the monitors whose rail allows handshakes, within the
bounds of log entry 13, and otherwise nothing. -/
def Obligations.HeatAndPowerSamples : Prop :=
  ∀ (i : Fin 16) (w : Fin 4) (temp watts : Nat) (temps ps : List Nat) (s : State),
    (5 ≤ s.boot.stage → s.boot.stage ≤ 7 → ((s.stack i).sensors = true ∨ s.boot.stage = 5) → ∀ row : Nat,
      row = (if 95 ≤ min temp 255 then 4 else if 93 ≤ min temp 255 ∧ isPipStack i = true then 3
        else if 90 ≤ min temp 255 then 2 else if 85 ≤ min temp 255 then 1 else 0) →
      (row ≤ (s.stack i).thermal ∨ row < 4 ∨ isPipStack i = false →
        ∃ t, exec (.stackTempSample i temp) s = .next t ∧ (t.stack i).temp = min temp 255 ∧
          (s.stack i).refresh ≤ (t.stack i).refresh ∧ (∀ j, j ≠ i.val → t.stack j = s.stack j) ∧ t.mem.cells = s.mem.cells ∧
          (if (s.stack i).thermal < row ∧ isPipStack i = true ∧ (s.pip (pipOfStack i)).inSlice = true then
            (t.stack i).thermal = (s.stack i).thermal ∧ (t.stack i).riseTo = max (s.stack i).riseTo row
          else (t.stack i).thermal = max (s.stack i).thermal row)) ∧
      ((s.stack i).thermal < row → row = 4 → isPipStack i = true →
        ∃ v, exec (.stackTempSample i temp) s = .next (stopRuns (pipOfStack i) v) ∧ (v.stack i).temp = min temp 255 ∧
          (v.stack i).thermal = 4 ∧ (v.pip (pipOfStack i)).hotCnt = satAdd 16 (s.pip (pipOfStack i)).hotCnt 1 ∧
          (∀ j, j ≠ i.val → v.stack j = s.stack j) ∧ v.mem.cells = s.mem.cells)) ∧
    ((s.boot.stage < 5 ∨ 7 < s.boot.stage ∨ ((s.stack i).sensors = false ∧ s.boot.stage ≠ 5)) →
      exec (.stackTempSample i temp) s = .next s) ∧
    (s.released = true →
      (∀ a, (s.stack i).coolSince = some a → s.ctl.running = true →
        ∃ t, exec (.stackThermalStepdown i) s = .next t ∧ t.now = max s.now (a + 1000000) ∧
          ∀ x past, x = (t.stack i).thermal → past = (fun y => ∃ b, tget none (s.stack i).cool y = some b ∧ b + 1000000 ≤ t.now) →
            x ≤ (s.stack i).thermal ∧ (0 < x → x ≤ thermalRow (isPipStack i) (s.stack i).temp ∨ ¬ past x) ∧
            ∀ y, x < y → y ≤ (s.stack i).thermal → (y = 3 → isPipStack i = true) → y ≤ 4 →
              thermalRow (isPipStack i) (s.stack i).temp < y ∧ past y) ∧
      ((s.stack i).coolSince = none → exec (.stackThermalStepdown i) s = .next s) ∧
      (∀ a, (s.stack i).refreshSince = some a → s.ctl.running = true →
        ∃ t, exec (.refreshStepdown i) s = .next t ∧ t.now = max s.now (a + 1000000) ∧
          (t.stack i).thermal = (s.stack i).thermal ∧ (∀ j, j ≠ i.val → t.stack j = s.stack j) ∧
          (isPipStack i = false → ∀ x past, x = (t.stack i).refresh →
            past = (fun y => ∃ b, tget none (s.stack i).refreshCool y = some b ∧ b + 1000000 ≤ t.now) →
            x ≤ (s.stack i).refresh ∧ (0 < x → x ≤ refreshRow (s.stack i).temp false ∨ ¬ past x) ∧
            ∀ y, x < y → y ≤ (s.stack i).refresh → y ≤ 3 → refreshRow (s.stack i).temp false < y ∧ past y)) ∧
      ((s.stack i).refreshSince = none → exec (.refreshStepdown i) s = .next s) ∧
      (isPipStack i = true → (s.pip (pipOfStack i)).inSlice = true →
        ∃ t, exec (.refreshDue i) s = .next t ∧
          (t.pip (pipOfStack i)) = { s.pip (pipOfStack i) with refreshDue := min 4 ((s.pip (pipOfStack i)).refreshDue + 1) } ∧
          (∀ j, j ≠ pipOfStack i → t.pip j = s.pip j) ∧ t = { s with pips := t.pips }) ∧
      ((isPipStack i && (s.pip (pipOfStack i)).inSlice) = false → exec (.refreshDue i) s = .next s) ∧
      (∀ a, (s.wedge w).coolSince = some a → s.ctl.running = true →
        ∃ t, exec (.dieThermalStepdown w) s = .next t ∧ t.now = max s.now (a + 1000000) ∧
          ∀ x past, x = (t.wedge w).dieState → past = (fun y => ∃ b, tget none (s.wedge w).cool y = some b ∧ b + 1000000 ≤ t.now) →
            x ≤ (s.wedge w).dieState ∧ (0 < x → x ≤ dieRow (s.wedge w).temp ∨ ¬ past x) ∧
            ∀ y, x < y → y ≤ (s.wedge w).dieState → y ≤ 3 → dieRow (s.wedge w).temp < y ∧ past y) ∧
      ((s.wedge w).coolSince = none → exec (.dieThermalStepdown w) s = .next s) ∧
      (∃ t, exec (.powerSample watts) s = .next t ∧ t.pwr.samples = (watts :: s.pwr.samples).take 100 ∧
        t.pwr.energy = s.pwr.energy + watts ∧ t.pwr.peakW = max s.pwr.peakW (min watts 65535) ∧
        t.pwr.capMv = (if s.pwr.watts < t.avgWatts ∧ s.capDue = true ∧ 650 < s.pwr.capMv then max 650 (s.pwr.capMv - 25)
          else s.pwr.capMv) ∧ t = { s with pwr := t.pwr }) ∧
      (∀ a, s.pwr.lowSince = some a → s.pwr.capMv < 850 →
        ∃ t, exec .capStepUp s = .next t ∧ t.pwr.capMv = min 850 (s.pwr.capMv + 25) ∧ t.pwr.capSteppedAt = some t.now ∧
          (s.ctl.running = true → a + 1000000 ≤ t.now)) ∧
      (s.pwr.unmet = false → s.pwr.capMv = 650 → s.pwr.watts < s.avgWatts →
        ∃ t, exec .powerCapUnmet s = .next t ∧ t.pwr.unmet = true ∧ t.pwr.capMv = 650 ∧ t.mem = s.mem)) ∧
    (s.boot.pg = true → s.boot.stage ≤ 8 → ∀ x, x = min 255 ((temps.take 8).foldl max 0) →
      ∃ t, exec (.dieTempSample w temps) s = .next t ∧ (t.wedge w).temp = x ∧ (∀ v, v ≠ w.val → t.wedge v = s.wedge v) ∧
        (105 ≤ x → t.boot.stage = 10 ∧ t.boot.fail = if s.released = true then s.boot.fail else 8) ∧
        (x < 105 → t.boot = s.boot ∧ (t.wedge w).dieState = max (s.wedge w).dieState (if 100 ≤ x then 2 else if 95 ≤ x then 1 else 0))) ∧
    ((∀ j, j < 8 → 650 ≤ s.railMv (j / 2) → s.stageOk (j / 2) (ps.getD j 0) = true) → s.boot.pg = true →
      ∃ t, exec (.stageMonitorMeasure ps) s = .next t ∧
        t.pwr.curPs = (((List.range 8).filter (fun j => decide (650 ≤ s.railMv (j / 2)))).map (fun j => ps.getD j 0)).foldl max 0 ∧
        t.pwr.maxPs = max s.pwr.maxPs t.pwr.curPs ∧
        t = { s with pwr := { s.pwr with curPs := t.pwr.curPs, maxPs := t.pwr.maxPs } }) ∧
    (s.boot.pg = false ∨ (∃ j, j < 8 ∧ 650 ≤ s.railMv (j / 2) ∧ s.stageOk (j / 2) (ps.getD j 0) = false) →
      exec (.stageMonitorMeasure ps) s = .next s)

/-- Leases are renewed and revoked; Stone cores and units are reset and return to service. (R378, R379, R380, R381, R382,
R383) On a released module. LEASE_RENEW by a holder at work records the lease as renewed now, and nothing else.
LEASE_REVOKE of a recorded lease of a holder at work, and WATCHDOG_RESET of a running Stone core, bring the counter
past the time that was allowed and reset the holder: a Stone core is in reset, or held after two earlier resets within
a second, with one reset counted; a codec pair goes out of service and the revocation is counted and named. HEARTBEAT
notes the beat of a running core. STONE_CORE_RESTART brings a core that is in reset back to work, and
UNIT_RETURN_TO_SERVICE a unit of another kind that is ready. UNIT_RESET whose checks pass puts the unit out of
service. HUSK_TIMER_EXPIRE makes the module FATAL, without a renewal 10 ms later, and leaves windows, sequences and
memory; accesses that waited for a slice are answered as FATAL answers them. -/
def Obligations.LeasesWatchdogsAndUnitResets : Prop :=
  ∀ (w : Fin 16) (n : U32) (c : Fin 8) (cls holder res kind index : Nat) (un : Bool) (r : Taken) (s : State),
    (s.released = true →
      (leaseTicks cls ≠ none → s.leaseTimed { cls := cls, holder := holder, res := res, renewed := s.now } = true →
        ∃ t, exec (.leaseRenew cls holder res) s = .next t ∧
          t.ctl.leases.filter (fun l => l.is cls holder res) = [{ cls := cls, holder := holder, res := res, renewed := s.now }] ∧
          t.ctl.leases.filter (fun l => !l.is cls holder res) = s.ctl.leases.filter (fun l => !l.is cls holder res) ∧
          t = { s with ctl := { s.ctl with leases := t.ctl.leases } }) ∧
      (∀ l d, s.ctl.leases.find? (fun l => l.is cls holder res) = some l → leaseTicks cls = some d → s.leaseTimed l = true →
        s.ctl.running = true →
        ∃ t, exec (.leaseRevoke cls holder res) s = .next t ∧ t.now = max s.now (l.renewed + d + 1) ∧
          t.ctl.leases.any (fun l => l.is cls holder res) = false ∧
          (cls = 5 → t.unitUp 5 holder = false ∧ t.ctl.revoked = satAdd 32 s.ctl.revoked 1 ∧ t.ctl.revClass = 5 ∧
            t.ctl.revIndex = holder) ∧
          (cls ≠ 5 → (t.core holder).resets = satAdd 16 (s.core holder).resets 1 ∧
            (t.core holder).state = if 2 ≤ ((s.core holder).resetTimes.filter (fun x => decide (t.now ≤ x + 100000000))).length
              then 3 else 2)) ∧
      ((s.core c).state = 1 →
        (∃ t, exec (.heartbeat c) s = .next t ∧ t.core c = { s.core c with lastBeat := s.now } ∧
          (∀ o, o ≠ c.val → t.core o = s.core o) ∧ t = { s with ctl := { s.ctl with cores := t.ctl.cores } }) ∧
        (s.ctl.running = true →
          ∃ t, exec (.watchdogReset c) s = .next t ∧ t.now = max s.now ((s.core c).lastBeat + 400000) ∧
            (t.core c).resets = satAdd 16 (s.core c).resets 1 ∧ (∀ o, o ≠ c.val → t.core o = s.core o) ∧
            (t.core c).state = if 2 ≤ ((s.core c).resetTimes.filter (fun x => decide (t.now ≤ x + 100000000))).length
              then 3 else 2)) ∧
      ((s.core c).state ≠ 1 → exec (.heartbeat c) s = .next s ∧ exec (.watchdogReset c) s = .next s) ∧
      ((s.core c).state = 2 →
        ∃ t, exec (.stoneCoreRestart c) s = .next t ∧ t.core c = { s.core c with state := 1, lastBeat := s.now } ∧
          t.unitUp 1 c = true ∧ (∀ o, o ≠ c.val → t.core o = s.core o) ∧ t.mem = s.mem ∧ t.seqs = s.seqs) ∧
      (s.unitUp kind index = false → kind ≠ 1 → (kind = 7 → (s.vinePort index).state ≠ 1) →
        (kind = 8 → (s.punPort index).resetAt = none) →
        ∃ t, exec (.unitReturnToService kind index) s = .next t ∧ t.unitUp kind index = true ∧
          (∀ k i, (k, i) ≠ (kind, index) → t.unitUp k i = s.unitUp k i) ∧ t.mem = s.mem ∧ t.seqs = s.seqs)) ∧
    (Ready 4 w n.toNat r s → firstFail (s.unitResetChecks w r) = none →
      ∃ t, exec (.unitReset w n) s = .next t ∧ t.unitUp (r.at 0x20 1) (r.at 0x21 1) = false ∧ t.boot = s.boot) ∧
    (s.live = true → ∃ v, exec (.huskTimerExpire un) s = .next (serveWaiting v) ∧ v.boot = { s.boot with stage := 10 } ∧
      v.mem = s.mem ∧ v.seqs = s.seqs ∧ v.wins = s.wins ∧
      (s.ctl.running = true → v.now = if un = true then s.now else s.now + 1000000) ∧
      (s.host.held = [] → s.vine.collects = [] → exec (.huskTimerExpire un) s = .next v))

/-- Punnet ports are bound, queried, retired, filled, emptied and timed out, and their commands complete. (R320, R321,
R322, R323, R329, R330, R331, R332, R333, R334, R450) PUNNET_BIND of a punnet that fits, with an identity that
verifies, empties the port's namespace and makes it BOUND, or READ_ONLY for a worn punnet; with one that does not it
answers SIG_INVALID with the stage code; PUNNET_QUERY answers with the port as it stood when the record was taken.
PUNNET_RETIRE DRAIN leaves the parks of a working port and makes it RETIRING, or RETIRED without parks; NOW, with
every park durable and unread, ends them all. On a released module: PUNNET_INSERT makes an EMPTY port PRESENT with its
link; PUNNET_REMOVAL makes it EMPTY and PUNNET_READY_TIMEOUT FAILED, with no park left on it; PUNNET_CMD_TIMEOUT
aborts the command after its 2 s and counts an error; PUNNET_ABORT_TIMEOUT resets the controller;
PUNNET_CONTROLLER_READY in time ends the reset. NVME_COMPLETION of an aborted command, or of one of several that carry
a block, only takes it off; of the last Write of a block with success stores it; with an error counts it. WEAR_POLL,
60 s after the last one, keeps the larger count of bytes written. -/
def Obligations.PunnetPortsBindRetireAndFail : Prop :=
  ∀ (w : Fin 16) (n : U32) (p : Fin 4) (f : PunnetFacts) (rate width cid units : Nat) (st : BitVec 15) (ro : Bool) (r : Taken)
    (s : State),
    (ReadyInTurn 0x70 w n.toNat r s → (s.punPort (r.at 0x20 1)).state ≠ 0 → (s.punPort (r.at 0x20 1)).width ≠ 0 →
      (s.punPort (r.at 0x20 1)).works = false → punnetFits f = true →
      (r.at 0x28 8 = 0 ∨ r.at 0x28 8 = punnetPrint f) →
      match s.punnetIdFault f with
      | some c => exec (.punnetBind w n f) s =
          .next (complete w r.n (ans 0x0401 c) (punError (r.at 0x20 1) 5 none (noteSigFail c s)))
      | none => ∃ a u, exec (.punnetBind w n f) s = .next (complete w r.n (done a) u) ∧
        (u.punPort (r.at 0x20 1)).state = (if (u.punPort (r.at 0x20 1)).usedBp = 10000 ∨ f.mediaReadOnly = true then 3 else 2) ∧
        (u.punPort (r.at 0x20 1)).fingerprint = punnetPrint f ∧ (u.punPort (r.at 0x20 1)).lbas = f.lbas ∧
        (u.punPort (r.at 0x20 1)).flash = [] ∧ (u.punPort (r.at 0x20 1)).cmds = [] ∧
        (u.punPort (r.at 0x20 1)).written = f.dataUnitsWritten * 512000 ∧
        (∀ q, q ≠ r.at 0x20 1 → u.punPort q = s.punPort q) ∧ u = { s with pun := u.pun, log := u.log, host := u.host }) ∧
    (Ready 0x71 w n.toNat r s → exec (.punnetQuery w n) s = .next (complete w r.n (done (padTo 20 r.shown)) s)) ∧
    ((s.candidate w).opcode = 0x71 → (s.candidate w).shown = s.punnetResult ((s.candidate w).at 0x20 1)) ∧
    (Ready 0x72 w n.toNat r s → (s.punPort (r.at 0x20 1)).works = true →
      (r.at 0x21 1 = 0 → s.parksOn (r.at 0x20 1) ≠ [] →
        ∃ t, exec (.punnetRetireDrain w n) s = .next t ∧ (t.punPort (r.at 0x20 1)).state = 4 ∧ t.pun.parks = s.pun.parks ∧
          (t.punPort (r.at 0x20 1)).retiring = (s.punPort (r.at 0x20 1)).retiring ++ [(w.val, r.n, 0)]) ∧
      (r.at 0x21 1 = 0 → s.parksOn (r.at 0x20 1) = [] →
        ∃ t, exec (.punnetRetireDrain w n) s = .next t ∧ (t.punPort (r.at 0x20 1)).state = 5 ∧ t.pun.parks = s.pun.parks) ∧
      (r.at 0x21 1 = 1 → (∀ k ∈ s.parksOn (r.at 0x20 1), k.state = 4 ∧ s.readBefore r k.handle = false) →
        ∃ t, exec (.punnetRetireNow w n) s = .next t ∧ (t.punPort (r.at 0x20 1)).state = 5 ∧ t.parksOn (r.at 0x20 1) = [])) ∧
    (s.released = true →
      ((s.punPort p).state = 0 → ∃ t, exec (.punnetInsert p rate width) s = .next t ∧ (t.punPort p).state = 1 ∧
        p.val ∈ t.boot.present ∧
        ((1 ≤ rate ∧ rate ≤ 6 ∧ (width = 1 ∨ width = 2 ∨ width = 4)) →
          (t.punPort p).rate = rate ∧ (t.punPort p).width = width) ∧
        (∀ q, q ≠ p.val → t.punPort q = s.punPort q) ∧
        t = { s with boot := { s.boot with present := t.boot.present }, pun := t.pun, log := t.log, host := t.host }) ∧
      ((s.punPort p).state ≠ 0 → ∃ t, exec (.punnetRemoval p) s = .next t ∧ (t.punPort p).state = 0 ∧
        (t.punPort p).width = 0 ∧ t.parksOn p = [] ∧ p.val ∉ t.boot.present) ∧
      (∀ c, s.nvme p cid = some c → c.aborted = none → (s.punPort p).resetAt = none → (s.punPort p).state ≠ 4 →
        s.ctl.running = true → (s.punPort p).queued c = false →
        ∃ t x, exec (.punnetCmdTimeout p cid) s = .next t ∧ t.now = max s.now (c.issued + 200000000) ∧
          x ∈ (t.punPort p).cmds ∧ x.cid = cid ∧ x.aborted = some t.now ∧
          (t.punPort p).errCount = satAdd 16 (s.punPort p).errCount 1 ∧ (t.punPort p).errKind = 2) ∧
      (∀ a, (s.punPort p).cmds.findSome? (fun c => c.aborted) = some a → (s.punPort p).resetAt = none → (s.punPort p).state ≠ 4 →
        s.ctl.running = true →
        ∃ t, exec (.punnetAbortTimeout p) s = .next t ∧ t.now = max s.now (a + 50000000) ∧ (t.punPort p).resetAt = some t.now) ∧
      (∀ a, (s.punPort p).resetAt = some a → s.now < a + 1000000000 →
        ∃ t, exec (.punnetControllerReady p) s = .next t ∧ t.punPort p = { s.punPort p with
            resetAt := none, cmds := (s.punPort p).cmds.map (fun c => { c with issued := s.now }) } ∧
          (∀ q, q ≠ p.val → t.punPort q = s.punPort q) ∧ t = { s with pun := t.pun }) ∧
      (∀ a, (s.punPort p).resetAt = some a → s.ctl.running = true →
        ∃ t, exec (.punnetReadyTimeout p) s = .next t ∧ t.now = max s.now (a + 1000000000) ∧ (t.punPort p).state = 6 ∧
          (t.punPort p).cmds = [] ∧ (t.punPort p).resetAt = none ∧ t.parksOn p = []) ∧
      (∀ c, s.nvme p cid = some c → (s.punPort p).resetAt = none → (s.punPort p).queued c = false →
        (∀ x, x ∈ (s.punPort p).cmds ∧ x.cid ≠ cid ∧ x.opcode = c.opcode ∧ x.handle = c.handle ∧ x.idx = c.idx ∨
            c.aborted ≠ none →
          (c.aborted = none → st.toNat % 2048 = 0) → ∃ t, exec (.nvmeCompletion p cid st) s = .next t ∧
          (t.punPort p).cmds.map (fun x => (x.cid, x.opcode, x.handle, x.idx, x.aborted)) =
            ((s.punPort p).cmds.filter (fun x => x.cid != cid)).map (fun x => (x.cid, x.opcode, x.handle, x.idx, x.aborted)) ∧
          (∀ q, q ≠ p.val → t.punPort q = s.punPort q) ∧ t.pun.parks = s.pun.parks ∧ t = { s with pun := t.pun }) ∧
        (∀ k b, c.aborted = none → st.toNat % 2048 = 0 → c.opcode = 1 → s.park c.handle = some k → k.block c.idx = some b →
          (∀ x ∈ (s.punPort p).cmds, x.cid = cid ∨ x.opcode ≠ 1 ∨ x.handle ≠ c.handle ∨ x.idx ≠ c.idx) →
          ∃ t x, exec (.nvmeCompletion p cid st) s = .next t ∧ tget [] (t.punPort p).flash (b.lba.getD c.lba) = b.bytes ∧
            t.park c.handle = some x ∧ (∀ y ∈ x.blocks, y.idx = c.idx → y.acked = true) ∧ t.mem = s.mem) ∧
        (c.aborted = none → st.toNat % 2048 ≠ 0 → ∃ t, exec (.nvmeCompletion p cid st) s = .next t ∧
          (t.punPort p).errCount = satAdd 16 (s.punPort p).errCount 1 ∧ (t.punPort p).errKind = 1 ∧
          (t.punPort p).errStatus = st.toNat)) ∧
      ((s.punPort p).works = true → s.ctl.running = true → ∃ t, exec (.wearPoll p units ro) s = .next t ∧
        t.now = max s.now ((s.punPort p).polledAt + 6000000000) ∧
        (t.punPort p).written = max (units * 512000) (s.punPort p).written ∧ (ro = true → (t.punPort p).wear = 3) ∧
        (∀ q, q ≠ p.val → t.punPort q = s.punPort q) ∧
        t = { s with ctl := t.ctl, pwr := t.pwr, pun := t.pun, log := t.log, host := t.host }) ∧
      ((s.punPort p).works = false → exec (.wearPoll p units ro) s = .next s))

/-- Vine ports train, carry frames and go down; a memory channel that fails makes its stack DEGRADED. (R122, R336, R339,
R340, R341) On a released module. VINE_TRAIN of an enabled port in DOWN or TRAINING gives UP with 8 lanes, DEGRADED
with 4, DOWN where neither half passes and LOOPBACK on its own serial; VINE_TRAIN_RETRY of a DOWN port trains it 100
ms after it last tried; VINE_DEAD_TIMEOUT of a port that is up and silent, or whose replay has failed sixteen times,
takes it DOWN with error kind 2 or 1; VINE_CREDIT_TIMEOUT of a channel whose frames wait takes it DOWN with kind 7 and
revokes the credit lease. VINE_FRAME of an uncorrectable codeword only asks for a replay; the next frame in order is
taken. Other ports stay as they were. CHANNEL_FAILURE marks the channel and takes a READY stack to DEGRADED. -/
def Obligations.VineLinksTrainAndFail : Prop :=
  ∀ (p : Fin 12) (vc : Fin 3) (serial : U64) (peer : Option Nat) (lanes : BitVec 8) (f : VineFrame) (i : Fin 16) (c : Fin 32) (s : State),
    s.released = true →
    (s.vine.en = true → (s.vinePort p).state ≤ 1 →
      ∃ t, exec (.vineTrain p serial peer lanes) s = .next t ∧ (∀ q, q ≠ p.val → t.vinePort q = s.vinePort q) ∧
        (serial = Config.serial → (t.vinePort p).state = 4 ∧ t.vine.errKind = 10) ∧
        (serial ≠ Config.serial →
          (lanes = 0xFF#8 → (t.vinePort p).state = 2 ∧ (t.vinePort p).width = 8) ∧
          ((lanes = 0x0F#8 ∨ lanes = 0xF0#8) → (t.vinePort p).state = 3 ∧ (t.vinePort p).width = 4) ∧
          (lanes ≠ 0xFF#8 → lanes ≠ 0x0F#8 → lanes ≠ 0xF0#8 → (t.vinePort p).state = 0 ∧ (t.vinePort p).width = 0))) ∧
    (s.vine.en = true → (s.vinePort p).state = 0 → s.ctl.running = true →
      ∃ t, exec (.vineTrainRetry p) s = .next t ∧ t.now = max s.now ((s.vinePort p).triedAt + 10000000) ∧
        (t.vinePort p).state = 1 ∧ (∀ q, q ≠ p.val → t.vinePort q = s.vinePort q)) ∧
    ((s.vinePort p).up = true →
      (s.ctl.running = true → ∃ t, exec (.vineDeadTimeout p false) s = .next t ∧
        t.now = max s.now ((s.vinePort p).heardAt + 1000 * s.vine.dead10us) ∧ (t.vinePort p).state = 0 ∧ t.vine.errKind = 2 ∧
        t.vine.errPort = p.val ∧ (∀ q, q ≠ p.val → t.vinePort q = s.vinePort q)) ∧
      (17 ≤ (s.vinePort p).replayFails → ∃ t, exec (.vineDeadTimeout p true) s = .next t ∧ (t.vinePort p).state = 0 ∧
        t.vine.errKind = 1 ∧ (∀ q, q ≠ p.val → t.vinePort q = s.vinePort q)) ∧
      ((s.vinePort p).replayFails < 17 → exec (.vineDeadTimeout p true) s = .next s) ∧
      (tget 0 (s.vinePort p).waiting vc ≠ 0 → ∃ t, exec (.vineCreditTimeout p vc) s = .next t ∧ (t.vinePort p).state = 0 ∧
        t.vine.errKind = 7 ∧ t.ctl.revoked = satAdd 32 s.ctl.revoked 1 ∧ t.ctl.revClass = 8 ∧ t.ctl.revIndex = p.val) ∧
      (f.correctable = false → ∃ t, exec (.vineFrame p f) s = .next t ∧
        t.vinePort p = { s.vinePort p with nakSent := true } ∧ (∀ q, q ≠ p.val → t.vinePort q = s.vinePort q)) ∧
      (f.correctable = true → f.idle = false → (f.fseq + 4096 - (s.vinePort p).rxSeq) % 4096 = 1 →
        ∃ t, exec (.vineFrame p f) s = .next t ∧ (t.vinePort p).rxSeq = f.fseq % 4096 ∧ (t.vinePort p).nakSent = false ∧
          (t.vinePort p).heardAt = s.now ∧ (t.vinePort p).state = (s.vinePort p).state ∧
          (∀ q, q ≠ p.val → t.vinePort q = s.vinePort q))) ∧
    (bit (s.stack i).chMap c = false → ∃ t, exec (.channelFailure i c) s = .next t ∧
      t.stack i = { s.stack i with
        failedCh := setBit (s.stack i).failedCh c true, state := if (s.stack i).state = 1 then 2 else (s.stack i).state } ∧
      (∀ j, j ≠ i.val → t.stack j = s.stack j) ∧ t = { s with mem := { s.mem with hbm := t.mem.hbm } })

/-- Elections, confirmations, joins, leaves and membership leases change epoch, role and members. (R349, R351, R352, R360,
R361, R362, R363, R364) Messages are taken as met whole. A CLAIM of the epoch being elected joins the claims; at
ELECTION_WINDOW_END the best claim's member proposes the epoch, and ELECTION_RETRY claims again. A CONFIRM of a later
epoch that names this module is accepted once, a CONFIRM_ACK counts at the candidate, and QUORUM_TIMEOUT makes it stem
where more than half of the counted members have answered, else gives up the confirmation. A module that is confirmed
in the place of another stem, with no share unfinished, takes its own counter as the ORIGIN of the budgets. KEY from
the accepted candidate makes the module a member of that epoch. LIVE renews its sender's lease. MEMBER_LEASE_EXPIRE
and LEAVE make the stem propose an epoch without the member, whose replica's sequences are faulted; STEM_LEASE_EXPIRE
starts an election, and STEM_DEMOTE takes the role away. VINE_JOIN starts one too, VINE_JOIN_TIMEOUT gives up;
VINE_ROLE sets the priority or elects; VINE_LEAVE leaves alone at once, a member as LEAVING. -/
def Obligations.GroupsElectAndChange : Prop :=
  ∀ (m : VineMsg) (w : Fin 16) (n : U32) (src : Src) (r : Taken) (prio size mem : Nat) (serial : U64) (members mirror : List Nat)
    (secret : List Byte) (s : State),
    (∀ e, Opens m 1 s → s.vine.electing = some e → m.epoch = e →
      ∃ t, exec (.claim m prio serial) s = .next t ∧ t.vine.electing = some e ∧
        t.vine.claims = s.vine.claims.filter (fun c => c.1 != m.src) ++ [(m.src, prio, serial.toNat)]) ∧
    (s.released = true → s.ctl.running = true → ∀ e, s.vine.electing = some e → s.vine.confirmAt = none →
      (∀ c, bestClaim s.vine.claims = some c → c.1 = s.vine.member →
        ∃ t, exec .electionWindowEnd s = .next t ∧ t.now = max s.now (s.vine.electAt + 100000 * s.vine.electMs) ∧
          t.vine.electing = some e ∧ t.vine.confirmAt = some t.now ∧ t.vine.acks = [s.vine.member] ∧ t.vine.acked = e ∧
          t.seqs = s.seqs ∧ t.mem = s.mem) ∧
      (∃ t, exec .electionRetry s = .next t ∧ t.now = max s.now (s.vine.electAt + 200000 * s.vine.electMs) ∧
        t.vine.electing = some (s.vine.seen + 1) ∧ t.vine.claims = [(s.vine.member, s.vine.prio, Config.serial.toNat)] ∧
        t.vine.elections = satAdd 7 s.vine.elections 1 ∧ t.seqs = s.seqs)) ∧
    (Opens m 2 s → s.vine.epoch < m.epoch → members.contains s.vine.member = true → s.vine.acked < m.epoch →
      ∃ t, exec (.confirm m members size) s = .next t ∧ t.vine.acked = m.epoch ∧ t.vine.ackedTo = m.src ∧
        t.vine.named = members ∧ t.vine.namedSize = size ∧ t.vine.electing = none ∧ t.vine.state = s.vine.state ∧ t.seqs = s.seqs) ∧
    (Opens m 3 s → s.vine.confirmAt ≠ none → s.vine.electing = some m.epoch →
      ∃ t, exec (.confirmAck m mirror) s = .next t ∧ m.src ∈ t.vine.acks ∧ (∀ a ∈ s.vine.acks, a ∈ t.vine.acks)) ∧
    (s.released = true → s.ctl.running = true → ∀ e a, s.vine.electing = some e → s.vine.confirmAt = some a →
      (s.countedMembers.length < 2 * (s.vine.acks.filter s.countedMembers.contains).length →
        ∃ t, exec .quorumTimeout s = .next t ∧ t.vine.state = 3 ∧ t.vine.epoch = e ∧ t.vine.stem = s.vine.member ∧
          t.vine.members = s.vine.acks ∧ t.vine.size = s.vine.acks.length ∧ t.vine.electing = none ∧
          (2 ≤ s.vine.state → s.vine.stem ≠ s.vine.member → s.vine.steps = [] → t.seqs.origin = t.now)) ∧
      (2 * (s.vine.acks.filter s.countedMembers.contains).length ≤ s.countedMembers.length →
        ∃ t, exec .quorumTimeout s = .next t ∧ t.vine = { s.vine with confirmAt := none, acks := [], claims := [] } ∧
          t.seqs = s.seqs ∧ t.now = max s.now (a + 100000 * s.vine.electMs))) ∧
    (Opens m 4 s → s.vine.epoch < m.epoch → m.epoch = s.vine.acked → m.src = s.vine.ackedTo → m.src ≠ s.vine.member →
      s.vine.leaving = none →
      ∃ t, exec (.key m secret) s = .next t ∧ t.vine.state = 2 ∧ t.vine.epoch = m.epoch ∧ t.vine.stem = m.src ∧
        t.vine.secret = secret ∧ t.vine.members = s.vine.named ∧ t.vine.size = s.vine.namedSize) ∧
    (Opens m 5 s → ∃ t, exec (.live m) s = .next t ∧ tget 0 t.vine.heard m.src = s.now ∧
      t.vine.stemHeard = (if m.src = s.vine.stem then s.now else s.vine.stemHeard) ∧ t.seqs = s.seqs ∧ t.mem = s.mem) ∧
    (s.released = true → s.ctl.running = true → s.vine.state = 3 → mem ∈ s.vine.members → mem ≠ s.vine.member →
      ∃ t, exec (.memberLeaseExpire mem) s = .next t ∧ t.now = max s.now (tget 0 s.vine.heard mem + s.memberLease) ∧
        t.vine.electing = some (s.vine.seen + 1) ∧ t.vine.named = serase mem s.vine.members ∧ t.vine.confirmAt = some t.now ∧
        ∀ q, q % s.shapeR = s.replicaOf mem → (t.seq q).state ≠ 0 → (t.seq q).faulted = true) ∧
    (s.released = true → s.ctl.running = true → (s.vine.state = 2 ∨ s.vine.state = 5) →
      ∃ t, exec .stemLeaseExpire s = .next t ∧ t.now = max s.now (s.vine.stemHeard + s.memberLease) ∧
        t.vine.electing = some (s.vine.seen + 1) ∧ t.vine.claims = [(s.vine.member, s.vine.prio, Config.serial.toNat)] ∧
        t.vine.state = s.vine.state) ∧
    (∀ a, s.released = true → s.vine.state = 3 → s.demoteAt = some a →
      ∃ t, exec .stemDemote s = .next t ∧ t.vine.state = 4 ∧ t.seqs.chunks = [] ∧ (s.ctl.running = true → t.now = max s.now a)) ∧
    (∀ d u, Ready 0x60 w n.toNat r s → s.inGroup = false → ((s.model (r.at 0x2F 1)).state = 1 ∨ (s.model (r.at 0x2F 1)).state = 2) →
      r.at 0x30 2 + r.at 0x32 2 ≤ (s.model (r.at 0x2F 1)).layers →
      readSource (r.at 0x34 1 == 1) (r.at 0x38 8) 2048 src s = (.bytes d, u) →
      ∃ t, exec (.vineJoin w n src) s = .next t ∧ t.vine.state = 1 ∧ t.vine.groupId = r.at 0x20 8 ∧ t.vine.member = r.at 0x28 2 ∧
        t.vine.prio = r.at 0x2E 1 ∧ t.vine.joining = some (w.val, r.n, u.now) ∧ t.vine.electing ≠ none ∧ t.seqs = u.seqs) ∧
    (∀ x, s.released = true → s.vine.joining = some x →
      ∃ t, exec .vineJoinTimeout s = .next t ∧ t.vine.state = 0 ∧ t.vine.joining = none ∧ t.seqs.groupSize = 1) ∧
    (Ready 0x61 w n.toNat r s → s.inGroup = true →
      (r.at 0x20 1 = 0 → exec (.vineRolePriority w n) s =
        .next (complete w r.n (done []) (s.setVine { s.vine with prio := r.at 0x21 1 }))) ∧
      (r.at 0x20 1 = 1 → ∃ u, exec (.vineRoleElect w n) s = .next (complete w r.n (done []) u) ∧
        u.vine.electing = some (s.vine.seen + 1) ∧ u.vine.state = s.vine.state ∧ u.seqs = s.seqs)) ∧
    (Ready 0x63 w n.toNat r s → s.inGroup = true →
      (r.at 0x20 1 = 0 →
        s.seqs.entries.any (fun e => e.2.state != 0 && e.1 % s.shapeR == s.replicaOf s.vine.member) = false →
        (s.vine.members.length ≤ 1 → ∃ t, exec (.vineLeaveDrain w n) s = .next t ∧ t.vine.state = 0 ∧ t.seqs.groupSize = 1) ∧
        (1 < s.vine.members.length → s.vine.state = 2 → ∃ t, exec (.vineLeaveDrain w n) s = .next t ∧ t.vine.state = 5 ∧
          t.vine.leaving = some (w.val, r.n) ∧ t.seqs = s.seqs)) ∧
      (r.at 0x20 1 = 1 →
        (s.vine.members.length ≤ 1 → s.vine.state ≠ 3 → ∃ t, exec (.vineLeaveForce w n) s = .next t ∧ t.vine.state = 0 ∧
          t.seqs.groupSize = 1) ∧
        (1 < s.vine.members.length → s.vine.state = 2 → ∃ t, exec (.vineLeaveForce w n) s = .next t ∧ t.vine.state = 5 ∧
          t.vine.leaving = some (w.val, r.n) ∧ t.seqs = s.seqs))) ∧
    (Opens m 0x7F s → s.vine.state = 3 → m.src ∈ s.vine.members →
      ∃ t, exec (.leave m) s = .next t ∧ t.vine.electing = some (s.vine.seen + 1) ∧ t.vine.named = serase m.src s.vine.members ∧
        ∀ q, q % s.shapeR = s.replicaOf m.src → (t.seq q).state ≠ 0 → (t.seq q).faulted = true)

/-- What a hand-off of a step, a commit, a fence, heat or bulk data does where it arrives. (R349, R353, R354, R355, R356,
R357, R358, R359, R410) Messages are taken as met whole. At a member: PLAN of a step gives its share that step, or is
held while no work starts; ACT gives a share its hidden vectors, PART a widen-set sum; COMMIT of the next ordinal sets
the boundary count, advances the sequence of each token that it names and ends the share; FENCE_REQ of its stem holds
its windows and FENCE_DONE ends that. At the stem: TOKENS gives a FORMED step its tokens, FAULT its fault, and with
the word of log entry 37 for poisoned KV the mark of its sequence too, COMMIT_ACK the sequences without a page; HOLD
and COOL add and take away the member's HOT stacks; STOP ends the current step of the replica in a null boundary. BULK
data that is not the last joins a COLLECT. -/
def Obligations.HandOffsArrive : Prop :=
  ∀ (m : VineMsg) (id model force limit wide layer mat rank status stack : Nat) (pairs : List (Nat × Nat)) (en : Bool) (key : U32)
    (hidden : List (List F32)) (sums : List F32) (toks : List SlotToken) (ord stamp : U64) (outs qs : List Nat)
    (charges : List (Nat × Nat)) (w : Fin 16) (n : U32) (data : List Byte) (s : State),
    (Opens m 0x10 s → s.vine.state = 2 → m.src = s.vine.stem →
      (s.workStarts = true → s.vine.plans = [] →
        ∃ t x, exec (.plan m id model false pairs [] en key force limit) s = .next t ∧ t.share id = some x ∧ x.model = model ∧
          x.planned = true ∧ x.nums = pairs.map (·.1) ∧ x.slots.map (·.q) = pairs.map (·.2) ∧ x.layer = s.vine.firstLayer ∧
          t.seqs = s.seqs ∧ t.mem = s.mem) ∧
      (s.workStarts = false →
        ∃ t p, exec (.plan m id model false pairs [] en key force limit) s = .next t ∧ t.vine.plans = s.vine.plans ++ [p] ∧
          p.id = id ∧ p.pairs = pairs ∧ t.vine.steps = s.vine.steps ∧ t.seqs = s.seqs)) ∧
    (∀ y, Opens m 0x11 s → s.share id = some y →
      ∃ t x, exec (.act m id hidden wide) s = .next t ∧ t.share id = some x ∧ x.wide = y.wide + wide ∧ x.layer = y.layer ∧
        x.input = some (chunksOf (max 1 (s.model s.vine.model).hidden) hidden.flatten) ∧ t.seqs = s.seqs) ∧
    (∀ y, Opens m 0x12 s → s.share id = some y →
      ∃ t, exec (.part m id layer mat rank sums) s = .next t ∧
        t.share id = some { y with parts := y.parts ++ [(layer, mat, rank, sums)] } ∧ t.seqs = s.seqs) ∧
    (∀ p, Opens m 0x13 s → s.vine.state = 3 → (∀ c ∈ s.seqs.chunks, c.id ≠ id) → s.step id = some p → p.state = 2 →
      ∃ t, exec (.tokens m id toks wide) s = .next t ∧ t.step id = some { p with toks := some toks, wideLayers := wide } ∧
        t.seqs.entries = s.seqs.entries) ∧
    (∀ p, Opens m 0x14 s → s.vine.state = 3 → id < 2 ^ 63 → (∀ c ∈ s.seqs.chunks, c.id ≠ id) → s.step id = some p → p.state = 2 →
      p.fault = none →
      ((status ≠ 0x303 ∨ stack = 0) → ∃ t, exec (.fault m id status layer stack) s = .next t ∧
        t.step id = some { p with fault := some (status, if status = 0x306 then stack else layer), hold := none } ∧
        t.seqs.entries = s.seqs.entries) ∧
      (∀ q pos, status = 0x303 → stack = 1 + pos * 4096 + q → q < 4096 →
        ∃ t, exec (.fault m id status layer stack) s = .next t ∧
          t.step id = some { p with fault := some (status, layer), hold := none } ∧
          ((s.seq q).state ≠ 0 → t.seq q = { s.seq q with faulted := true, faultPos := pos }) ∧ ∀ x, x ≠ q → t.seq x = s.seq x)) ∧
    (Opens m 0x15 s → s.follows = true → m.src = s.vine.stem → s.vine.ordinal < ord.toNat → s.seqs.effects = [] →
      ∃ t, exec (.commit m ord stamp id outs toks charges) s = .next t ∧ t.vine.ordinal = ord.toNat ∧
        t.seqs.boundaryCnt = ord.toNat ∧
        ∀ h k a e, s.share id = some h → h.chunk = false → toks = [k] → (h.nums.zip h.slots).find? (fun x => x.1 == k.slot) = some (a, e) →
          (s.seq e.q).gen = e.gen →
          t.share id = none ∧ (t.seq e.q).len = (s.seq e.q).len + 1 ∧
            (t.seq e.q).pending = (if k.token = 0xFFFFFFFF#32 then none else some k.token.toNat) ∧
            ∀ q, q ≠ e.q → (t.seq q).len = (s.seq q).len) ∧
    (Opens m 0x16 s → s.vine.state = 3 → ∃ t, exec (.commitAck m ord qs) s = .next t ∧ (∀ q ∈ qs, q ∈ t.vine.lacking) ∧
      (∀ q ∈ s.vine.lacking, q ∈ t.vine.lacking) ∧ t.seqs = s.seqs) ∧
    (Opens m 0x20 s → s.follows = true → m.src = s.vine.stem →
      ∃ t, exec (.fenceReq m id) s = .next t ∧ t.seqs = s.seqs ∧ t.wins = s.wins ∧
        t.vine.fenceWaits = s.vine.fenceWaits ++ [{ fence := id, ordinals := s.openRecords, answered := false }]) ∧
    (Opens m 0x21 s → s.follows = true → m.src = s.vine.stem →
      ∃ t, exec (.fenceDone m id) s = .next t ∧ t.seqs = s.seqs ∧
        t.vine.fenceWaits = s.vine.fenceWaits.filter (fun f => f.fence != id)) ∧
    (Opens m 0x30 s → s.vine.state = 3 → ∃ t, exec (.hold m stack) s = .next t ∧ (m.src, stack) ∈ t.vine.held ∧
      (∀ h ∈ s.vine.held, h ∈ t.vine.held) ∧ t.seqs = s.seqs) ∧
    (Opens m 0x31 s → s.vine.state = 3 → ∃ t, exec (.cool m) s = .next t ∧
      t.vine.held = s.vine.held.filter (fun h => h.1 != m.src) ∧ t.seqs = s.seqs) ∧
    (∀ p, Opens m 0x32 s → s.vine.state = 3 → s.vine.collects = [] →
      s.seqs.steps.find? (fun p => p.state == 2 && p.slots.any (fun e => e.q % s.shapeR == s.replicaOf m.src)) = some p →
      ∃ t, exec (.stop m stack) s = .next t ∧ t.step p.id = none ∧ t.seqs.boundaryCnt = (s.seqs.boundaryCnt + 1) % 2 ^ 64) ∧
    (∀ c, Opens m 0x40 s → data ≠ [] → s.collect w n.toNat = some c →
      (∃ x ∈ c.sources, x ≠ m.src ∧ ∀ g ∈ c.got, g.1 ≠ x) →
      ∃ t, exec (.bulk m w n data) s = .next t ∧ t.collect w n.toNat = some { c with got := c.got ++ [(m.src, data)] } ∧
        t.mem = s.mem)

/-- COLLECT on a module in no group reads its SRC, combines it and writes its DST. (R185, R189, R357, R370) On a module in
no group, the only member of the set, with the record's checks passed, an SRC that reads clean and a DST that can be
written: the five operations complete their record with one member and none that failed, after DST has received the
operation's value. For BROADCAST and GATHER the value is SRC itself; for SUM each word is the sum of the octet tree
with the one value in lane 0; for MAX and MIN it is what R189 picks from one candidate, with its rank. -/
def Obligations.CollectivesOfOneMember : Prop :=
  ∀ (w : Fin 16) (n : U32) (errs : List SymErr) (r : Taken) (c : Collect) (d out : List Byte) (s : State),
    (CollectsAlone 0 w n.toNat errs r c d out s → out = d ∧
      ∃ t, exec (.collectBroadcast w n errs) s = .next t ∧ CollectDone w errs r c out s t) ∧
    (CollectsAlone 1 w n.toNat errs r c d out s →
      out = f32Bytes ((List.range (c.len / 4)).map (fun i => octetTree f32Add
        (fun l => laneKeep (2 ^ s.press.lenLog2) (laneOf l [(f32sOf d).getD i 0])))) ∧
      ∃ t, exec (.collectSum w n errs) s = .next t ∧ CollectDone w errs r c out s t) ∧
    (CollectsAlone 2 w n.toNat errs r c d out s →
      ∃ t, exec (.collectMax w n errs) s = .next t ∧ CollectDone w errs r c out s t) ∧
    (CollectsAlone 3 w n.toNat errs r c d out s →
      ∃ t, exec (.collectMin w n errs) s = .next t ∧ CollectDone w errs r c out s t) ∧
    (CollectsAlone 4 w n.toNat errs r c d out s → out = d ∧
      ∃ t, exec (.collectGather w n errs) s = .next t ∧ CollectDone w errs r c out s t)

/-- The stages of bring-up follow one another, loss of power and resets restart them, and the management and scan ports
act. (R396, R400, R421, R422, R424, R426, R427, R428, R432, R451, R455, R457) PWR_EN_RISE notes the pin, and with the
input in range RAILS starts. PWR_EN_FALL and an input out of range leave the reset state but for flash, fuses, seated
punnets and the handles issued, which name no park any more; MOD_RST does too and keeps the rails, so that bring-up
goes on at FUSES; RECOVERY_RESTART does so from RECOVERY. RAILS, FUSES, IMAGE, FIRMWARE, MEMORY, LINKS and RELEASE
carry the stage on when what they check is good and halt the module, or enter RECOVERY, with their failure code when
it is not; that MEMORY has 336.721 ms, training and initialisation together, is the model's reading (DEDUCED, log
entry 42). MGMT_WRITE sets WATTS within its range and nothing else. EXTEST, INTEST and CLAMP become the instruction of
the scan port while MOD_RST_N is low, and BYPASS passes one bit on. -/
def Obligations.BringUpAndPins : Prop :=
  ∀ (b ok : Bool) (us off a1 a2 : Nat) (v : U32) (tr : List StackTraining) (vs : List Nat)
    (ps : List (Option (Nat × Nat × PunnetFacts))) (s : State),
    (∃ t, exec (.pwrEnRise b) s = .next t ∧ t = { s with boot := { s.boot with
      pwrEn := true, railsUp := if b = true ∧ s.boot.stage = 1 then true else s.boot.railsUp } }) ∧
    (∀ c, (c = .pwrEnFall ∨ c = .inputUndervoltage ∨ c = .inputOvervoltage ∨ c = .modRst) →
      ∃ t, exec c s = .next t ∧ t.mem = State.reset.mem ∧ t.seqs = State.reset.seqs ∧ t.wins = [] ∧ t.ctl = State.reset.ctl ∧
        t.sec.slotA = s.sec.slotA ∧ t.sec.slotB = s.sec.slotB ∧ t.sec.sel0 = s.sec.sel0 ∧ t.sec.sel1 = s.sec.sel1 ∧
        t.sec.fusedSvn = s.sec.fusedSvn ∧ t.boot.present = s.boot.present ∧ t.pending = s.pending ∧
        t.pun.parks = [] ∧ t.pun.nextHandle = s.pun.nextHandle ∧ (∀ k ∈ s.pun.parks, (k.handle, k.tenant) ∈ t.pun.ended) ∧
        (c = .modRst → t.boot.stage = (if s.boot.pg = true then 2 else 1) ∧ t.boot.pg = s.boot.pg ∧ t.boot.rstLow = true) ∧
        (c ≠ .modRst → t.boot.stage = 1 ∧ t.boot.pg = false ∧ t.boot.pwrEn = if c = .pwrEnFall then false else s.boot.pwrEn)) ∧
    (∀ a, s.boot.stage = 8 → s.sec.restartAt = some a →
      ∃ t, exec .recoveryRestart s = .next t ∧ t.boot.stage = (if s.boot.pg = true then 2 else 1) ∧ t.boot.pg = s.boot.pg ∧
        t.mem = State.reset.mem ∧ t.sec.sel0 = s.sec.sel0 ∧ t.sec.sel1 = s.sec.sel1) ∧
    (s.boot.stage = 1 → s.boot.railsUp = true → ∃ t, exec (.rails ok us) s = .next t ∧ t = { s with boot := t.boot } ∧
      (ok = true → us ≤ 20000 → t.boot.stage = 2 ∧ t.boot.pg = true) ∧
      ((ok = false ∨ 20000 < us) → t.boot.stage = 9 ∧ t.boot.fail = 1)) ∧
    (s.boot.stage = 2 → ∃ t, exec (.fuses b ok us) s = .next t ∧ t = { s with boot := t.boot, ctl := t.ctl } ∧
      (b = true → ok = true → us ≤ 2000 → t.boot.stage = 3 ∧ t.ctl = { s.ctl with running := true }) ∧
      (b = false → t.boot.stage = 9 ∧ t.boot.fail = 2) ∧
      (b = true → (ok = false ∨ 2000 < us) → t.boot.stage = 9 ∧ t.boot.fail = 3)) ∧
    (s.boot.stage = 3 →
      (ok = true → (s.sec.sel0.crcOk || s.sec.sel1.crcOk) = true → us ≤ 10000 → s.sec.selector.trial = false →
        ∃ t, exec (.image ok a1 a2 us) s = .next t ∧ t.mem = s.mem ∧
          (s.slotFault s.sec.selector.boot (if s.sec.selector.boot = 0 then a1 else a2) = none →
            t.boot.stage = 4 ∧ t.sec.slot = s.sec.selector.boot ∧ t.sec.trial = false ∧ t.sec.boots = s.sec.boots + 1) ∧
          (s.slotFault s.sec.selector.boot (if s.sec.selector.boot = 0 then a1 else a2) ≠ none →
            t.boot.stage = 8 ∧ t.boot.fail = 5)) ∧
      (ok = false → ∃ t, exec (.image ok a1 a2 us) s = .next t ∧ t.boot.stage = 8 ∧ t.boot.fail = 4)) ∧
    (s.boot.stage = 4 → ∃ t, exec (.firmware ok us) s = .next t ∧ t.host.configLive = true ∧
      (ok = true → us ≤ 50000 → t.boot.stage = 5 ∧ (∀ c, c < 8 → (t.core c).state = 1) ∧ t.zest.bank0 = t.zest.bank1 ∧
        t.zest.bank0.programs = zestPrograms) ∧
      ((ok = false ∨ 50000 < us) → t.boot.stage = 8 ∧ t.boot.fail = 6)) ∧
    (s.boot.stage = 5 → ∃ t, exec (.memory tr us) s = .next t ∧ (s.host.held = [] → s.vine.collects = [] → t.mem.cells = s.mem.cells) ∧
      (∀ i, i < 16 → (t.stack i).state = (if (tr.getD i StackTraining.absent).failed = true then 4
        else if StackTraining.outMask (tr.getD i StackTraining.absent) = 0 then 1 else 2)) ∧
      (t.plainChannels 0 ≠ 0 → us ≤ 336721 → t.boot.stage = 6) ∧
      ((t.plainChannels 0 = 0 ∨ 336721 < us) → t.boot.stage = 9 ∧ t.boot.fail = 7)) ∧
    (s.boot.stage = 6 → s.boot.linksDone = false → ∃ t, exec (.links vs ps us) s = .next t ∧ t.boot.linksDone = true ∧
      t.boot.stage = 6 ∧ ∀ p, p < 12 → (t.vinePort p).state = (if vs.getD p 0 = 2 ∨ vs.getD p 0 = 3 ∨ vs.getD p 0 = 4 then vs.getD p 0 else 0)) ∧
    (s.boot.stage = 6 → s.boot.linksDone = true → ∃ t, exec (.release us) s = .next t ∧ t.boot.stage = 7 ∧
      t.host.memActive = true ∧ t.boot.releaseUs = us ∧ t.mem = s.mem ∧ t.seqs = s.seqs ∧
      t.boot.degraded = (List.range 16).any (fun i => (s.stack i).chMap != 0)) ∧
    (s.boot.pg = true → off = 0xE00010 → 1000 ≤ v.toNat % 4096 → v.toNat % 4096 ≤ 3200 →
      exec (.mgmtWrite off v) s = .next { s with pwr := { s.pwr with watts := v.toNat % 4096 } }) ∧
    ((off ≠ 0xE00010 ∨ v.toNat % 4096 < 1000 ∨ 3200 < v.toNat % 4096) → exec (.mgmtWrite off v) s = .next s) ∧
    (s.boot.railsUp = true →
      exec .extest s = .next { s with boot := { s.boot with tap := if s.boot.rstLow then .extest else .bypass } } ∧
      exec .intest s = .next { s with boot := { s.boot with tap := if s.boot.rstLow then .intest else .bypass } } ∧
      exec .clamp s = .next { s with boot := { s.boot with tap := if s.boot.rstLow then .clamp else .bypass } } ∧
      exec (.bypass b) s = .next { s with boot := { s.boot with tap := .bypass, tdo := s.boot.bypassBit, bypassBit := b } })
end

