-- ==== Sys2Proof/Laws/Table.lean ====
section
/-! SUPPORT. What reading and writing a sparse table can do, said once. -/

namespace Sys2Proof.Laws

open Sys2Proof Sys2Proof.Machine

variable {α : Type}

@[simp] theorem tget_nil (d : α) (k : Nat) : tget d [] k = d := rfl

theorem tget_tinsert_same (d : α) (k : Nat) (v : α) (t : Table α) : tget d (tinsert k v t) k = v := by
  induction t with
  | nil => simp [tinsert, tget]
  | cons e t ih =>
    obtain ⟨j, w⟩ := e
    simp only [tinsert]
    split
    · simp [tget]
    · split
      · simp [tget]
      · rename_i h1 h2
        simp [tget, h2, ih]

theorem tget_tinsert_ne (d : α) {k k' : Nat} (h : k' ≠ k) (v : α) (t : Table α) :
    tget d (tinsert k v t) k' = tget d t k' := by
  induction t with
  | nil => simp [tinsert, tget, h]
  | cons e t ih =>
    obtain ⟨j, w⟩ := e
    simp only [tinsert]
    split
    · simp [tget, h]
    · split
      · rename_i h1 h2
        subst h2
        simp [tget, h]
      · simp [tget, ih]

theorem tget_terase_same (d : α) (k : Nat) (t : Table α) : tget d (terase k t) k = d := by
  induction t with
  | nil => rfl
  | cons e t ih =>
    obtain ⟨j, w⟩ := e
    simp only [terase, List.filter_cons]
    by_cases h : j = k
    · subst h
      simpa [terase] using ih
    · simp only [ne_eq, h, not_false_eq_true, decide_true, ↓reduceIte, tget]
      rw [if_neg (fun x => h x.symm)]
      simpa [terase] using ih

theorem tget_terase_ne (d : α) {k k' : Nat} (hne : k' ≠ k) (t : Table α) :
    tget d (terase k t) k' = tget d t k' := by
  induction t with
  | nil => rfl
  | cons e t ih =>
    obtain ⟨j, w⟩ := e
    simp only [terase, List.filter_cons]
    by_cases h : j = k
    · subst h
      simp only [ne_eq, not_true_eq_false, decide_false, Bool.false_eq_true, ↓reduceIte, tget, hne]
      simpa [terase] using ih
    · simp only [ne_eq, h, not_false_eq_true, decide_true, ↓reduceIte, tget]
      split
      · rfl
      · simpa [terase] using ih

/-- A read after a write to the same entry gives what was written. -/
@[simp] theorem tget_tset_same [DecidableEq α] (d : α) (t : Table α) (k : Nat) (v : α) :
    tget d (tset d t k v) k = v := by
  unfold tset
  split
  · rename_i h
    rw [tget_terase_same, h]
  · exact tget_tinsert_same d k v t

/-- A write leaves every other entry alone. -/
@[simp] theorem tget_tset_ne [DecidableEq α] (d : α) (t : Table α) {k k' : Nat} (h : k' ≠ k) (v : α) :
    tget d (tset d t k v) k' = tget d t k' := by
  unfold tset
  split
  · exact tget_terase_ne d h t
  · exact tget_tinsert_ne d h v t

/-- The same where the reader takes another default than the writer. -/
theorem tget_tset_other [DecidableEq α] (d e : α) (t : Table α) {k k' : Nat} (h : k' ≠ k) (v : α) :
    tget e (tset d t k v) k' = tget e t k' := by
  unfold tset
  split
  · exact tget_terase_ne e h t
  · exact tget_tinsert_ne e h v t

@[simp] theorem tget_tmod_same [DecidableEq α] (d : α) (t : Table α) (k : Nat) (f : α → α) :
    tget d (tmod d t k f) k = f (tget d t k) := tget_tset_same d t k _

@[simp] theorem tget_tmod_ne [DecidableEq α] (d : α) (t : Table α) {k k' : Nat} (h : k' ≠ k) (f : α → α) :
    tget d (tmod d t k f) k' = tget d t k' := tget_tset_ne d t h _

/-- Writing a list of entries replaces exactly those. -/
theorem tget_tsets [DecidableEq α] (d : α) (vs : List α) : ∀ (t : Table α) (k a : Nat),
    tget d (tsets d t k vs) a = if k ≤ a ∧ a < k + vs.length then vs.getD (a - k) d else tget d t a := by
  induction vs with
  | nil =>
    intro t k a
    rw [if_neg (by simp only [List.length_nil]; omega)]
    rfl
  | cons v vs ih =>
    intro t k a
    simp only [tsets, ih, List.length_cons]
    by_cases h : a = k
    · subst h
      rw [if_neg (by omega), if_pos (by omega), tget_tset_same, Nat.sub_self]
      rfl
    · rw [tget_tset_ne d t h]
      by_cases h2 : k + 1 ≤ a ∧ a < k + 1 + vs.length
      · rw [if_pos h2, if_pos (by omega), show a - k = (a - (k + 1)) + 1 by omega]
        rfl
      · rw [if_neg h2, if_neg (by omega)]

theorem all_lt_tinsert {j k : Nat} (h : j < k) (v : α) {t : Table α} (ht : ∀ e ∈ t, j < e.1) :
    ∀ e ∈ tinsert k v t, j < e.1 := by
  induction t with
  | nil => intro e he; simp [tinsert] at he; subst he; exact h
  | cons a t ih =>
    obtain ⟨i, w⟩ := a
    intro e he
    simp only [tinsert] at he
    split at he
    · rcases List.mem_cons.1 he with rfl | he
      · exact h
      · exact ht e he
    · split at he
      · rcases List.mem_cons.1 he with rfl | he
        · exact h
        · exact ht e (List.mem_cons_of_mem _ he)
      · rcases List.mem_cons.1 he with rfl | he
        · exact ht (i, w) (by simp)
        · exact ih (fun e he => ht e (List.mem_cons_of_mem _ he)) e he

theorem twf_cons [DecidableEq α] (d : α) (k : Nat) (v : α) (t : Table α) :
    twf d ((k, v) :: t) = true ↔ v ≠ d ∧ (∀ e ∈ t, k < e.1) ∧ twf d t = true := by
  simp [twf, and_assoc]

theorem twf_tinsert [DecidableEq α] (d : α) (k : Nat) {v : α} (hv : v ≠ d) {t : Table α} (h : twf d t = true) :
    twf d (tinsert k v t) = true := by
  induction t with
  | nil => simp [tinsert, twf, hv]
  | cons a t ih =>
    obtain ⟨j, w⟩ := a
    obtain ⟨hw, hj, ht⟩ := (twf_cons d j w t).1 h
    simp only [tinsert]
    split
    · rename_i hk
      refine (twf_cons d _ _ _).2 ⟨hv, ?_, h⟩
      intro e he
      rcases List.mem_cons.1 he with rfl | he
      · exact hk
      · exact Nat.lt_trans hk (hj e he)
    · split
      · rename_i hk
        exact (twf_cons d _ _ _).2 ⟨hv, hk ▸ hj, ht⟩
      · rename_i h1 h2
        exact (twf_cons d _ _ _).2 ⟨hw, all_lt_tinsert (by omega) v hj, ih ht⟩

theorem twf_filter [DecidableEq α] (d : α) (p : Nat × α → Bool) {t : Table α} (h : twf d t = true) :
    twf d (t.filter p) = true := by
  induction t with
  | nil => exact h
  | cons a t ih =>
    obtain ⟨j, w⟩ := a
    obtain ⟨hw, hj, ht⟩ := (twf_cons d j w t).1 h
    simp only [List.filter_cons]
    split
    · exact (twf_cons d _ _ _).2 ⟨hw, fun e he => hj e (List.mem_filter.1 he).1, ih ht⟩
    · exact ih ht

/-- Writing an entry keeps the canonical form. -/
theorem twf_tset [DecidableEq α] (d : α) {t : Table α} (k : Nat) (v : α) (h : twf d t = true) :
    twf d (tset d t k v) = true := by
  unfold tset
  split
  · exact twf_filter d _ h
  · exact twf_tinsert d k ‹_› h

theorem twf_tmod [DecidableEq α] (d : α) {t : Table α} (k : Nat) (f : α → α) (h : twf d t = true) :
    twf d (tmod d t k f) = true := twf_tset d k _ h

theorem twf_tsets [DecidableEq α] (d : α) (vs : List α) : ∀ {t : Table α} (k : Nat), twf d t = true →
    twf d (tsets d t k vs) = true := by
  induction vs with
  | nil => intro t k h; exact h
  | cons v vs ih => intro t k h; exact ih _ (twf_tset d k v h)

theorem twf_tclear [DecidableEq α] (d : α) {t : Table α} (lo hi : Nat) (h : twf d t = true) :
    twf d (tclear t lo hi) = true := twf_filter d _ h

theorem twf_terase [DecidableEq α] (d : α) (k : Nat) {t : Table α} (h : twf d t = true) : twf d (terase k t) = true :=
  twf_filter d _ h

end Sys2Proof.Laws
end

