-- ==== Sys2Proof/Laws/Keeps.lean ====
section
/-! SUPPORT. What almost every operation of the block leaves alone, as one relation, and how it passes through sequences, choices and
folds. -/

namespace Sys2Proof.Laws

open Sys2Proof Sys2Proof.Machine

/-- Between two states the memories stay canonical, and the stage of bring-up, the rails, the counters' run and the queue stay. -/
structure Keeps (r s : State) : Prop where
  mem : r.mem.wf = true → s.mem.wf = true
  orchard : twf 0 r.orchard = true → twf 0 s.orchard = true
  bar2 : twf 0 r.bar2 = true → twf 0 s.bar2 = true
  stage : s.boot.stage = r.boot.stage
  pg : s.boot.pg = r.boot.pg
  running : s.ctl.running = r.ctl.running
  pending : s.pending = r.pending

theorem keeps_refl (s : State) : Keeps s s := ⟨id, id, id, rfl, rfl, rfl, rfl⟩

theorem Keeps.trans {r s t : State} (h : Keeps r s) (g : Keeps s t) : Keeps r t :=
  ⟨g.mem ∘ h.mem, g.orchard ∘ h.orchard, g.bar2 ∘ h.bar2, g.stage.trans h.stage, g.pg.trans h.pg, g.running.trans h.running,
    g.pending.trans h.pending⟩

/-- A state that differs in none of these components. -/
theorem keeps_same {r s t : State} (h : Keeps r s) (hm : t.mem = s.mem) (ho : t.orchard = s.orchard) (hb : t.bar2 = s.bar2)
    (hs : t.boot = s.boot) (hc : t.ctl = s.ctl) (hp : t.pending = s.pending) : Keeps r t :=
  ⟨hm ▸ h.mem, ho ▸ h.orchard, hb ▸ h.bar2, hs ▸ h.stage, hs ▸ h.pg, hc ▸ h.running, hp ▸ h.pending⟩

/-- The outcome o is a next state between which and r `Keeps` holds. -/
def Answers (r : State) (o : Host.Outcome State Fault Refusal) : Prop := ∃ t, o = .next t ∧ Keeps r t

theorem answers_next {r t : State} (h : Keeps r t) : Answers r (.next t) := ⟨t, rfl, h⟩

theorem keeps_snd {r t : State} {α : Type} {p : α × State} {x : α} (e : p = (x, t)) (h : Keeps r p.2) : Keeps r t := by
  subst e; exact h

theorem keeps_snd3 {r t : State} {α β : Type} {p : α × β × State} {x : α} {y : β} (e : p = (x, y, t)) (h : Keeps r p.2.2) :
    Keeps r t := by subst e; exact h

theorem keeps_some {r t : State} {α : Type} {o : Option (α × State)} {x : α} (e : o = some (x, t))
    (h : ∀ y ∈ o, Keeps r y.2) : Keeps r t := h (x, t) (by rw [e]; rfl)

theorem keeps_opt {r t : State} {o : Option State} (e : o = some t) (h : ∀ y ∈ o, Keeps r y) : Keeps r t :=
  h t (by rw [e]; rfl)

theorem keeps_getD {r s : State} {o : Option State} (h : Keeps r s) (g : ∀ y ∈ o, Keeps r y) : Keeps r (o.getD s) := by
  cases o with
  | none => exact h
  | some t => exact g t rfl

theorem keeps_foldl {α : Type} {r : State} {f : State → α → State} (hf : ∀ s x, Keeps r s → Keeps r (f s x)) :
    ∀ {s : State} (l : List α), Keeps r s → Keeps r (l.foldl f s)
  | _, [], h => h
  | _, x :: l, h => keeps_foldl hf l (hf _ x h)

theorem keeps_foldl_snd {α β : Type} {r : State} {f : β × State → α → β × State} (hf : ∀ s x, Keeps r s.2 → Keeps r (f s x).2) :
    ∀ {s : β × State} (l : List α), Keeps r s.2 → Keeps r (l.foldl f s).2
  | _, [], h => h
  | _, x :: l, h => keeps_foldl_snd hf l (hf _ x h)

theorem keeps_ite_snd {α : Type} {r : State} {c : Prop} [Decidable c] {p q : α × State} (hp : c → Keeps r p.2)
    (hq : ¬c → Keeps r q.2) : Keeps r (if c then p else q).2 := by
  split <;> simp_all

theorem keeps_setCtl {r s : State} (h : Keeps r s) {v : Control} (hv : v.running = s.ctl.running) : Keeps r (s.setCtl v) :=
  ⟨h.mem, h.orchard, h.bar2, h.stage, h.pg, hv.trans h.running, h.pending⟩

theorem keeps_setBoot {r s : State} (h : Keeps r s) {v : Boot} (h1 : v.stage = s.boot.stage) (h2 : v.pg = s.boot.pg) :
    Keeps r (s.setBoot v) :=
  ⟨h.mem, h.orchard, h.bar2, h1.trans h.stage, h2.trans h.pg, h.running, h.pending⟩

theorem keeps_setMem {r s : State} (h : Keeps r s) {v : Mem} (hv : s.mem.wf = true → v.wf = true) : Keeps r (s.setMem v) :=
  ⟨hv ∘ h.mem, h.orchard, h.bar2, h.stage, h.pg, h.running, h.pending⟩

theorem keeps_setHost {r s : State} (h : Keeps r s) (v : HostPort) : Keeps r (s.setHost v) := keeps_same h rfl rfl rfl rfl rfl rfl
theorem keeps_setLog {r s : State} (h : Keeps r s) (v : ErrLog) : Keeps r (s.setLog v) := keeps_same h rfl rfl rfl rfl rfl rfl
theorem keeps_setDrupe {r s : State} (h : Keeps r s) (v : Drupe) : Keeps r (s.setDrupe v) := keeps_same h rfl rfl rfl rfl rfl rfl
theorem keeps_setPress {r s : State} (h : Keeps r s) (v : Press) : Keeps r (s.setPress v) := keeps_same h rfl rfl rfl rfl rfl rfl
theorem keeps_setZest {r s : State} (h : Keeps r s) (v : Zest) : Keeps r (s.setZest v) := keeps_same h rfl rfl rfl rfl rfl rfl
theorem keeps_setSeqs {r s : State} (h : Keeps r s) (v : Seqs) : Keeps r (s.setSeqs v) := keeps_same h rfl rfl rfl rfl rfl rfl
theorem keeps_setCodec {r s : State} (h : Keeps r s) (v : Codec) : Keeps r (s.setCodec v) := keeps_same h rfl rfl rfl rfl rfl rfl
theorem keeps_setPun {r s : State} (h : Keeps r s) (v : Punnets) : Keeps r (s.setPun v) := keeps_same h rfl rfl rfl rfl rfl rfl
theorem keeps_setVine {r s : State} (h : Keeps r s) (v : Vine) : Keeps r (s.setVine v) := keeps_same h rfl rfl rfl rfl rfl rfl
theorem keeps_setSec {r s : State} (h : Keeps r s) (v : Sec) : Keeps r (s.setSec v) := keeps_same h rfl rfl rfl rfl rfl rfl
theorem keeps_setPwr {r s : State} (h : Keeps r s) (v : Power) : Keeps r (s.setPwr v) := keeps_same h rfl rfl rfl rfl rfl rfl
theorem keeps_setWin {r s : State} (h : Keeps r s) (w : Nat) (v : Window) : Keeps r (s.setWin w v) :=
  keeps_same h rfl rfl rfl rfl rfl rfl

theorem keeps_ite {r0 : State} {c : Prop} [Decidable c] {s t : State} (hs : Keeps r0 s) (ht : Keeps r0 t) :
    Keeps r0 (if c then s else t) := by
  split <;> assumption

theorem ReadOut_andThen_keeps {r0 : State} {o : ReadOut} {p : ReadOut × State} (h : Keeps r0 p.2) :
    Keeps r0 (ReadOut.andThen o p).2 := h

/-! ## Computations of a layer -/

/-- A computation of a layer keeps what `Keeps` names, wherever it stops. -/
structure LayKeeps {α : Type} (m : Lay α) : Prop where
  run : ∀ {r0 s : State}, Keeps r0 s → Keeps r0 (m s).2

theorem lay_pure {α : Type} (a : α) : LayKeeps (pure a : Lay α) := ⟨fun h => h⟩

theorem lay_stop {α : Type} (e : Stop) : LayKeeps (layStop e : Lay α) := ⟨fun h => h⟩

theorem lay_state : LayKeeps layState := ⟨fun h => h⟩

theorem lay_mod {f : State → State} (hf : ∀ {r0 s : State}, Keeps r0 s → Keeps r0 (f s)) : LayKeeps (layMod f) := ⟨fun h => hf h⟩

theorem lay_op {α : Type} {f : State → α × State} (hf : ∀ {r0 s : State}, Keeps r0 s → Keeps r0 (f s).2) : LayKeeps (layOp f) :=
  ⟨fun h => hf h⟩

theorem lay_ite {α : Type} {c : Prop} [Decidable c] {m n : Lay α} (hm : LayKeeps m) (hn : LayKeeps n) :
    LayKeeps (if c then m else n) := by
  split <;> assumption

theorem lay_bind {α β : Type} {m : Lay α} {f : α → Lay β} (hm : LayKeeps m) (hf : ∀ a, LayKeeps (f a)) : LayKeeps (m >>= f) := by
  refine ⟨fun {r0 s} h => ?_⟩
  have h1 := hm.run h
  show Keeps r0 ((ExceptT.bindCont f (m s).1) (m s).2).2
  cases (m s).1 with
  | ok a => exact (hf a).run h1
  | error e => exact h1

theorem lay_mapM {α β : Type} {f : α → Lay β} (hf : ∀ a, LayKeeps (f a)) : ∀ l : List α, LayKeeps (l.mapM f)
  | [] => by rw [List.mapM_nil]; exact lay_pure _
  | x :: l => by
    rw [List.mapM_cons]
    exact lay_bind (hf x) (fun _ => lay_bind (lay_mapM hf l) (fun _ => lay_pure _))

theorem lay_forIn {α β : Type} {f : α → β → Lay (ForInStep β)} (hf : ∀ a b, LayKeeps (f a b)) : ∀ (l : List α) (b : β),
    LayKeeps (forIn l b f)
  | [], b => by rw [List.forIn_nil]; exact lay_pure _
  | x :: l, b => by
    rw [List.forIn_cons]
    refine lay_bind (hf x b) (fun a => ?_)
    cases a with
    | done b => exact lay_pure _
    | yield b => exact lay_forIn hf l b

theorem keeps_elim {r0 : State} {α : Type} {o : Option α} {f : α → State} {s : State} (h : Keeps r0 s) (hf : ∀ x, Keeps r0 (f x)) :
    Keeps r0 (o.elim s f) := by
  cases o with
  | none => exact h
  | some x => exact hf x

theorem lay_filterMapM {α β : Type} {f : α → Lay (Option β)} (hf : ∀ a, LayKeeps (f a)) : ∀ l : List α, LayKeeps (l.filterMapM f) := by
  have h : ∀ (l : List α) (acc : List β), LayKeeps (List.filterMapM.loop f l acc) := by
    intro l
    induction l with
    | nil => intro acc; exact lay_pure _
    | cons x l ih =>
      intro acc
      refine lay_bind (hf x) (fun o => ?_)
      cases o with
      | none => exact ih _
      | some y => exact ih _
  intro l
  exact h l []

theorem keeps_orchard {r0 s : State} (h : Keeps r0 s) {t : Table Byte} (ht : twf 0 s.orchard = true → twf 0 t = true) :
    Keeps r0 { s with orchard := t } :=
  ⟨h.mem, ht ∘ h.orchard, h.bar2, h.stage, h.pg, h.running, h.pending⟩

theorem keeps_bar2 {r0 s : State} (h : Keeps r0 s) {t : Table Byte} (ht : twf 0 s.bar2 = true → twf 0 t = true) :
    Keeps r0 { s with bar2 := t } :=
  ⟨h.mem, h.orchard, ht ∘ h.bar2, h.stage, h.pg, h.running, h.pending⟩

/-- A change of the memories by parts, each of which keeps its part canonical. -/
theorem keeps_mem {r s : State} (h : Keeps r s) {v : Mem} (h1 : twf 0 s.mem.cells = true → twf 0 v.cells = true)
    (h2 : twf [] s.mem.errs = true → twf [] v.errs = true) (h6 : twf [] s.mem.unlanded = true → twf [] v.unlanded = true) (h3 : twf 0 s.mem.wkey = true → twf 0 v.wkey = true)
    (h4 : twf 0 s.mem.pageKey = true → twf 0 v.pageKey = true)
    (h5 : twf LedgerEntry.none s.mem.ledger = true → twf LedgerEntry.none v.ledger = true) : Keeps r (s.setMem v) := by
  refine keeps_setMem h (fun hw => ?_)
  simp only [Mem.wf, Bool.and_eq_true] at hw ⊢
  exact ⟨⟨⟨⟨⟨h1 hw.1.1.1.1.1, h2 hw.1.1.1.1.2⟩, h6 hw.1.1.1.2⟩, h3 hw.1.1.2⟩, h4 hw.1.2⟩, h5 hw.2⟩

/-- A change of the symbols in error of one burst. -/
theorem keeps_setErrs {r0 : State} {s : State} {b : Nat} {l : List Byte} (h : Keeps r0 s) :
    Keeps r0 (s.setMem { s.mem with errs := tset [] s.mem.errs b l }) :=
  keeps_mem h id (fun x => twf_tset _ _ _ x) id id id id

/-- A fold of changes that keep a table of bytes canonical. -/
theorem twf_foldl {α : Type} (f : Table Byte → α → Table Byte) (hf : ∀ o x, twf 0 o = true → twf 0 (f o x) = true) :
    ∀ {o : Table Byte} (l : List α), twf 0 o = true → twf 0 (l.foldl f o) = true
  | _, [], h => h
  | _, x :: l, h => twf_foldl f hf l (hf _ x h)

end Sys2Proof.Laws
end

