-- ==== Sys2Proof/Laws/FramesCore.lean ====
section
/-! SUPPORT. One lemma per operation, for the shared operations, memory and registers: between its state and the state it answers,
`Keeps` holds. -/

open Sys2Proof Sys2Proof.Machine

namespace Sys2Proof.Laws

theorem State_modWin_keeps {r0 : State} {s : State} {w : Nat} {f : Window → Window} (h : Keeps r0 s) : Keeps r0
    (State.modWin s w f) := by
  unfold State.modWin
  repeat' (first
    | with_reducible assumption | with_reducible apply keeps_setWin | split)

theorem State_modStack_keeps {r0 : State} {s : State} {i : Nat} {f : Stack → Stack} (h : Keeps r0 s) : Keeps r0
    (State.modStack s i f) := by
  unfold State.modStack
  repeat' (first
    | with_reducible assumption | with_reducible apply keeps_setMem | exact fun x => x
    | (show Mem.wf _ = true; simp_all [Mem.wf, twf_tset, twf_tsets, twf_terase, twf_filter])
    | (intro; try dsimp -zeta only) | extract_lets)

theorem State_modPip_keeps {r0 : State} {s : State} {k : Nat} {f : PipStack → PipStack} (h : Keeps r0 s) : Keeps r0
    (State.modPip s k f) := by
  unfold State.modPip
  repeat' (first
    | with_reducible assumption | extract_lets | exact keeps_same h rfl rfl rfl rfl rfl rfl
    | exact keeps_same ‹Keeps _ _› rfl rfl rfl rfl rfl rfl)

theorem State_modSeq_keeps {r0 : State} {s : State} {q : Nat} {f : SeqEntry → SeqEntry} (h : Keeps r0 s) : Keeps r0
    (State.modSeq s q f) := by
  unfold State.modSeq
  repeat' (first
    | with_reducible assumption | with_reducible apply keeps_setSeqs | extract_lets)

theorem State_modModel_keeps {r0 : State} {s : State} {m : Nat} {f : Model → Model} (h : Keeps r0 s) : Keeps r0
    (State.modModel s m f) := by
  unfold State.modModel
  repeat' (first
    | with_reducible assumption | with_reducible apply keeps_setSeqs | extract_lets)

theorem State_modPun_keeps {r0 : State} {s : State} {p : Nat} {f : PunPort → PunPort} (h : Keeps r0 s) : Keeps r0
    (State.modPun s p f) := by
  unfold State.modPun
  repeat' (first
    | with_reducible assumption | extract_lets | exact keeps_same h rfl rfl rfl rfl rfl rfl
    | exact keeps_same ‹Keeps _ _› rfl rfl rfl rfl rfl rfl)

theorem State_modVinePort_keeps {r0 : State} {s : State} {p : Nat} {f : VinePort → VinePort} (h : Keeps r0 s) : Keeps r0
    (State.modVinePort s p f) := by
  unfold State.modVinePort
  repeat' (first
    | with_reducible assumption | extract_lets | exact keeps_same h rfl rfl rfl rfl rfl rfl
    | exact keeps_same ‹Keeps _ _› rfl rfl rfl rfl rfl rfl)

theorem State_modCore_keeps {r0 : State} {s : State} {c : Nat} {f : StoneCore → StoneCore} (h : Keeps r0 s) : Keeps r0
    (State.modCore s c f) := by
  unfold State.modCore
  repeat' (first
    | with_reducible assumption | with_reducible apply keeps_setCtl | rfl | extract_lets)

theorem State_modWedge_keeps {r0 : State} {s : State} {w : Nat} {f : WedgePower → WedgePower} (h : Keeps r0 s) : Keeps r0
    (State.modWedge s w f) := by
  unfold State.modWedge
  repeat' (first
    | with_reducible assumption | extract_lets | exact keeps_same h rfl rfl rfl rfl rfl rfl
    | exact keeps_same ‹Keeps _ _› rfl rfl rfl rfl rfl rfl)

theorem countLow_keeps {r0 : State} {ms : Nat} {s : State} (h : Keeps r0 s) : Keeps r0 (countLow ms s) := by
  unfold countLow
  repeat' (first
    | with_reducible assumption | with_reducible apply State_modWedge_keeps | with_reducible apply keeps_foldl
    | (intro; try dsimp -zeta only) | extract_lets | split)

theorem State_advanceTo_keeps {r0 : State} {s : State} {t : Nat} (h : Keeps r0 s) : Keeps r0 (State.advanceTo s t) := by
  unfold State.advanceTo
  repeat' (first
    | with_reducible assumption | with_reducible apply keeps_setCtl | with_reducible apply countLow_keeps | rfl | extract_lets | split)

theorem State_tick_keeps {r0 : State} {s : State} {d : Nat} (h : Keeps r0 s) : Keeps r0 (State.tick s d) := by
  unfold State.tick
  repeat' (first
    | with_reducible assumption | with_reducible apply State_advanceTo_keeps)

theorem whenReleased_keeps {r0 : State} {f : State → State} {s : State} (h : Keeps r0 s) (hf0 : ∀ y, Keeps r0 y → Keeps r0
    (f y)) : Keeps r0 (whenReleased f s) := by
  unfold whenReleased
  repeat' (first
    | with_reducible assumption | with_reducible apply hf0 | split)

theorem whenPowered_keeps {r0 : State} {f : State → State} {s : State} (hk : Keeps r0 s) (hf0 : ∀ y, Keeps r0 y → Keeps r0
    (f y)) : Keeps r0 (whenPowered f s) := by
  unfold whenPowered
  repeat' (first
    | with_reducible assumption | with_reducible apply hf0 | split)

theorem State_free_keeps {r0 : State} {s : State} (h : Keeps r0 s) : Keeps r0 (State.free s).2 := by
  unfold State.free
  repeat' (first
    | with_reducible assumption | extract_lets | exact keeps_same h rfl rfl rfl rfl rfl rfl
    | exact keeps_same ‹Keeps _ _› rfl rfl rfl rfl rfl rfl)

theorem State_draw_keeps {r0 : State} {s : State} (h : Keeps r0 s) : Keeps r0 (State.draw s).2 := by
  unfold State.draw
  repeat' (first
    | with_reducible assumption | extract_lets | exact keeps_same h rfl rfl rfl rfl rfl rfl
    | exact keeps_same ‹Keeps _ _› rfl rfl rfl rfl rfl rfl)

theorem send_keeps {r0 : State} {t : HostTx} {s : State} (h : Keeps r0 s) : Keeps r0 (send t s) := by
  unfold send
  repeat' (first
    | with_reducible assumption | with_reducible apply keeps_setHost | extract_lets)

theorem msix_keeps {r0 : State} {v : Nat} {s : State} (h : Keeps r0 s) : Keeps r0 (msix v s) := by
  unfold msix
  repeat' (first
    | with_reducible assumption | with_reducible apply send_keeps | split)

theorem logErr_keeps {r0 : State} {code : Nat} {kind : Nat} {idx : Nat} {addr : Nat} {detail : Nat} {s : State} (h : Keeps
    r0 s) : Keeps r0 (logErr code kind idx addr detail s) := by
  unfold logErr
  repeat' (first
    | with_reducible assumption | with_reducible apply msix_keeps | (intro; try dsimp -zeta only) | extract_lets | split
    | exact keeps_same h rfl rfl rfl rfl rfl rfl | exact keeps_same ‹Keeps _ _› rfl rfl rfl rfl rfl rfl)

theorem logInvalid_keeps {r0 : State} {off : Nat} {v : Nat} {s : State} (h : Keeps r0 s) : Keeps r0 (logInvalid off v s) := by
  unfold logInvalid
  repeat' (first
    | with_reducible assumption | with_reducible apply logErr_keeps)

theorem hostWrite_keeps {r0 : State} {addr : Nat} {data : List Byte} {s : State} (h : Keeps r0 s) : Keeps r0 (hostWrite
    addr data s) := by
  unfold hostWrite
  repeat' (first
    | with_reducible assumption | with_reducible apply send_keeps | with_reducible apply logErr_keeps | split)

theorem ringEntry_keeps {r0 : State} {w : Nat} {counts : Bool} {s : State} (h : Keeps r0 s) : Keeps r0 (ringEntry w counts
    s) := by
  unfold ringEntry
  repeat' (first
    | with_reducible assumption | with_reducible apply keeps_setWin | with_reducible apply msix_keeps | extract_lets | split)

theorem writeReply_keeps {r0 : State} {w : Nat} {t : Taken} {ordinal : Nat} {stamp : Nat} {a : Answer} {s : State}
    (h : Keeps r0 s) : Keeps r0 (writeReply w t ordinal stamp a s) := by
  unfold writeReply
  repeat' (first
    | with_reducible assumption | with_reducible apply State_modWin_keeps | with_reducible apply hostWrite_keeps
    | with_reducible apply ringEntry_keeps | (intro; try dsimp -zeta only) | extract_lets)

theorem State_modTaken_keeps {r0 : State} {s : State} {w : Nat} {f : List Taken → List Taken} (hk : Keeps r0 s) : Keeps r0
    (State.modTaken s w f) := by
  unfold State.modTaken
  repeat' (first
    | with_reducible assumption | with_reducible apply State_modWin_keeps | (intro; try dsimp -zeta only) | extract_lets
    | split)

theorem releaseOutput_keeps {r0 : State} {rs : List (Nat × Nat)} {s : State} (h : Keeps r0 s) : Keeps r0 (releaseOutput rs
    s) := by
  unfold releaseOutput
  repeat' (first
    | with_reducible assumption | with_reducible apply State_modWin_keeps | with_reducible apply keeps_foldl
    | (intro; try dsimp -zeta only) | extract_lets)

theorem dropFenceAfter_keeps {r0 : State} {w : Nat} {n : Nat} {s : State} (h : Keeps r0 s) : Keeps r0 (dropFenceAfter w n s) := by
  unfold dropFenceAfter
  repeat' (first
    | with_reducible assumption | with_reducible apply State_modWin_keeps | (intro; try dsimp -zeta only) | extract_lets)

theorem completeAt_keeps {r0 : State} {w : Nat} {n : Nat} {ordinal : Nat} {stamp : Nat} {a : Answer} {s : State}
    (hk : Keeps r0 s) : Keeps r0 (completeAt w n ordinal stamp a s) := by
  unfold completeAt
  repeat' (first
    | with_reducible assumption | with_reducible apply writeReply_keeps | with_reducible apply releaseOutput_keeps
    | with_reducible apply dropFenceAfter_keeps | with_reducible apply State_modTaken_keeps
    | (intro; try dsimp -zeta only) | extract_lets | split | dsimp +zetaDelta only)

theorem complete_keeps {r0 : State} {w : Nat} {n : Nat} {a : Answer} {s : State} (h : Keeps r0 s) : Keeps r0 (complete w n
    a s) := by
  unfold complete
  repeat' (first
    | with_reducible assumption | with_reducible apply completeAt_keeps | extract_lets | split)

theorem modRecord_keeps {r0 : State} {w : Nat} {n : Nat} {f : Taken → Taken} {s : State} (hk : Keeps r0 s) : Keeps r0
    (modRecord w n f s) := by
  unfold modRecord
  repeat' (first
    | with_reducible assumption | with_reducible apply State_modTaken_keeps | (intro; try dsimp -zeta only) | split)

theorem outEntry_keeps {r0 : State} {w : Nat} {data : List Byte} {s : State} (h : Keeps r0 s) : Keeps r0 (outEntry w data s) := by
  unfold outEntry
  repeat' (first
    | with_reducible assumption | with_reducible apply State_modWin_keeps | with_reducible apply hostWrite_keeps
    | with_reducible apply ringEntry_keeps | (intro; try dsimp -zeta only) | extract_lets | split)

theorem onRecord_keeps {r0 : State} {op : Nat} {w : Nat} {n : Nat} {p : Taken → Bool} {f : Nat → Taken → State → State} {s
    : State} (hk : Keeps r0 s) (hf0 : ∀ x0 x1 y, Keeps r0 y → Keeps r0 (f x0 x1 y)) : Keeps r0 (onRecord op w n p f s) := by
  unfold onRecord
  repeat' (first
    | with_reducible assumption | with_reducible apply hf0 | (intro; try dsimp -zeta only) | split)

theorem onOp_keeps {r0 : State} {op : Nat} {w : Nat} {n : Nat} {f : Nat → Taken → State → State} {s : State} (h : Keeps r0
    s) (hf0 : ∀ x0 x1 y, Keeps r0 y → Keeps r0 (f x0 x1 y)) : Keeps r0 (onOp op w n f s) := by
  unfold onOp
  repeat' (first
    | with_reducible assumption | with_reducible apply hf0 | with_reducible apply onRecord_keeps | (intro; try dsimp -zeta only))

theorem startRecord_keeps {r0 : State} {w : Nat} {n : Nat} {s : State} (h : Keeps r0 s) : Keeps r0 (startRecord w n s) := by
  unfold startRecord
  repeat' (first
    | with_reducible assumption | with_reducible apply modRecord_keeps | (intro; try dsimp -zeta only) | extract_lets)

theorem checked_keeps {r0 : State} {w : Nat} {n : Nat} {checks : List (Bool × Answer)} {go : State → State} {s : State}
    (h : Keeps r0 s) (hf0 : ∀ y, Keeps r0 y → Keeps r0 (go y)) : Keeps r0 (checked w n checks go s) := by
  unfold checked
  repeat' (first
    | with_reducible assumption | with_reducible apply hf0 | with_reducible apply complete_keeps | (intro; try dsimp -zeta only)
    | extract_lets | split)

theorem State_setQuar_keeps {r0 : State} {s : State} {i : Nat} {e : QuarEntry} (h : Keeps r0 s) : Keeps r0 (State.setQuar
    s i e) := by
  unfold State.setQuar
  repeat' (first
    | with_reducible assumption | with_reducible apply keeps_setMem | exact fun x => x
    | (show Mem.wf _ = true; simp_all [Mem.wf, twf_tset, twf_tsets, twf_terase, twf_filter])
    | (intro; try dsimp -zeta only) | extract_lets)

theorem State_setEntry_keeps {r0 s : State} {block : Nat} {e : LedgerEntry} (h : Keeps r0 s) : Keeps r0 (State.setEntry s block e) :=
  keeps_mem h id id id id id (twf_tset _ _ _)

theorem quarantine_keeps {r0 : State} {block : Nat} {s : State} (h : Keeps r0 s) : Keeps r0 (quarantine block s) := by
  unfold quarantine
  split
  · exact h
  · split
    · exact h
    · extract_lets st
      generalize findBelow 4096 _ = o
      cases o with
      | none =>
        dsimp only
        split
        · exact h
        · exact logErr_keeps (keeps_setMem h (fun x => x))
      | some i =>
        dsimp only
        split
        · exact logErr_keeps (State_setQuar_keeps h)
        · exact logErr_keeps (logErr_keeps (State_setQuar_keeps h))

theorem clearQuarantine_keeps {r0 : State} {block : Nat} {how : Nat} {s : State} (h : Keeps r0 s) : Keeps r0
    (clearQuarantine block how s) := by
  unfold clearQuarantine
  repeat' (first
    | with_reducible assumption | with_reducible apply keeps_setMem | with_reducible apply logErr_keeps
    | with_reducible apply State_setQuar_keeps | exact fun x => x
    | (show Mem.wf _ = true; simp_all [Mem.wf, twf_tset, twf_tsets, twf_terase, twf_filter])
    | (intro; try dsimp -zeta only) | extract_lets | split)

theorem addErrs_keeps {r0 : State} {errs : List SymErr} {s : State} (h : Keeps r0 s) : Keeps r0 (addErrs errs s) := by
  unfold addErrs
  refine keeps_foldl (fun s e h => ?_) _ h
  exact keeps_mem h id (fun h => twf_tset _ _ _ h) id id id id

theorem uncorrectable_keeps {r0 : State} {r : ReadBy} {b : Nat} {s : State} (h : Keeps r0 s) : Keeps r0 (uncorrectable r b
    s) := by
  unfold uncorrectable
  repeat' (first
    | with_reducible assumption | with_reducible apply State_modStack_keeps | with_reducible apply logErr_keeps
    | with_reducible apply quarantine_keeps | (intro; try dsimp -zeta only) | extract_lets)

theorem storeBurst_keeps {r0 : State} {b : Nat} {d : List Byte} {s : State} (h : Keeps r0 s) : Keeps r0 (storeBurst b d s) :=
  keeps_mem h (twf_tsets _ _ _) (twf_terase _ _) (twf_terase _ _) (twf_tset _ _ _) id id

theorem symRead_keeps {r0 : State} {r : ReadBy} {b : Nat} {s : State} (h : Keeps r0 s) : Keeps r0 (symRead r b s).2 := by
  have hu : Keeps r0 (uncorrectable r b s) := uncorrectable_keeps h
  unfold symRead
  split
  · exact h
  · extract_lets p bad marker
    refine keeps_ite_snd (fun _ => hu) (fun _ => keeps_ite_snd (fun _ => h) (fun _ => keeps_ite_snd (fun _ =>
      keeps_ite (quarantine_keeps h) h) (fun _ => keeps_ite_snd (fun _ => h) (fun _ => keeps_ite_snd (fun _ => ?_) (fun _ =>
      keeps_ite_snd (fun _ => hu) (fun _ => keeps_ite_snd (fun _ => hu) (fun _ => keeps_ite_snd (fun _ => ?_) (fun _ => h))))))))
    · exact State_modStack_keeps (keeps_mem h id (twf_terase _ _) id id id id)
    · exact State_modStack_keeps (storeBurst_keeps h)

theorem writeEntry_keeps {r0 : State} {block : Nat} {e : LedgerEntry} {s : State} (h : Keeps r0 s) : Keeps r0 (writeEntry block e s) := by
  unfold writeEntry
  refine State_setEntry_keeps (keeps_foldl (fun s i hs => ?_) _ h)
  exact keeps_setErrs hs

theorem readEntry_keeps {r0 : State} {block : Nat} {s : State} (h : Keeps r0 s) : Keeps r0 (readEntry block s).2 := by
  unfold readEntry
  extract_lets e p bad fixed
  have hf : ∀ e, Keeps r0 (fixed e).2 := fun e => State_modStack_keeps (writeEntry_keeps h)
  exact keeps_ite_snd (fun _ => h) (fun _ => keeps_ite_snd (fun _ => hf _) (fun _ => keeps_ite_snd (fun _ => h) (fun _ =>
    keeps_ite_snd (fun _ => hf _) (fun _ => h))))

theorem noteChecked_keeps {r0 : State} {st : Nat} {block : Nat} {s : State} (h : Keeps r0 s) : Keeps r0 (noteChecked st
    block s) := by
  unfold noteChecked
  repeat' (first
    | with_reducible assumption | with_reducible apply keeps_setMem | exact fun x => x
    | (show Mem.wf _ = true; simp_all [Mem.wf, twf_tset, twf_tsets, twf_terase, twf_filter])
    | (intro; try dsimp -zeta only) | extract_lets)

theorem forgetChecked_keeps {r0 : State} {block : Nat} {s : State} (h : Keeps r0 s) : Keeps r0 (forgetChecked block s) := by
  unfold forgetChecked
  repeat' (first
    | with_reducible assumption | with_reducible apply keeps_setMem | exact fun x => x
    | (show Mem.wf _ = true; simp_all [Mem.wf, twf_tset, twf_tsets, twf_terase, twf_filter])
    | (intro; try dsimp -zeta only) | extract_lets)

theorem ledgerFail_keeps {r0 : State} {block : Nat} {how : Nat} {s : State} (h : Keeps r0 s) : Keeps r0 (ledgerFail block
    how s) := by
  unfold ledgerFail
  repeat' (first
    | with_reducible assumption | with_reducible apply State_modStack_keeps | with_reducible apply logErr_keeps
    | with_reducible apply quarantine_keeps | (intro; try dsimp -zeta only) | extract_lets)

theorem ledgerCheck_keeps {r0 : State} {how : Nat} {block : Nat} {s : State} (h : Keeps r0 s) : Keeps r0 (ledgerCheck how block s).2 := by
  have hr : Keeps r0 (readEntry block s).2 := readEntry_keeps h
  unfold ledgerCheck
  extract_lets st
  refine keeps_ite_snd (fun _ => ledgerFail_keeps h) (fun _ => keeps_ite_snd (fun _ => h) (fun _ => keeps_ite_snd (fun _ => h) (fun _ => ?_)))
  split
  · rename_i e; exact ledgerFail_keeps (keeps_snd e hr)
  · rename_i e
    have h1 := keeps_snd e hr
    exact keeps_ite_snd (fun _ => h1) (fun _ => keeps_ite_snd (fun _ => noteChecked_keeps h1) (fun _ => ledgerFail_keeps h1))

theorem ledgerRead_keeps {r0 : State} {r : ReadBy} {b : Nat} {s : State} (hk : Keeps r0 s) : Keeps r0 (ledgerRead r b s).2 := by
  unfold ledgerRead
  repeat' (first
    | with_reducible assumption | with_reducible apply quarantine_keeps | with_reducible apply ledgerCheck_keeps | split
    | refine keeps_snd (by assumption) ?_)

theorem readOnce_keeps {r0 : State} {r : ReadBy} {b : Nat} {s : State} (hk : Keeps r0 s) : Keeps r0 (readOnce r b s).2 := by
  unfold readOnce
  repeat' (first
    | with_reducible assumption | with_reducible apply symRead_keeps | with_reducible apply ledgerRead_keeps | split)

theorem recallGranule_keeps {r0 : State} {g : Nat} {s : State} (h : Keeps r0 s) : Keeps r0 (recallGranule g s) := by
  unfold recallGranule
  split
  · generalize hl : List.range 64 = l
    exact keeps_same (keeps_foldl (f := fun s i => send (.rdOwn (4096 * g + 64 * i)) s) (fun _ _ h => send_keeps h) l h)
      rfl rfl rfl rfl rfl rfl
  · exact h

theorem recallRange_keeps {r0 : State} {a : Nat} {n : Nat} {s : State} (h : Keeps r0 s) : Keeps r0 (recallRange a n s) := by
  unfold recallRange
  repeat' (first
    | with_reducible assumption | with_reducible apply recallGranule_keeps | with_reducible apply keeps_foldl
    | (intro; try dsimp -zeta only))

theorem readMirror_keeps {r0 : State} {r : ReadBy} {b : Nat} {s : State} (hk : Keeps r0 s) : Keeps r0 (readMirror r b s).2 := by
  unfold readMirror
  repeat' (first
    | with_reducible assumption | with_reducible apply recallGranule_keeps | with_reducible apply readOnce_keeps
    | extract_lets | split)

theorem readBurst_keeps {r0 : State} {r : ReadBy} {b : Nat} {s : State} (h : Keeps r0 s) : Keeps r0 (readBurst r b s).2 := by
  unfold readBurst
  repeat' (first
    | with_reducible assumption | with_reducible apply readOnce_keeps | with_reducible apply readMirror_keeps | split
    | refine keeps_snd (by assumption) ?_)

theorem readBursts_keeps {r0 : State} {r : ReadBy} : ∀ {n b : Nat} {s : State} (_h : Keeps r0 s), Keeps r0 (readBursts r b n s).2
  | 0, _, _, h => h
  | n + 1, b, s, h => by
    have := readBursts_keeps (r := r) (n := n) (b := b + 1) (readBurst_keeps (r := r) (b := b) h)
    simpa only [readBursts] using this

theorem readMem_keeps {r0 : State} {r : ReadBy} {a : Nat} {n : Nat} {s : State} (h : Keeps r0 s) : Keeps r0 (readMem r a n
    s).2 := by
  unfold readMem
  repeat' (first
    | with_reducible assumption | with_reducible apply readBursts_keeps | extract_lets)

theorem foldEntry_keeps {r0 : State} {b : Nat} {d : List Byte} {s : State} (h : Keeps r0 s) : Keeps r0 (foldEntry b d s) := by
  unfold foldEntry
  extract_lets block e e1
  exact keeps_ite h (keeps_ite (writeEntry_keeps h) (State_setEntry_keeps h))

theorem landBurst_keeps {r0 : State} {b : Nat} {d : List Byte} {poison : Bool} {s : State} (h : Keeps r0 s) :
    Keeps r0 (landBurst b d poison s) := by
  have h2 : Keeps r0 (storeBurst b d (if s.isCompute (32 * b) then foldEntry b d s else s)) :=
    storeBurst_keeps (keeps_ite (foldEntry_keeps h) h)
  unfold landBurst
  dsimp only
  exact keeps_ite (keeps_setMem (keeps_ite (keeps_setErrs h2) h2) (fun x => x)) (keeps_ite (keeps_setErrs h2) h2)

theorem queueBurst_keeps {r0 : State} {b : Nat} {old : List Byte} {s : State} (h : Keeps r0 s) : Keeps r0 (queueBurst b old s) := by
  unfold queueBurst
  exact keeps_ite (keeps_mem h id id (fun x => twf_tset _ _ _ x) id id id) h

theorem verifyBlock_keeps {r0 : State} {block : Nat} {s : State} (h : Keeps r0 s) : Keeps r0 (verifyBlock block s) := by
  unfold verifyBlock
  split
  · exact h
  · extract_lets a
    split
    rename_i ok s1 e
    have hx : Keeps r0 s1 := by
      refine keeps_snd e ?_
      split
      · exact ledgerCheck_keeps (forgetChecked_keeps (writeEntry_keeps h))
      · exact h
    exact keeps_ite (clearQuarantine_keeps hx) (logErr_keeps (State_setQuar_keeps hx))

theorem markRewrite_keeps {r0 : State} {b : Nat} {s : State} (h : Keeps r0 s) : Keeps r0 (markRewrite b s) := by
  unfold markRewrite
  repeat' (first
    | with_reducible assumption | with_reducible apply State_setQuar_keeps | with_reducible apply verifyBlock_keeps | extract_lets
    | split)

theorem openOnRewrite_keeps {r0 : State} {b : Nat} {s : State} (h : Keeps r0 s) : Keeps r0 (openOnRewrite b s) := by
  unfold openOnRewrite
  split
  · exact keeps_ite (forgetChecked_keeps (writeEntry_keeps h)) h
  · exact h

theorem putBurst_keeps {r0 : State} {b : Nat} {d : List Byte} {poison : Bool} {s : State} (h : Keeps r0 s) :
    Keeps r0 (putBurst b d poison s).2 := by
  unfold putBurst
  extract_lets st old
  exact keeps_ite_snd (fun _ => h) (fun _ => keeps_ite_snd (fun _ => keeps_ite_snd (fun _ => State_modStack_keeps h) (fun _ => h))
    (fun _ => markRewrite_keeps (queueBurst_keeps (landBurst_keeps (openOnRewrite_keeps h)))))

theorem writeBurst_keeps {r0 : State} {unit : Nat} {b : Nat} {d : List Byte} {poison : Bool} {s : State} (hk : Keeps r0
    s) : Keeps r0 (writeBurst unit b d poison s).2 := by
  unfold writeBurst
  repeat' (first
    | with_reducible assumption | with_reducible apply logErr_keeps | with_reducible apply recallGranule_keeps
    | with_reducible apply putBurst_keeps | extract_lets | split | refine keeps_snd (by assumption) ?_)

theorem writeBursts_keeps {r0 : State} {unit : Nat} : ∀ {ds : List (List Byte)} {b : Nat} {s : State} (_h : Keeps r0 s),
    Keeps r0 (writeBursts unit b ds s).2
  | [], _, _, h => h
  | d :: ds, b, s, h => by
    have h1 : Keeps r0 (writeBurst unit b d false s).2 := writeBurst_keeps h
    unfold writeBursts
    split
    · rename_i e
      rw [e] at h1
      exact writeBursts_keeps h1
    · rename_i e
      rw [e] at h1
      exact h1

theorem writeMem_keeps {r0 : State} {unit : Nat} {a : Nat} {data : List Byte} {s : State} (h : Keeps r0 s) : Keeps r0
    (writeMem unit a data s).2 := by
  unfold writeMem
  repeat' (first
    | with_reducible assumption | with_reducible apply writeBursts_keeps | with_reducible apply recallRange_keeps | extract_lets | split)

theorem moduleRead_keeps {r0 : State} {r : ReadBy} {a : Nat} {n : Nat} {s : State} (h : Keeps r0 s) : Keeps r0 (moduleRead
    r a n s).2 := by
  unfold moduleRead
  repeat' (first
    | with_reducible assumption | with_reducible apply readMem_keeps | with_reducible apply recallRange_keeps)

theorem landRange_keeps {r0 : State} {a n : Nat} {s : State} (h : Keeps r0 s) : Keeps r0 (landRange a n s) := by
  unfold landRange
  exact keeps_mem h id id (twf_tclear _ _ _) id id id

theorem landWaiting_keeps {r0 : State} {st : Nat} {s : State} (h : Keeps r0 s) : Keeps r0 (landWaiting st s) := by
  unfold landWaiting
  repeat' (first
    | with_reducible assumption | with_reducible apply State_modStack_keeps | with_reducible apply landBurst_keeps
    | with_reducible apply markRewrite_keeps | with_reducible apply openOnRewrite_keeps | with_reducible apply keeps_foldl
    | (intro; try dsimp -zeta only) | extract_lets)

theorem hostRead_keeps {r0 : State} {addr : Nat} {n : Nat} {s : State} (hk : Keeps r0 s) : Keeps r0 (hostRead addr n s) := by
  unfold hostRead
  repeat' (first
    | with_reducible assumption | with_reducible apply send_keeps | split)

theorem readSource_keeps {r0 : State} {fromHost : Bool} {addr : Nat} {n : Nat} {src : Src} {s : State} (hk : Keeps r0
    s) : Keeps r0 (readSource fromHost addr n src s).2 := by
  unfold readSource
  repeat' (first
    | with_reducible assumption | with_reducible apply addErrs_keeps | with_reducible apply moduleRead_keeps
    | with_reducible apply hostRead_keeps | extract_lets | split | refine keeps_snd (by assumption) ?_)

theorem inOrder_keeps {r0 : State} {op : Nat} {w : Nat} {n : Nat} {p : Taken → Bool} {f : Nat → Taken → State → State} {s
    : State} (h : Keeps r0 s) (hf0 : ∀ x0 x1 y, Keeps r0 y → Keeps r0 (f x0 x1 y)) : Keeps r0 (inOrder op w n p f s) := by
  unfold inOrder
  repeat' (first
    | with_reducible assumption | with_reducible apply hf0 | with_reducible apply onRecord_keeps | (intro; try dsimp -zeta only) | split)

theorem vineError_keeps {r0 : State} {kind : Nat} {port : Nat} {member : Nat} {s : State} (h : Keeps r0 s) : Keeps r0
    (vineError kind port member s) := by
  unfold vineError
  repeat' (first
    | with_reducible assumption | with_reducible apply keeps_setVine | with_reducible apply logErr_keeps | extract_lets)

theorem vineOut_keeps {r0 : State} {t : VineTx} {p : Nat} {s : State} (h : Keeps r0 s) : Keeps r0 (vineOut t p s) := by
  unfold vineOut
  repeat' (first
    | with_reducible assumption | with_reducible apply keeps_setVine | with_reducible apply State_modVinePort_keeps
    | (intro; try dsimp -zeta only) | extract_lets | split)

theorem vinePost_keeps {r0 : State} {t : VineTx} {s : State} (h : Keeps r0 s) : Keeps r0 (vinePost t s) := by
  unfold vinePost
  repeat' (first
    | with_reducible assumption | with_reducible apply vineError_keeps | with_reducible apply vineOut_keeps
    | with_reducible apply keeps_foldl | (intro; try dsimp -zeta only) | extract_lets | split)

theorem portDown_keeps {r0 : State} {p : Nat} {kind : Nat} {s : State} (h : Keeps r0 s) : Keeps r0 (portDown p kind s) := by
  unfold portDown
  repeat' (first
    | with_reducible assumption | with_reducible apply keeps_setVine | with_reducible apply State_modVinePort_keeps
    | with_reducible apply msix_keeps | with_reducible apply vineError_keeps | (intro; try dsimp -zeta only)
    | extract_lets)

theorem vineSendIn_keeps {r0 : State} {epoch : Nat} {kind : Nat} {dst : Nat} {args : List Nat} {data : List Byte} {s :
    State} (hk : Keeps r0 s) : Keeps r0 (vineSendIn epoch kind dst args data s) := by
  unfold vineSendIn
  repeat' (first
    | with_reducible assumption | with_reducible apply keeps_setVine | with_reducible apply vinePost_keeps
    | with_reducible apply keeps_foldl | (intro; try dsimp -zeta only) | extract_lets | split)

theorem vineSend_keeps {r0 : State} {kind : Nat} {dst : Nat} {args : List Nat} {data : List Byte} {s : State} (h : Keeps
    r0 s) : Keeps r0 (vineSend kind dst args data s) := by
  unfold vineSend
  repeat' (first
    | with_reducible assumption | with_reducible apply vineSendIn_keeps)

theorem vineSendAll_keeps {r0 : State} {kind : Nat} {dsts : List Nat} {args : List Nat} {data : List Byte} {s : State}
    (h : Keeps r0 s) : Keeps r0 (vineSendAll kind dsts args data s) := by
  unfold vineSendAll
  repeat' (first
    | with_reducible assumption | with_reducible apply vineSend_keeps | with_reducible apply keeps_foldl | (intro; try dsimp -zeta only))

theorem forwardWith_keeps {r0 : State} {t : Taken} {more : List Byte} {s : State} (h : Keeps r0 s) : Keeps r0 (forwardWith
    t more s) := by
  unfold forwardWith
  repeat' (first
    | with_reducible assumption | with_reducible apply vineSendAll_keeps | split)

theorem forwardRecord_keeps {r0 : State} {t : Taken} {s : State} (h : Keeps r0 s) : Keeps r0 (forwardRecord t s) := by
  unfold forwardRecord
  repeat' (first
    | with_reducible assumption | with_reducible apply forwardWith_keeps | extract_lets | split)

theorem takeSlot_keeps {r0 : State} {w : Nat} {t : Taken} {void : Bool} {s : State} (h : Keeps r0 s) : Keeps r0 (takeSlot w t void s) :=
  keeps_same (State_modWin_keeps h) rfl rfl rfl rfl rfl rfl

theorem reserveOutput_keeps {r0 : State} {rs : List (Nat × Nat)} {s : State} (h : Keeps r0 s) : Keeps r0 (reserveOutput rs
    s) := by
  unfold reserveOutput
  repeat' (first
    | with_reducible assumption | with_reducible apply State_modWin_keeps | with_reducible apply keeps_foldl
    | (intro; try dsimp -zeta only) | extract_lets)

theorem State_stepList_keeps {r0 : State} {s : State} {t : Taken} {src : Src} (hk : Keeps r0 s) : Keeps r0 (State.stepList
    s t src).2 := by
  unfold State.stepList
  repeat' (first
    | with_reducible assumption | with_reducible apply readSource_keeps | split)

theorem takeRecord_keeps {r0 : State} {w : Nat} {src : Src} {s : State} (hk : Keeps r0 s) : Keeps r0 (takeRecord w src s) := by
  unfold takeRecord
  repeat' (first
    | with_reducible assumption | with_reducible apply State_modWin_keeps | with_reducible apply complete_keeps
    | with_reducible apply forwardRecord_keeps | with_reducible apply takeSlot_keeps
    | with_reducible apply reserveOutput_keeps | with_reducible apply State_stepList_keeps | (intro; try dsimp -zeta only)
    | extract_lets | split | refine keeps_snd (by assumption) ?_)

theorem State_modPress_keeps {r0 : State} {s : State} {e : Nat} {f : PressEngine → PressEngine} (h : Keeps r0 s) : Keeps
    r0 (State.modPress s e f) := by
  unfold State.modPress
  repeat' (first
    | with_reducible assumption | with_reducible apply keeps_setPress | extract_lets)

theorem State_modDrupe_keeps {r0 : State} {s : State} {e : Nat} {f : DrupeEngine → DrupeEngine} (hk : Keeps r0 s) : Keeps
    r0 (State.modDrupe s e f) := by
  unfold State.modDrupe
  repeat' (first
    | with_reducible assumption | with_reducible apply keeps_setDrupe | extract_lets)

theorem latchPress_keeps {r0 : State} {e : Nat} {s : State} (h : Keeps r0 s) : Keeps r0 (latchPress e s) := by
  unfold latchPress
  repeat' (first
    | with_reducible assumption | with_reducible apply State_modPress_keeps | (intro; try dsimp -zeta only) | extract_lets)

theorem readEffect_keeps {r0 : State} {off : Nat} {s : State} (hk : Keeps r0 s) : Keeps r0 (readEffect off s) := by
  unfold readEffect
  repeat' (first
    | with_reducible assumption | with_reducible apply keeps_setCtl | with_reducible apply keeps_setMem
    | with_reducible apply keeps_setHost | with_reducible apply keeps_setLog | with_reducible apply keeps_setDrupe
    | with_reducible apply keeps_setPress | with_reducible apply keeps_setZest | with_reducible apply keeps_setSeqs
    | with_reducible apply keeps_setCodec | with_reducible apply keeps_setPun | with_reducible apply keeps_setVine
    | with_reducible apply keeps_setSec | with_reducible apply keeps_setPwr | with_reducible apply State_modStack_keeps
    | with_reducible apply State_modPip_keeps | with_reducible apply State_modPun_keeps
    | with_reducible apply State_modVinePort_keeps | with_reducible apply State_modCore_keeps
    | with_reducible apply State_modWedge_keeps | with_reducible apply State_modPress_keeps
    | with_reducible apply State_modDrupe_keeps | with_reducible apply latchPress_keeps | exact fun x => x
    | (show Mem.wf _ = true; simp_all [Mem.wf, twf_tset, twf_tsets, twf_terase, twf_filter])
    | (intro; try dsimp -zeta only) | rfl | extract_lets | split | exact keeps_same hk rfl rfl rfl rfl rfl rfl
    | exact keeps_same ‹Keeps _ _› rfl rfl rfl rfl rfl rfl)

theorem fieldWrite_keeps {r0 : State} {off : Nat} {v : Nat} {ok : Bool} {f : State → State} {s : State} (h : Keeps r0 s)
    (hf0 : ∀ y, Keeps r0 y → Keeps r0 (f y)) : Keeps r0 (fieldWrite off v ok f s) := by
  unfold fieldWrite
  repeat' (first
    | with_reducible assumption | with_reducible apply hf0 | with_reducible apply logInvalid_keeps | split)

theorem winCtlWrite_keeps {r0 : State} {w : Nat} {v : Nat} {s : State} (hk : Keeps r0 s) : Keeps r0 (winCtlWrite w v s) := by
  unfold winCtlWrite
  repeat' (first
    | with_reducible assumption | with_reducible apply keeps_setWin | with_reducible apply State_modWin_keeps
    | with_reducible apply logInvalid_keeps | (intro; try dsimp -zeta only) | extract_lets | split | dsimp +zetaDelta only)

theorem replyHeadWrite_keeps {r0 : State} {w : Nat} {v : Nat} {s : State} (h : Keeps r0 s) : Keeps r0 (replyHeadWrite w v s) := by
  unfold replyHeadWrite
  repeat' (first
    | with_reducible assumption | with_reducible apply State_modWin_keeps | (intro; try dsimp -zeta only) | extract_lets)

theorem outHeadWrite_keeps {r0 : State} {w : Nat} {v : Nat} {s : State} (h : Keeps r0 s) : Keeps r0 (outHeadWrite w v s) := by
  unfold outHeadWrite
  repeat' (first
    | with_reducible assumption | with_reducible apply State_modWin_keeps | (intro; try dsimp -zeta only) | extract_lets)

theorem errHeadWrite_keeps {r0 : State} {v : Nat} {s : State} (h : Keeps r0 s) : Keeps r0 (errHeadWrite v s) := by
  unfold errHeadWrite
  repeat' (first
    | with_reducible assumption | with_reducible apply keeps_setLog | with_reducible apply logInvalid_keeps | extract_lets | split)

theorem engBalWrite_keeps {r0 : State} {v : Nat} {s : State} (h : Keeps r0 s) : Keeps r0 (engBalWrite v s) := by
  simp only [engBalWrite]
  repeat' (first
    | with_reducible assumption | with_reducible apply keeps_setSeqs | with_reducible apply logInvalid_keeps | split)

theorem biasCmdWrite_keeps {r0 : State} {v : Nat} {s : State} (h : Keeps r0 s) : Keeps r0 (biasCmdWrite v s) := by
  unfold biasCmdWrite
  repeat' (first
    | with_reducible assumption | with_reducible apply keeps_setHost | with_reducible apply logInvalid_keeps
    | (intro; try dsimp -zeta only) | extract_lets | split)

theorem pwrCapWrite_keeps {r0 : State} {v : Nat} {s : State} (h : Keeps r0 s) : Keeps r0 (pwrCapWrite v s) := by
  unfold pwrCapWrite
  repeat' (first
    | with_reducible assumption | with_reducible apply keeps_setPwr | with_reducible apply fieldWrite_keeps
    | (intro; try dsimp -zeta only) | extract_lets | split)

theorem modWrite_keeps {r0 : State} {o : Nat} {v : Nat} {s : State} (h : Keeps r0 s) : Keeps r0 (modWrite o v s) := by
  unfold modWrite
  repeat' (first
    | with_reducible assumption | with_reducible apply keeps_setHost | with_reducible apply keeps_setLog
    | with_reducible apply keeps_setSeqs | with_reducible apply fieldWrite_keeps | with_reducible apply errHeadWrite_keeps
    | with_reducible apply engBalWrite_keeps | with_reducible apply biasCmdWrite_keeps | (intro; try dsimp -zeta only)
    | extract_lets | split)

theorem irqDue_keeps {r0 : State} {w : Nat} {s : State} (hk : Keeps r0 s) : Keeps r0 (irqDue w s) := by
  unfold irqDue
  repeat' (first
    | with_reducible assumption | with_reducible apply State_modWin_keeps | with_reducible apply msix_keeps
    | (intro; try dsimp -zeta only) | extract_lets | split)

theorem winWrite_keeps {r0 : State} {w : Nat} {o : Nat} {v : Nat} {s : State} (hk : Keeps r0 s) : Keeps r0 (winWrite w o v
    s) := by
  unfold winWrite
  repeat' (first
    | with_reducible assumption | with_reducible apply State_modWin_keeps | with_reducible apply fieldWrite_keeps
    | with_reducible apply replyHeadWrite_keeps | with_reducible apply outHeadWrite_keeps
    | with_reducible apply winCtlWrite_keeps | with_reducible apply irqDue_keeps | (intro; try dsimp -zeta only)
    | extract_lets | split)

theorem memWrite_keeps {r0 : State} {o : Nat} {v : Nat} {s : State} (h : Keeps r0 s) : Keeps r0 (memWrite o v s) := by
  unfold memWrite
  repeat' (first
    | with_reducible assumption | with_reducible apply keeps_setMem | with_reducible apply logInvalid_keeps | exact fun x => x
    | (show Mem.wf _ = true; simp_all [Mem.wf, twf_tset, twf_tsets, twf_terase, twf_filter])
    | (intro; try dsimp -zeta only) | extract_lets | split)

theorem pipWrite_keeps {r0 : State} {k : Nat} {o : Nat} {v : Nat} {s : State} (h : Keeps r0 s) : Keeps r0 (pipWrite k o v s) := by
  unfold pipWrite
  repeat' (first
    | with_reducible assumption | with_reducible apply State_modPip_keeps | with_reducible apply logInvalid_keeps
    | with_reducible apply fieldWrite_keeps | (intro; try dsimp -zeta only) | extract_lets | split)

theorem drpWrite_keeps {r0 : State} {o : Nat} {v : Nat} {s : State} (h : Keeps r0 s) : Keeps r0 (drpWrite o v s) := by
  unfold drpWrite
  repeat' (first
    | with_reducible assumption | with_reducible apply keeps_setDrupe | with_reducible apply logInvalid_keeps
    | with_reducible apply fieldWrite_keeps | (intro; try dsimp -zeta only) | extract_lets | split)

theorem prsWrite_keeps {r0 : State} {o : Nat} {v : Nat} {s : State} (h : Keeps r0 s) : Keeps r0 (prsWrite o v s) := by
  unfold prsWrite
  repeat' (first
    | with_reducible assumption | with_reducible apply keeps_setPress | with_reducible apply fieldWrite_keeps
    | (intro; try dsimp -zeta only) | extract_lets | split)

theorem codecWrite_keeps {r0 : State} {o : Nat} {v : Nat} {s : State} (h : Keeps r0 s) : Keeps r0 (codecWrite o v s) := by
  unfold codecWrite
  repeat' (first
    | with_reducible assumption | with_reducible apply keeps_setCodec | with_reducible apply logInvalid_keeps | extract_lets | split)

theorem vineWrite_keeps {r0 : State} {o : Nat} {v : Nat} {s : State} (hk : Keeps r0 s) : Keeps r0 (vineWrite o v s) := by
  have key : ∀ x, Keeps r0 x → Keeps r0 (if bit v 0 = true then x else (List.range 12).foldl (fun s p =>
      if (s.vinePort p).state = 0 then s else portDown p 2 s) x) := by
    intro x hx
    split
    · exact hx
    · refine keeps_foldl ?_ _ hx
      intro y p hy
      split
      · exact hy
      · exact portDown_keeps hy
  unfold vineWrite
  split
  · exact hk
  · extract_lets l e d v0 s1 s2
    have h2 : Keeps r0 s2 := key s1 (keeps_setVine hk _)
    split
    · exact h2
    · exact logInvalid_keeps h2

theorem pwrWrite_keeps {r0 : State} {o : Nat} {v : Nat} {s : State} (h : Keeps r0 s) : Keeps r0 (pwrWrite o v s) := by
  unfold pwrWrite
  repeat' (first
    | with_reducible assumption | with_reducible apply keeps_setPwr | with_reducible apply fieldWrite_keeps
    | with_reducible apply pwrCapWrite_keeps | (intro; try dsimp -zeta only) | extract_lets | split)

theorem regWrite_keeps {r0 : State} {off : Nat} {v : Nat} {s : State} (h : Keeps r0 s) : Keeps r0 (regWrite off v s) := by
  unfold regWrite
  repeat' (first
    | with_reducible assumption | with_reducible apply modWrite_keeps | with_reducible apply winWrite_keeps
    | with_reducible apply memWrite_keeps | with_reducible apply pipWrite_keeps | with_reducible apply drpWrite_keeps
    | with_reducible apply prsWrite_keeps | with_reducible apply codecWrite_keeps | with_reducible apply vineWrite_keeps
    | with_reducible apply pwrWrite_keeps | extract_lets | split)

theorem badAccess_keeps {r0 : State} {off : Nat} {size : Nat} {write : Bool} {s : State} (h : Keeps r0 s) : Keeps r0
    (badAccess off size write s) := by
  unfold badAccess
  repeat' (first
    | with_reducible assumption | with_reducible apply send_keeps | with_reducible apply logErr_keeps | extract_lets | split)

theorem hostRegWrite_keeps {r0 : State} {off : Nat} {size : Nat} {v : Nat} {s : State} (h : Keeps r0 s) : Keeps r0
    (hostRegWrite off size v s) := by
  unfold hostRegWrite
  repeat' (first
    | with_reducible assumption | with_reducible apply regWrite_keeps | with_reducible apply badAccess_keeps | split)

theorem hostRegRead_keeps {r0 : State} {off : Nat} {size : Nat} {s : State} (hk : Keeps r0 s) : Keeps r0 (hostRegRead off
    size s) := by
  unfold hostRegRead
  repeat' (first
    | with_reducible assumption | with_reducible apply send_keeps | with_reducible apply badAccess_keeps
    | with_reducible apply readEffect_keeps | split)

end Sys2Proof.Laws
end

