-- ==== Sys2Proof/Laws/FramesSeq.lean ====
section
/-! SUPPORT. One lemma per operation, for pages, boundaries, sequences and prefixes: between its state and the state it answers,
`Keeps` holds. -/

open Sys2Proof Sys2Proof.Machine

namespace Sys2Proof.Laws

theorem State_setPage_keeps {r0 : State} {s : State} {p : Nat} {v : PoolPage} (h : Keeps r0 s) : Keeps r0 (State.setPage s
    p v) := by
  unfold State.setPage
  repeat' (first
    | with_reducible assumption | with_reducible apply keeps_setSeqs | extract_lets)

theorem usePage_keeps {r0 : State} {p use key : Nat} {s : State} (h : Keeps r0 s) : Keeps r0 (usePage p use key s) :=
  keeps_mem (State_setPage_keeps h) id id id id (twf_tset _ _ _) id

theorem takePage_keeps {r0 : State} {j use key : Nat} {s : State} (hk : Keeps r0 s) : ∀ y ∈ takePage j use key s, Keeps r0 y.2 := by
  unfold takePage
  generalize List.find? _ _ = o
  have hf := State_free_keeps hk
  generalize s.free = p at hf ⊢
  cases o with
  | none => intro y hy; cases hy
  | some i =>
    obtain ⟨x, s1⟩ := p
    dsimp only
    generalize State.freePageFrom _ _ _ = pg
    intro y hy
    rw [← Option.some_inj.mp hy]
    exact usePage_keeps hf

theorem refPage_keeps {r0 : State} {p : Nat} {s : State} (h : Keeps r0 s) : Keeps r0 (refPage p s) := by
  unfold refPage
  repeat' (first
    | with_reducible assumption | with_reducible apply State_setPage_keeps | extract_lets)

theorem unrefPage_keeps {r0 : State} {p : Nat} {s : State} (h : Keeps r0 s) : Keeps r0 (unrefPage p s) := by
  unfold unrefPage
  repeat' (first
    | with_reducible assumption | with_reducible apply State_setPage_keeps | extract_lets | split)

theorem unrefPages_keeps {r0 : State} {ps : List Nat} {s : State} (h : Keeps r0 s) : Keeps r0 (unrefPages ps s) := by
  unfold unrefPages
  repeat' (first
    | with_reducible assumption | with_reducible apply unrefPage_keeps | with_reducible apply keeps_foldl | (intro; try dsimp -zeta only))

theorem giveKey_keeps {r0 : State} {tn : Nat} {s : State} (h : Keeps r0 s) : Keeps r0 (giveKey tn s) := by
  unfold giveKey
  refine keeps_ite h ?_
  generalize findBelow 1023 _ = o
  cases o with
  | none => exact h
  | some i => exact keeps_setCodec h _

theorem releaseMarked_keeps {r0 : State} {s : State} (h : Keeps r0 s) : Keeps r0 (releaseMarked s) := by
  unfold releaseMarked
  refine keeps_setCodec ?_ _
  exact keeps_mem (keeps_setSeqs h _) id id id id (fun h => twf_filter _ _ h) id

theorem readPage_keeps {r0 : State} {r : ReadBy} {p x n : Nat} {s : State} (hk : Keeps r0 s) : Keeps r0 (readPage r p x n s).2 := by
  unfold readPage
  refine keeps_foldl_snd ?_ _ hk
  intro a i ha
  exact ReadOut_andThen_keeps (moduleRead_keeps ha)

theorem writePage_keeps {r0 : State} {unit : Nat} {p : Nat} {x : Nat} {d : List Byte} {s : State} (h : Keeps r0 s) : Keeps
    r0 (writePage unit p x d s).2 := by
  unfold writePage
  repeat' (first
    | with_reducible assumption | with_reducible apply writeMem_keeps | with_reducible apply keeps_foldl_snd
    | (intro; try dsimp -zeta only) | extract_lets)

theorem copyPage_keeps {r0 : State} {m : Model} {src dst : Nat} {s : State} (hk : Keeps r0 s) : Keeps r0 (copyPage m src dst s) := by
  unfold copyPage
  refine keeps_foldl ?_ _ hk
  intro a i ha
  exact writeBurst_keeps (recallGranule_keeps (readPage_keeps ha))

theorem markShared_keeps {r0 : State} {s : State} (h : Keeps r0 s) : Keeps r0 (markShared s) := by
  unfold markShared
  repeat' (first
    | with_reducible assumption | with_reducible apply keeps_setSeqs | (intro; try dsimp -zeta only) | extract_lets)

theorem takeListPage_keeps {r0 : State} {q : Nat} {s : State} (hk : Keeps r0 s) : ∀ y ∈ takeListPage q s, Keeps r0 y := by
  unfold takeListPage
  split
  · intro y hy; cases hy; exact hk
  · intro y hy
    obtain ⟨r, hr, rfl⟩ := Option.map_eq_some_iff.mp hy
    exact State_modSeq_keeps (takePage_keeps hk r hr)

theorem placePage_keeps {r0 : State} {q : Nat} {k : Nat} {p : Nat} {s : State} (h : Keeps r0 s) : Keeps r0 (placePage q k
    p s) := by
  unfold placePage
  repeat' (first
    | with_reducible assumption | with_reducible apply State_modSeq_keeps | with_reducible apply unrefPage_keeps
    | with_reducible apply copyPage_keeps | with_reducible apply markShared_keeps | (intro; try dsimp -zeta only)
    | extract_lets | split)

theorem freeEntry_keeps {r0 : State} {q : Nat} {s : State} (h : Keeps r0 s) : Keeps r0 (freeEntry q s) := by
  unfold freeEntry
  repeat' (first
    | with_reducible assumption | with_reducible apply State_modSeq_keeps | (intro; try dsimp -zeta only) | extract_lets)

theorem releaseEntry_keeps {r0 : State} {q : Nat} {s : State} (h : Keeps r0 s) : Keeps r0 (releaseEntry q s) := by
  unfold releaseEntry
  repeat' (first
    | with_reducible assumption | with_reducible apply unrefPage_keeps | with_reducible apply unrefPages_keeps
    | with_reducible apply markShared_keeps | with_reducible apply freeEntry_keeps | extract_lets | split)

theorem releaseSeqOutput_keeps {r0 : State} {q : Nat} {s : State} (h : Keeps r0 s) : Keeps r0 (releaseSeqOutput q s) := by
  unfold releaseSeqOutput
  repeat' (first
    | with_reducible assumption | with_reducible apply State_modWin_keeps | with_reducible apply modRecord_keeps
    | with_reducible apply keeps_foldl | (intro; try dsimp -zeta only) | extract_lets | split)

theorem cancelSeq_keeps {r0 : State} {q : Nat} {s : State} (h : Keeps r0 s) : Keeps r0 (cancelSeq q s) := by
  unfold cancelSeq
  repeat' (first
    | with_reducible assumption | with_reducible apply releaseEntry_keeps | with_reducible apply releaseSeqOutput_keeps)

theorem leavePages_keeps {r0 : State} {q : Nat} {rs : List (Nat × Nat)} {s : State} (h : Keeps r0 s) : Keeps r0
    (leavePages q rs s) := by
  unfold leavePages
  exact keeps_foldl (fun _ _ h => keeps_ite (State_modSeq_keeps h) (unrefPage_keeps h)) _ h

theorem dropTrimmed_keeps {r0 : State} {q : Nat} {s : State} (hk : Keeps r0 s) : Keeps r0 (dropTrimmed q s) := by
  unfold dropTrimmed
  repeat' (first
    | with_reducible assumption | with_reducible apply keeps_setSeqs | (intro; try dsimp -zeta only) | extract_lets)

theorem trimSeq_keeps {r0 : State} {q : Nat} {length : Nat} {token : Nat} {s : State} (hk : Keeps r0 s) : Keeps r0
    (trimSeq q length token s) := by
  unfold trimSeq
  repeat' (first
    | with_reducible assumption | with_reducible apply State_modSeq_keeps | with_reducible apply markShared_keeps
    | with_reducible apply leavePages_keeps | with_reducible apply dropTrimmed_keeps | (intro; try dsimp -zeta only)
    | extract_lets)

theorem State_setCustomer_keeps {r0 : State} {s : State} {c : Nat} {v : Customer} (h : Keeps r0 s) : Keeps r0
    (State.setCustomer s c v) := by
  unfold State.setCustomer
  repeat' (first
    | with_reducible assumption | with_reducible apply keeps_setSeqs | extract_lets)

theorem noteExhausted_keeps {r0 : State} {c : Nat} {stamp : Nat} {was : Bool} {s : State} (h : Keeps r0 s) : Keeps r0
    (noteExhausted c stamp was s) := by
  unfold noteExhausted
  repeat' (first
    | with_reducible assumption | with_reducible apply keeps_setSeqs | extract_lets | split)

theorem chargeToken_keeps {r0 : State} {c : Nat} {stamp : Nat} {s : State} (h : Keeps r0 s) : Keeps r0 (chargeToken c
    stamp s) := by
  unfold chargeToken
  repeat' (first
    | with_reducible assumption | with_reducible apply State_setCustomer_keeps | with_reducible apply noteExhausted_keeps | extract_lets
    | split)

theorem applyBudget_keeps {r0 : State} {e : BoundaryEffect} {stamp : Nat} {s : State} (h : Keeps r0 s) : Keeps r0
    (applyBudget e stamp s) := by
  unfold applyBudget
  repeat' (first
    | with_reducible assumption | with_reducible apply keeps_setSeqs | with_reducible apply State_setCustomer_keeps
    | with_reducible apply noteExhausted_keeps | with_reducible apply keeps_foldl | (intro; try dsimp -zeta only)
    | extract_lets | split)

theorem commitSeq_keeps {r0 : State} {q : Nat} {token : Option Nat} {stop : Option (Nat × Nat)} {s : State} (h : Keeps r0
    s) : Keeps r0 (commitSeq q token stop s).2 := by
  unfold commitSeq
  repeat' (first
    | with_reducible assumption | with_reducible apply keeps_setSeqs | with_reducible apply State_modSeq_keeps
    | (intro; try dsimp -zeta only) | extract_lets)

theorem tokenEntry_keeps {r0 : State} {ordinal : Nat} {stamp : Nat} {s : State} {c : Commit} (h : Keeps r0 s) : Keeps r0
    (tokenEntry ordinal stamp s c) := by
  unfold tokenEntry
  repeat' (first
    | with_reducible assumption | with_reducible apply State_free_keeps | with_reducible apply outEntry_keeps | extract_lets | split)

theorem batchEntries_keeps {r0 : State} {ordinal : Nat} {stamp : Nat} {o : Nat} {cs : List Commit} {s : State} (h : Keeps
    r0 s) : Keeps r0 (batchEntries ordinal stamp o cs s) := by
  unfold batchEntries
  repeat' (first
    | with_reducible assumption | with_reducible apply outEntry_keeps | with_reducible apply keeps_foldl | (intro; try dsimp -zeta only)
    | extract_lets | split)

theorem deliver_keeps {r0 : State} {perStep : Bool} {ordinal : Nat} {stamp : Nat} {cs : List Commit} {s : State}
    (h : Keeps r0 s) : Keeps r0 (deliver perStep ordinal stamp cs s) := by
  unfold deliver
  repeat' (first
    | with_reducible assumption | with_reducible apply tokenEntry_keeps | with_reducible apply batchEntries_keeps
    | with_reducible apply keeps_foldl | (intro; try dsimp -zeta only) | split)

theorem stepReply_keeps {r0 : State} {st : Step} {outs : List Nat} {stops : Nat} {null : Bool} {ordinal : Nat} {stamp :
    Nat} {s : State} (h : Keeps r0 s) : Keeps r0 (stepReply st outs stops null ordinal stamp s) := by
  unfold stepReply
  repeat' (first
    | with_reducible assumption | with_reducible apply hostWrite_keeps | with_reducible apply completeAt_keeps
    | (intro; try dsimp -zeta only) | extract_lets | split)

theorem clearModelBlocks_keeps {r0 : State} {m : Nat} {s : State} (h : Keeps r0 s) : Keeps r0 (clearModelBlocks m s) := by
  unfold clearModelBlocks
  repeat' (first
    | with_reducible assumption | with_reducible apply clearQuarantine_keeps | with_reducible apply keeps_foldl
    | (intro; try dsimp -zeta only))

theorem dropVariant_keeps {r0 : State} {v : Nat} {s : State} (h : Keeps r0 s) : Keeps r0 (dropVariant v s) := by
  unfold dropVariant
  repeat' (first
    | with_reducible assumption | with_reducible apply keeps_setSeqs | with_reducible apply clearQuarantine_keeps
    | with_reducible apply unrefPages_keeps | with_reducible apply keeps_foldl | (intro; try dsimp -zeta only)
    | extract_lets)

theorem dropModel_keeps {r0 : State} {m : Nat} {s : State} (hk : Keeps r0 s) : Keeps r0 (dropModel m s) := by
  unfold dropModel
  repeat' (first
    | with_reducible assumption | with_reducible apply keeps_setMem | with_reducible apply State_modModel_keeps
    | with_reducible apply unrefPages_keeps | with_reducible apply clearModelBlocks_keeps | exact fun x => x
    | (show Mem.wf _ = true; simp_all [Mem.wf, twf_tset, twf_tsets, twf_terase, twf_filter])
    | (intro; try dsimp -zeta only) | extract_lets)

theorem dropWhole_keeps {r0 : State} {m : Nat} {s : State} (hk : Keeps r0 s) : Keeps r0 (dropWhole m s) := by
  unfold dropWhole
  repeat' (first
    | with_reducible assumption | with_reducible apply dropVariant_keeps | with_reducible apply dropModel_keeps
    | with_reducible apply keeps_foldl | (intro; try dsimp -zeta only))

theorem endModels_keeps {r0 : State} {es : List Pending} {s : State} (hk : Keeps r0 s) : Keeps r0 (endModels es s) := by
  unfold endModels
  repeat' (first
    | with_reducible assumption | with_reducible apply dropWhole_keeps | with_reducible apply keeps_foldl
    | (intro; try dsimp -zeta only) | split)

theorem replyEffects_keeps {r0 : State} {es : List Pending} {s : State} (h : Keeps r0 s) : Keeps r0 (replyEffects es s) := by
  unfold replyEffects
  repeat' (first
    | with_reducible assumption | with_reducible apply complete_keeps | with_reducible apply keeps_foldl | (intro; try dsimp -zeta only)
    | extract_lets | split)

theorem applyEarly_keeps {r0 : State} {es : List Pending} {s : State} (h : Keeps r0 s) : Keeps r0 (applyEarly es s) := by
  unfold applyEarly
  repeat' (first
    | with_reducible assumption | with_reducible apply releaseEntry_keeps | with_reducible apply cancelSeq_keeps
    | with_reducible apply trimSeq_keeps | with_reducible apply keeps_foldl | (intro; try dsimp -zeta only) | extract_lets
    | split)

theorem applyLate_keeps {r0 : State} {es : List Pending} {s : State} (h : Keeps r0 s) : Keeps r0 (applyLate es s) := by
  unfold applyLate
  repeat' (first
    | with_reducible assumption | with_reducible apply State_modSeq_keeps | with_reducible apply keeps_foldl
    | (intro; try dsimp -zeta only) | extract_lets | split)

theorem commitSlots_keeps {r0 : State} {st : Step} {outs : List Nat} {picks : List SlotPick} {s : State} (h : Keeps r0
    s) : Keeps r0 (commitSlots st outs picks s).2 := by
  unfold commitSlots
  repeat' (first
    | with_reducible assumption | with_reducible apply commitSeq_keeps | with_reducible apply keeps_foldl_snd
    | (intro; try dsimp -zeta only) | extract_lets | split)

theorem endCloses_keeps {r0 : State} {es : List Pending} {cancelled : List Nat} {s : State} (h : Keeps r0 s) : Keeps r0
    (endCloses es cancelled s) := by
  unfold endCloses
  repeat' (first
    | with_reducible assumption | with_reducible apply keeps_setSeqs | with_reducible apply forwardWith_keeps
    | with_reducible apply releaseEntry_keeps | with_reducible apply replyEffects_keeps | with_reducible apply keeps_foldl
    | (intro; try dsimp -zeta only) | extract_lets | split)

theorem countBoundary_keeps {r0 : State} {s : State} (h : Keeps r0 s) : Keeps r0 (countBoundary s) := by
  unfold countBoundary
  repeat' (first
    | with_reducible assumption | with_reducible apply keeps_setSeqs | extract_lets)

theorem holdMember_keeps {r0 : State} {m : Nat} {stack : Nat} {s : State} (h : Keeps r0 s) : Keeps r0 (holdMember m stack s) := by
  unfold holdMember
  repeat' (first
    | with_reducible assumption | with_reducible apply keeps_setVine | with_reducible apply msix_keeps
    | with_reducible apply logErr_keeps | extract_lets | split)

theorem coolMember_keeps {r0 : State} {m : Nat} {s : State} (h : Keeps r0 s) : Keeps r0 (coolMember m s) := by
  unfold coolMember
  repeat' (first
    | with_reducible assumption | with_reducible apply keeps_setVine | (intro; try dsimp -zeta only) | extract_lets)

theorem reportHeat_keeps {r0 : State} {s : State} (h : Keeps r0 s) : Keeps r0 (reportHeat s) := by
  unfold reportHeat
  repeat' (first
    | with_reducible assumption | with_reducible apply keeps_setVine | with_reducible apply vineSend_keeps
    | with_reducible apply holdMember_keeps | with_reducible apply coolMember_keeps | with_reducible apply keeps_foldl
    | (intro; try dsimp -zeta only) | extract_lets | split)

theorem groupCommit_keeps {r0 : State} {st : Option Step} {outs : List Nat} {cs : List Commit} {effects : Bool} {ordinal :
    Nat} {stamp : Nat} {s : State} (h : Keeps r0 s) : Keeps r0 (groupCommit st outs cs effects ordinal stamp s) := by
  unfold groupCommit
  repeat' (first
    | with_reducible assumption | with_reducible apply keeps_setVine | with_reducible apply vineSendAll_keeps
    | with_reducible apply reportHeat_keeps | (intro; try dsimp -zeta only) | extract_lets | split)

theorem reportPips_keeps {r0 : State} {s : State} (h : Keeps r0 s) : Keeps r0 (reportPips s) := by
  unfold reportPips
  repeat' (first
    | with_reducible assumption | with_reducible apply msix_keeps | with_reducible apply logErr_keeps
    | with_reducible apply State_modStack_keeps | with_reducible apply keeps_foldl | (intro; try dsimp -zeta only) | split)

theorem boundary_keeps {r0 : State} {st : Option Step} {null : Bool} {picks : List SlotPick} {s : State} (h : Keeps r0
    s) : Keeps r0 (boundary st null picks s) := by
  unfold boundary
  repeat' (first
    | with_reducible assumption | with_reducible apply keeps_setSeqs | with_reducible apply releaseMarked_keeps
    | with_reducible apply chargeToken_keeps | with_reducible apply applyBudget_keeps | with_reducible apply deliver_keeps
    | with_reducible apply stepReply_keeps | with_reducible apply replyEffects_keeps | with_reducible apply endModels_keeps
    | with_reducible apply applyEarly_keeps | with_reducible apply applyLate_keeps | with_reducible apply reportPips_keeps
    | with_reducible apply commitSlots_keeps | with_reducible apply endCloses_keeps
    | with_reducible apply countBoundary_keeps | with_reducible apply groupCommit_keeps | with_reducible apply keeps_foldl
    | (intro; try dsimp -zeta only) | extract_lets | split)

theorem restBoundary_keeps {r0 : State} {s : State} (h : Keeps r0 s) : Keeps r0 (restBoundary s) := by
  unfold restBoundary
  repeat' (first
    | with_reducible assumption | with_reducible apply boundary_keeps | split)

theorem addEffect_keeps {r0 : State} {e : Pending} {s : State} (h : Keeps r0 s) : Keeps r0 (addEffect e s) := by
  unfold addEffect
  repeat' (first
    | with_reducible assumption | with_reducible apply keeps_setSeqs | with_reducible apply restBoundary_keeps | extract_lets | split)

theorem nullBoundary_keeps {r0 : State} {st : Step} {status : Nat} {detail : Nat} {s : State} (h : Keeps r0 s) : Keeps r0
    (nullBoundary st status detail s) := by
  unfold nullBoundary
  repeat' (first
    | with_reducible assumption | with_reducible apply boundary_keeps | extract_lets)

theorem modStep_keeps {r0 : State} {id : Nat} {f : Step → Step} {s : State} (h : Keeps r0 s) : Keeps r0 (modStep id f s) := by
  unfold modStep
  repeat' (first
    | with_reducible assumption | with_reducible apply keeps_setSeqs | (intro; try dsimp -zeta only) | extract_lets)

theorem removeStep_keeps {r0 : State} {id : Nat} {s : State} (h : Keeps r0 s) : Keeps r0 (removeStep id s) := by
  unfold removeStep
  repeat' (first
    | with_reducible assumption | with_reducible apply keeps_setSeqs | (intro; try dsimp -zeta only) | extract_lets)

theorem withdrawStep_keeps {r0 : State} {st : Step} {a : Answer} {s : State} (h : Keeps r0 s) : Keeps r0 (withdrawStep st
    a s) := by
  unfold withdrawStep
  repeat' (first
    | with_reducible assumption | with_reducible apply complete_keeps | with_reducible apply removeStep_keeps | extract_lets)

theorem faultStep_keeps {r0 : State} {id : Nat} {status : Nat} {detail : Nat} {s : State} (h : Keeps r0 s) : Keeps r0
    (faultStep id status detail s) := by
  unfold faultStep
  repeat' (first
    | with_reducible assumption | with_reducible apply modStep_keeps | (intro; try dsimp -zeta only) | extract_lets)

theorem seqOpen_keeps {r0 : State} {w : Nat} {t : Taken} {s : State} (h : Keeps r0 s) : Keeps r0 (seqOpen w t s) := by
  unfold seqOpen
  repeat' (first
    | with_reducible assumption | with_reducible apply State_modSeq_keeps | with_reducible apply complete_keeps
    | with_reducible apply checked_keeps | with_reducible apply giveKey_keeps | (intro; try dsimp -zeta only)
    | extract_lets)

theorem takePlaces_keeps {r0 : State} {q : Nat} {s : State} {ks : List Nat} (h : Keeps r0 s) : Keeps r0 (takePlaces q s
    ks).2 := by
  unfold takePlaces
  repeat' (first
    | with_reducible assumption | with_reducible apply takePage_keeps | with_reducible apply keeps_foldl_snd
    | (intro; try dsimp -zeta only) | split | refine keeps_some (by assumption) ?_)

theorem withListPage_keeps {r0 : State} {q : Nat} {s : State} (hk : Keeps r0 s) : Keeps r0 (withListPage q s) := by
  unfold withListPage
  split
  · exact keeps_getD hk (takeListPage_keeps hk)
  · exact hk

theorem appendTokens_keeps {r0 : State} {w : Nat} {t : Taken} {toks : List Nat} {s : State} (hk : Keeps r0 s) : Keeps r0
    (appendTokens w t toks s) := by
  unfold appendTokens
  repeat' (first
    | with_reducible assumption | with_reducible apply State_modSeq_keeps | with_reducible apply complete_keeps
    | with_reducible apply startRecord_keeps | with_reducible apply takePlaces_keeps
    | with_reducible apply withListPage_keeps | (intro; try dsimp -zeta only) | extract_lets | split)

theorem seqAppend_keeps {r0 : State} {src : Src} {w : Nat} {t : Taken} {s : State} (h : Keeps r0 s) : Keeps r0 (seqAppend
    src w t s) := by
  unfold seqAppend
  repeat' (first
    | with_reducible assumption | with_reducible apply complete_keeps | with_reducible apply readSource_keeps
    | with_reducible apply forwardWith_keeps | with_reducible apply appendTokens_keeps | (intro; try dsimp -zeta only)
    | extract_lets | split | refine keeps_snd (by assumption) ?_)

theorem dropReserved_keeps {r0 : State} {rs : List (Nat × Nat)} {s : State} (h : Keeps r0 s) : Keeps r0 (dropReserved rs s) := by
  unfold dropReserved
  repeat' (first
    | with_reducible assumption | with_reducible apply unrefPages_keeps)

theorem endAppend_keeps {r0 : State} {q : Nat} {a : Append} {ans : Answer} {s : State} (h : Keeps r0 s) : Keeps r0
    (endAppend q a ans s) := by
  unfold endAppend
  repeat' (first
    | with_reducible assumption | with_reducible apply State_modSeq_keeps | with_reducible apply complete_keeps
    | (intro; try dsimp -zeta only) | extract_lets)

theorem voidRows_keeps {r0 : State} {q : Nat} {s : State} (h : Keeps r0 s) : Keeps r0 (voidRows q s) := by
  unfold voidRows
  repeat' (first
    | with_reducible assumption | with_reducible apply keeps_setSeqs | with_reducible apply keeps_setVine | (intro; try dsimp -zeta only)
    | extract_lets)

theorem failFill_keeps {r0 : State} {q : Nat} {status : Nat} {detail : Nat} {s : State} (hk : Keeps r0 s) : Keeps r0
    (failFill q status detail s) := by
  unfold failFill
  repeat' (first
    | with_reducible assumption | with_reducible apply State_modSeq_keeps | with_reducible apply leavePages_keeps
    | with_reducible apply endAppend_keeps | with_reducible apply voidRows_keeps | (intro; try dsimp -zeta only)
    | extract_lets | split)

theorem keepPages_keeps {r0 : State} {q : Nat} {wrote : Nat → Bool} {own : Nat → Bool} {copied : Nat → Bool} {rs : List
    (Nat × Nat)} {s : State} (hk : Keeps r0 s) : Keeps r0 (keepPages q wrote own copied rs s).2 := by
  unfold keepPages
  repeat' (first
    | with_reducible assumption | with_reducible apply State_modSeq_keeps | with_reducible apply unrefPage_keeps
    | with_reducible apply keeps_foldl_snd | (intro; try dsimp -zeta only) | extract_lets | split)

theorem finishFill_keeps {r0 : State} {q : Nat} {a : Append} {s : State} (hk : Keeps r0 s) : Keeps r0 (finishFill q a s) := by
  unfold finishFill
  repeat' (first
    | with_reducible assumption | with_reducible apply State_modSeq_keeps | with_reducible apply markShared_keeps
    | with_reducible apply leavePages_keeps | with_reducible apply endAppend_keeps | with_reducible apply keepPages_keeps
    | (intro; try dsimp -zeta only) | extract_lets)

theorem copyShared_keeps {r0 : State} {q : Nat} {a : Append} {wrote : Nat → Bool} {s : State} (hk : Keeps r0 s) : Keeps r0
    (copyShared q a wrote s) := by
  unfold copyShared
  repeat' (first
    | with_reducible assumption | with_reducible apply State_modSeq_keeps | with_reducible apply copyPage_keeps
    | with_reducible apply keeps_foldl | (intro; try dsimp -zeta only) | extract_lets | split)

theorem fillBegin_keeps {r0 : State} {q : Nat} {s : State} (h : Keeps r0 s) : Keeps r0 (fillBegin q s) := by
  unfold fillBegin
  repeat' (first
    | with_reducible assumption | with_reducible apply State_modSeq_keeps | with_reducible apply leavePages_keeps
    | with_reducible apply endAppend_keeps | with_reducible apply finishFill_keeps | with_reducible apply copyShared_keeps
    | (intro; try dsimp -zeta only) | extract_lets | split)

theorem fillComplete_keeps {r0 : State} {q : Nat} {s : State} (h : Keeps r0 s) : Keeps r0 (fillComplete q s) := by
  unfold fillComplete
  repeat' (first
    | with_reducible assumption | with_reducible apply finishFill_keeps | split)

theorem atBoundary_keeps {r0 : State} {w : Nat} {t : Taken} {at_ : Option Nat} {eff : BoundaryEffect} {s : State}
    (h : Keeps r0 s) : Keeps r0 (atBoundary w t at_ eff s) := by
  unfold atBoundary
  repeat' (first
    | with_reducible assumption | with_reducible apply startRecord_keeps | with_reducible apply addEffect_keeps | extract_lets)

theorem seqCancel_keeps {r0 : State} {w : Nat} {t : Taken} {s : State} (h : Keeps r0 s) : Keeps r0 (seqCancel w t s) := by
  unfold seqCancel
  repeat' (first
    | with_reducible assumption | with_reducible apply State_modSeq_keeps | with_reducible apply complete_keeps
    | with_reducible apply atBoundary_keeps | (intro; try dsimp -zeta only) | extract_lets | split)

theorem seqTrim_keeps {r0 : State} {w : Nat} {t : Taken} {s : State} (h : Keeps r0 s) : Keeps r0 (seqTrim w t s) := by
  unfold seqTrim
  repeat' (first
    | with_reducible assumption | with_reducible apply checked_keeps | with_reducible apply atBoundary_keeps
    | (intro; try dsimp -zeta only) | extract_lets)

theorem seqClose_keeps {r0 : State} {w : Nat} {t : Taken} {s : State} (h : Keeps r0 s) : Keeps r0 (seqClose w t s) := by
  unfold seqClose
  repeat' (first
    | with_reducible assumption | with_reducible apply State_modSeq_keeps | with_reducible apply complete_keeps
    | with_reducible apply atBoundary_keeps | (intro; try dsimp -zeta only) | extract_lets | split)

theorem samplerSet_keeps {r0 : State} {w : Nat} {t : Taken} {s : State} (hk : Keeps r0 s) : Keeps r0 (samplerSet w t s) := by
  unfold samplerSet
  repeat' (first
    | with_reducible assumption | with_reducible apply checked_keeps | with_reducible apply atBoundary_keeps
    | (intro; try dsimp -zeta only) | extract_lets)

theorem stopSetWith_keeps {r0 : State} {table : List Byte} {w : Nat} {t : Taken} {s : State} (h : Keeps r0 s) : Keeps r0
    (stopSetWith table w t s) := by
  unfold stopSetWith
  repeat' (first
    | with_reducible assumption | with_reducible apply checked_keeps | with_reducible apply atBoundary_keeps
    | (intro; try dsimp -zeta only) | extract_lets)

theorem stopSet_keeps {r0 : State} {src : Src} {w : Nat} {t : Taken} {s : State} (h : Keeps r0 s) : Keeps r0 (stopSet src
    w t s) := by
  unfold stopSet
  repeat' (first
    | with_reducible assumption | with_reducible apply complete_keeps | with_reducible apply readSource_keeps
    | with_reducible apply forwardWith_keeps | with_reducible apply stopSetWith_keeps | extract_lets | split
    | refine keeps_snd (by assumption) ?_)

theorem maskLoadWith_keeps {r0 : State} {d : List Byte} {w : Nat} {t : Taken} {s : State} (h : Keeps r0 s) : Keeps r0
    (maskLoadWith d w t s) := by
  unfold maskLoadWith
  repeat' (first
    | with_reducible assumption | with_reducible apply keeps_setSeqs | with_reducible apply complete_keeps | extract_lets)

theorem maskLoad_keeps {r0 : State} {src : Src} {w : Nat} {t : Taken} {s : State} (h : Keeps r0 s) : Keeps r0 (maskLoad
    src w t s) := by
  unfold maskLoad
  repeat' (first
    | with_reducible assumption | with_reducible apply complete_keeps | with_reducible apply readSource_keeps
    | with_reducible apply forwardWith_keeps | with_reducible apply maskLoadWith_keeps | extract_lets | split
    | refine keeps_snd (by assumption) ?_)

theorem maskFree_keeps {r0 : State} {w : Nat} {t : Taken} {s : State} (hk : Keeps r0 s) : Keeps r0 (maskFree w t s) := by
  unfold maskFree
  repeat' (first
    | with_reducible assumption | with_reducible apply keeps_setSeqs | with_reducible apply complete_keeps
    | with_reducible apply modRecord_keeps | (intro; try dsimp -zeta only) | extract_lets | split)

theorem budgetSet_keeps {r0 : State} {w : Nat} {t : Taken} {s : State} (h : Keeps r0 s) : Keeps r0 (budgetSet w t s) := by
  unfold budgetSet
  repeat' (first
    | with_reducible assumption | with_reducible apply atBoundary_keeps)

theorem budgetWindow_keeps {r0 : State} {w : Nat} {t : Taken} {s : State} (h : Keeps r0 s) : Keeps r0 (budgetWindow w t s) := by
  unfold budgetWindow
  repeat' (first
    | with_reducible assumption | with_reducible apply atBoundary_keeps)

theorem attachPrefix_keeps {r0 : State} {q : Nat} {pages : List Nat} {len : Nat} {toks : List Nat} {s : State} (h : Keeps
    r0 s) : Keeps r0 (attachPrefix q pages len toks s) := by
  unfold attachPrefix
  repeat' (first
    | with_reducible assumption | with_reducible apply keeps_setSeqs | with_reducible apply State_modSeq_keeps
    | with_reducible apply refPage_keeps | with_reducible apply markShared_keeps | with_reducible apply keeps_foldl
    | (intro; try dsimp -zeta only) | extract_lets)

theorem findPrefix_keeps {r0 : State} {w : Nat} {t : Taken} {toks : List Nat} {s : State} (hk : Keeps r0 s) :
    Keeps r0 (findPrefix w t toks s) := by
  unfold findPrefix
  extract_lets
  split
  · exact complete_keeps hk
  · split
    · exact complete_keeps hk
    · rename_i e
      exact complete_keeps (attachPrefix_keeps (takeListPage_keeps hk _ e))

theorem prefixFind_keeps {r0 : State} {src : Src} {w : Nat} {t : Taken} {s : State} (h : Keeps r0 s) : Keeps r0
    (prefixFind src w t s) := by
  unfold prefixFind
  repeat' (first
    | with_reducible assumption | with_reducible apply complete_keeps | with_reducible apply checked_keeps
    | with_reducible apply readSource_keeps | with_reducible apply forwardWith_keeps
    | with_reducible apply findPrefix_keeps | (intro; try dsimp -zeta only) | extract_lets | split
    | refine keeps_snd (by assumption) ?_)

theorem newNode_keeps {r0 : State} {q : Nat} {m : Nat} {v : Nat} {scope : Option Nat} {toks : List Nat} {d : Nat} {s :
    State} (h : Keeps r0 s) : Keeps r0 (newNode q m v scope toks d s) := by
  unfold newNode
  repeat' (first
    | with_reducible assumption | with_reducible apply keeps_setSeqs | with_reducible apply refPage_keeps
    | with_reducible apply keeps_foldl | (intro; try dsimp -zeta only) | extract_lets)

theorem modPins_keeps {r0 : State} {m : Nat} {v : Nat} {scope : Option Nat} {toks : List Nat} {f : Nat → Nat} {s : State}
    (h : Keeps r0 s) : Keeps r0 (modPins m v scope toks f s) := by
  unfold modPins
  repeat' (first
    | with_reducible assumption | with_reducible apply keeps_setSeqs | (intro; try dsimp -zeta only) | extract_lets)

theorem pinPrefix_keeps {r0 : State} {w : Nat} {t : Taken} {toks : List Nat} {s : State} (h : Keeps r0 s) : Keeps r0
    (pinPrefix w t toks s) := by
  unfold pinPrefix
  repeat' (first
    | with_reducible assumption | with_reducible apply complete_keeps | with_reducible apply markShared_keeps
    | with_reducible apply newNode_keeps | with_reducible apply modPins_keeps | with_reducible apply keeps_foldl
    | (intro; try dsimp -zeta only) | extract_lets | split)

theorem prefixPin_keeps {r0 : State} {src : Src} {w : Nat} {t : Taken} {s : State} (h : Keeps r0 s) : Keeps r0 (prefixPin
    src w t s) := by
  unfold prefixPin
  repeat' (first
    | with_reducible assumption | with_reducible apply complete_keeps | with_reducible apply checked_keeps
    | with_reducible apply readSource_keeps | with_reducible apply forwardWith_keeps
    | with_reducible apply pinPrefix_keeps | (intro; try dsimp -zeta only) | extract_lets | split
    | refine keeps_snd (by assumption) ?_)

theorem pruneBramble_keeps {r0 : State} {m : Nat} {v : Nat} {scope : Option Nat} {s : State} (h : Keeps r0 s) : Keeps r0
    (pruneBramble m v scope s) := by
  unfold pruneBramble
  repeat' (first
    | with_reducible assumption | with_reducible apply keeps_setSeqs | with_reducible apply unrefPages_keeps
    | with_reducible apply markShared_keeps | with_reducible apply keeps_foldl | (intro; try dsimp -zeta only)
    | extract_lets)

theorem unpinPrefix_keeps {r0 : State} {w : Nat} {t : Taken} {toks : List Nat} {s : State} (h : Keeps r0 s) : Keeps r0
    (unpinPrefix w t toks s) := by
  unfold unpinPrefix
  repeat' (first
    | with_reducible assumption | with_reducible apply complete_keeps | with_reducible apply modPins_keeps
    | with_reducible apply pruneBramble_keeps | (intro; try dsimp -zeta only) | extract_lets | split)

theorem prefixUnpin_keeps {r0 : State} {src : Src} {w : Nat} {t : Taken} {s : State} (h : Keeps r0 s) : Keeps r0
    (prefixUnpin src w t s) := by
  unfold prefixUnpin
  repeat' (first
    | with_reducible assumption | with_reducible apply complete_keeps | with_reducible apply readSource_keeps
    | with_reducible apply forwardWith_keeps | with_reducible apply unpinPrefix_keeps | extract_lets | split
    | refine keeps_snd (by assumption) ?_)

end Sys2Proof.Laws
end

