-- ==== Sys2Proof/Laws/FramesUnits.lean ====
section
/-! SUPPORT. One lemma per operation, for pips, fences, images, control records, the codec and the host port: between its state and the state it answers,
`Keeps` holds. -/

open Sys2Proof Sys2Proof.Machine

namespace Sys2Proof.Laws

theorem State_modPipUnit_keeps {r0 : State} {s : State} {k : Nat} {p : Nat} {f : Pip → Pip} (h : Keeps r0 s) : Keeps r0
    (State.modPipUnit s k p f) := by
  unfold State.modPipUnit
  repeat' (first
    | with_reducible assumption | with_reducible apply State_modPip_keeps | (intro; try dsimp -zeta only) | extract_lets)

theorem State_modRun_keeps {r0 : State} {s : State} {k : Nat} {i : Nat} {f : Run → Run} (h : Keeps r0 s) : Keeps r0
    (State.modRun s k i f) := by
  unfold State.modRun
  repeat' (first
    | with_reducible assumption | with_reducible apply State_modPip_keeps | (intro; try dsimp -zeta only) | extract_lets)

theorem runFault_keeps {r0 : State} {k : Nat} {i : Nat} {b : Nat} {p : Nat} {s : State} (h : Keeps r0 s) : Keeps r0
    (runFault k i b p s) := by
  unfold runFault
  repeat' (first
    | with_reducible assumption | with_reducible apply State_modRun_keeps | (intro; try dsimp -zeta only) | extract_lets)

theorem pipFence_keeps {r0 : State} {k : Nat} {i : Nat} {p : Nat} {row : Nat} {write : Bool} {outside : Bool} {s : State}
    (h : Keeps r0 s) : Keeps r0 (pipFence k i p row write outside s) := by
  unfold pipFence
  repeat' (first
    | with_reducible assumption | with_reducible apply State_modPip_keeps | with_reducible apply logErr_keeps
    | with_reducible apply State_modRun_keeps | with_reducible apply runFault_keeps | (intro; try dsimp -zeta only)
    | extract_lets)

theorem maybeLand_keeps {r0 : State} {b : Nat} {s : State} (hk : Keeps r0 s) : Keeps r0 (maybeLand b s) := by
  simp only [maybeLand]
  repeat' (first
    | with_reducible assumption | with_reducible apply keeps_setMem | with_reducible apply State_free_keeps
    | exact fun x => x | (show Mem.wf _ = true; simp_all [Mem.wf, twf_tset, twf_tsets, twf_terase, twf_filter])
    | (intro; try dsimp -zeta only) | split)

theorem settleRow_keeps {r0 : State} {k : Nat} {p : Nat} {row : Nat} {s : State} (hk : Keeps r0 s) : Keeps r0 (settleRow k
    p row s) := by
  unfold settleRow
  repeat' (first
    | with_reducible assumption | with_reducible apply maybeLand_keeps | with_reducible apply keeps_foldl
    | (intro; try dsimp -zeta only))

theorem pipRead1_keeps {r0 : State} {k : Nat} {i : Nat} {p : Nat} {row : Nat} {s : State} (hk : Keeps r0 s) : Keeps r0
    (pipRead1 k i p row s).2 := by
  unfold pipRead1
  repeat' (first
    | with_reducible assumption | with_reducible apply pipFence_keeps | with_reducible apply settleRow_keeps | split)

theorem pipPut_keeps {r0 : State} {b : Nat} {d : List Byte} {s : State} (h : Keeps r0 s) : Keeps r0 (pipPut b d s) := by
  have he : ∀ {s : State} (l : List Byte), Keeps r0 s → Keeps r0 (s.setMem { s.mem with errs := tset [] s.mem.errs b l }) :=
    fun l h => keeps_mem h id (fun h => twf_tset _ _ _ h) id id id id
  have h1 := storeBurst_keeps (b := b) (d := d) h
  exact keeps_ite (he _ h1) h1

theorem pipWrite1_keeps {r0 : State} {k : Nat} {i : Nat} {p : Nat} {row : Nat} {d : List Byte} {s : State} (h : Keeps r0
    s) : Keeps r0 (pipWrite1 k i p row d s) := by
  unfold pipWrite1
  repeat' (first
    | with_reducible assumption | with_reducible apply pipFence_keeps | with_reducible apply pipPut_keeps
    | with_reducible apply keeps_foldl | (intro; try dsimp -zeta only) | extract_lets | split)

theorem rowsSpent_keeps {r0 : State} {k : Nat} {p : Nat} {n : Nat} {row : Nat} {s : State} (hk : Keeps r0 s) : Keeps r0
    (rowsSpent k p n row s) := by
  unfold rowsSpent
  repeat' (first
    | with_reducible assumption | with_reducible apply State_modPipUnit_keeps | (intro; try dsimp -zeta only)
    | extract_lets)

theorem byRows_keeps {r0 : State} {k : Nat} {p : Nat} {w : Nat} {f : Nat → State → State} {fin : State → State} {s :
    State} (hk : Keeps r0 s) (hf0 : ∀ x0 y, Keeps r0 y → Keeps r0 (f x0 y)) (hf1 : ∀ y, Keeps r0 y → Keeps r0 (fin
    y)) : Keeps r0 (byRows k p w f fin s) := by
  unfold byRows
  repeat' (first
    | with_reducible assumption | with_reducible apply hf0 | with_reducible apply hf1
    | with_reducible apply rowsSpent_keeps | with_reducible apply keeps_foldl | (intro; try dsimp -zeta only)
    | extract_lets | split)

theorem pipNext_keeps {r0 : State} {k : Nat} {p : Nat} {w : Nat} {used : List Nat} {s : State} (hk : Keeps r0 s) : Keeps
    r0 (pipNext k p w used s) := by
  unfold pipNext
  repeat' (first
    | with_reducible assumption | with_reducible apply State_modPipUnit_keeps | (intro; try dsimp -zeta only)
    | extract_lets)

theorem onPip_keeps {r0 : State} {op : Nat} {k : Nat} {p : Nat} {f : Nat → Nat → State → State} {s : State} (hk : Keeps r0
    s) (hf0 : ∀ x0 x1 y, Keeps r0 y → Keeps r0 (f x0 x1 y)) : Keeps r0 (onPip op k p f s) := by
  unfold onPip
  repeat' (first
    | with_reducible assumption | with_reducible apply hf0 | extract_lets | split)

theorem rowOp_keeps {r0 : State} {k : Nat} {i : Nat} {p : Nat} {w : Nat} {useA : Bool} {useB : Bool} {f : List Byte → List
    Byte → List Byte} {s : State} (hk : Keeps r0 s) : Keeps r0 (rowOp k i p w useA useB f s) := by
  unfold rowOp
  repeat' (first
    | with_reducible assumption | with_reducible apply pipWrite1_keeps | with_reducible apply pipRead1_keeps
    | with_reducible apply byRows_keeps | with_reducible apply pipNext_keeps | (intro; try dsimp -zeta only)
    | extract_lets | split)

theorem pipStat_keeps {r0 : State} {k : Nat} {p : Nat} {i : Nat} {w : Nat} {s : State} (hk : Keeps r0 s) : Keeps r0
    (pipStat k p i w s) := by
  unfold pipStat
  repeat' (first
    | with_reducible assumption | with_reducible apply State_modPipUnit_keeps | with_reducible apply pipRead1_keeps
    | with_reducible apply byRows_keeps | with_reducible apply pipNext_keeps | (intro; try dsimp -zeta only)
    | extract_lets | split)

theorem pipNorm_keeps {r0 : State} {k : Nat} {p : Nat} {i : Nat} {w : Nat} {s : State} (h : Keeps r0 s) : Keeps r0
    (pipNorm k p i w s) := by
  unfold pipNorm
  repeat' (first
    | with_reducible assumption | with_reducible apply rowOp_keeps | (intro; try dsimp -zeta only) | extract_lets)

theorem gemvRows_keeps {r0 : State} {k : Nat} {p : Nat} {i : Nat} {w : Nat} {s : State} (hk : Keeps r0 s) : Keeps r0
    (gemvRows k p i w s) := by
  unfold gemvRows
  repeat' (first
    | with_reducible assumption | with_reducible apply State_modPipUnit_keeps | with_reducible apply runFault_keeps
    | with_reducible apply pipNext_keeps | (intro; try dsimp -zeta only) | extract_lets | split)

theorem pipGemv_keeps {r0 : State} {k : Nat} {p : Nat} {i : Nat} {w : Nat} {s : State} (hk : Keeps r0 s) : Keeps r0
    (pipGemv k p i w s) := by
  unfold pipGemv
  repeat' (first
    | with_reducible assumption | with_reducible apply State_modPipUnit_keeps | with_reducible apply pipRead1_keeps
    | with_reducible apply byRows_keeps | with_reducible apply pipNext_keeps | with_reducible apply gemvRows_keeps
    | (intro; try dsimp -zeta only) | extract_lets | split)

theorem gatherOut_keeps {r0 : State} {k : Nat} {i : Nat} {g : GatherSlot} {nseq : Nat} {s : State} (h : Keeps r0
    s) : Keeps r0 (gatherOut k i g nseq s).2 := by
  unfold gatherOut
  repeat' (first
    | with_reducible assumption | with_reducible apply State_modPip_keeps | with_reducible apply writeMem_keeps
    | with_reducible apply State_modRun_keeps | (intro; try dsimp -zeta only) | extract_lets | split
    | refine keeps_snd (by assumption) ?_)

theorem pipReduce_keeps {r0 : State} {k : Nat} {p : Nat} {i : Nat} {w : Nat} {s : State} (h : Keeps r0 s) : Keeps r0
    (pipReduce k p i w s) := by
  unfold pipReduce
  repeat' (first
    | with_reducible assumption | with_reducible apply State_modPip_keeps | with_reducible apply State_modPipUnit_keeps
    | with_reducible apply runFault_keeps | with_reducible apply pipNext_keeps | with_reducible apply gatherOut_keeps
    | (intro; try dsimp -zeta only) | extract_lets | split | refine keeps_snd (by assumption) ?_)

theorem endRun_keeps {r0 : State} {k : Nat} {i : Nat} {s : State} (h : Keeps r0 s) : Keeps r0 (endRun k i s) := by
  unfold endRun
  repeat' (first
    | with_reducible assumption | with_reducible apply State_modRun_keeps | (intro; try dsimp -zeta only) | extract_lets)

theorem pipEnd_keeps {r0 : State} {k : Nat} {p : Nat} {i : Nat} {s : State} (h : Keeps r0 s) : Keeps r0 (pipEnd k p i s) := by
  unfold pipEnd
  repeat' (first
    | with_reducible assumption | with_reducible apply State_modPipUnit_keeps | with_reducible apply endRun_keeps
    | (intro; try dsimp -zeta only) | extract_lets | split)

theorem biasDone_keeps {r0 : State} {s : State} (hk : Keeps r0 s) : Keeps r0 (biasDone s) := by
  unfold biasDone
  repeat' (first
    | with_reducible assumption | with_reducible apply keeps_setHost | with_reducible apply recallRange_keeps
    | (intro; try dsimp -zeta only) | extract_lets | split)

theorem decoderCommit_keeps {r0 : State} {d : Nat} {commit : Bool} {v : HdmDecoder} {s : State} (hk : Keeps r0 s) : Keeps
    r0 (decoderCommit d commit v s) := by
  unfold decoderCommit
  repeat' (first
    | with_reducible assumption | with_reducible apply keeps_setHost | with_reducible apply send_keeps
    | (intro; try dsimp -zeta only) | extract_lets | split)

theorem freeBytes_keeps {r0 : State} {n : Nat} {s : State} (h : Keeps r0 s) : Keeps r0 (freeBytes n s).2 := by
  unfold freeBytes
  repeat' (first
    | with_reducible assumption | (intro; try dsimp -zeta only) | extract_lets | exact keeps_same h rfl rfl rfl rfl rfl rfl
    | exact keeps_same ‹Keeps _ _› rfl rfl rfl rfl rfl rfl)

theorem noteStopped_keeps {r0 : State} {dpa : Nat} {s : State} (h : Keeps r0 s) : Keeps r0 (noteStopped dpa s) := by
  unfold noteStopped
  repeat' (first
    | with_reducible assumption | with_reducible apply logErr_keeps)

theorem noteUnsealed_keeps {r0 : State} {dpa : Nat} {s : State} (hk : Keeps r0 s) : Keeps r0 (noteUnsealed dpa s) := by
  unfold noteUnsealed
  repeat' (first
    | with_reducible assumption | with_reducible apply logErr_keeps | split)

theorem cxlRead_keeps {r0 : State} {dpa : Nat} {s : State} (hk : Keeps r0 s) : Keeps r0 (cxlRead dpa s) := by
  unfold cxlRead
  repeat' (first
    | with_reducible assumption | with_reducible apply send_keeps | with_reducible apply logErr_keeps
    | with_reducible apply readBursts_keeps | with_reducible apply freeBytes_keeps
    | with_reducible apply noteStopped_keeps | with_reducible apply noteUnsealed_keeps | (intro; try dsimp -zeta only)
    | extract_lets | split | refine keeps_snd (by assumption) ?_ | dsimp +zetaDelta only)

theorem cxlWrite_keeps {r0 : State} {dpa : Nat} {data : List Byte} {poison : Bool} {s : State} (h : Keeps r0 s) : Keeps r0
    (cxlWrite dpa data poison s) := by
  unfold cxlWrite
  repeat' (first
    | with_reducible assumption | with_reducible apply send_keeps | with_reducible apply logErr_keeps
    | with_reducible apply writeBurst_keeps | with_reducible apply noteStopped_keeps | split
    | refine keeps_snd (by assumption) ?_)

theorem serveAccess_keeps {r0 : State} {x : HeldAccess} {s : State} (hk : Keeps r0 s) : Keeps r0 (serveAccess x s) := by
  unfold serveAccess
  repeat' (first
    | with_reducible assumption | with_reducible apply cxlWrite_keeps | with_reducible apply cxlRead_keeps | split)

theorem cxlAccess_keeps {r0 : State} {x : HeldAccess} {s : State} (hk : Keeps r0 s) : Keeps r0 (cxlAccess x s) := by
  unfold cxlAccess
  repeat' (first
    | with_reducible assumption | with_reducible apply keeps_setHost | with_reducible apply serveAccess_keeps
    | (intro; try dsimp -zeta only) | extract_lets | split)

theorem serveHeld_keeps {r0 : State} {s : State} (hk : Keeps r0 s) : Keeps r0 (serveHeld s) := by
  unfold serveHeld
  repeat' (first
    | with_reducible assumption | with_reducible apply keeps_setHost | with_reducible apply cxlAccess_keeps
    | with_reducible apply keeps_foldl | (intro; try dsimp -zeta only) | extract_lets)

theorem onLine_keeps {r0 : State} {hpa : Nat} {f : Nat → State → State} {s : State} (hk : Keeps r0 s) (hf0 : ∀ x0 y, Keeps
    r0 y → Keeps r0 (f x0 y)) : Keeps r0 (onLine hpa f s) := by
  unfold onLine
  repeat' (first
    | with_reducible assumption | with_reducible apply hf0 | with_reducible apply send_keeps | split)

theorem fenceOver_keeps {r0 : State} {id : Nat} {s : State} (hk : Keeps r0 s) : Keeps r0 (fenceOver id s) := by
  unfold fenceOver
  extract_lets v0 s1
  have h1 : Keeps r0 s1 := keeps_setVine hk _
  split
  · exact h1
  · refine keeps_foldl ?_ _ h1
    intro a i ha
    exact State_modWin_keeps ha

theorem fenceAsked_keeps {r0 : State} {id : Nat} {s : State} (h : Keeps r0 s) : Keeps r0 (fenceAsked id s) := by
  unfold fenceAsked
  repeat' (first
    | with_reducible assumption | with_reducible apply keeps_setVine | extract_lets)

theorem startGroupFence_keeps {r0 : State} {s : State} (h : Keeps r0 s) : Keeps r0 (startGroupFence s) := by
  unfold startGroupFence
  repeat' (first
    | with_reducible assumption | with_reducible apply keeps_setVine | with_reducible apply vineSendAll_keeps
    | with_reducible apply fenceAsked_keeps | extract_lets | split)

theorem queueGroupFence_keeps {r0 : State} {order : Nat} {member : Nat} {s : State} (h : Keeps r0 s) : Keeps r0
    (queueGroupFence order member s) := by
  unfold queueGroupFence
  repeat' (first
    | with_reducible assumption | with_reducible apply keeps_setVine | with_reducible apply startGroupFence_keeps | extract_lets | split)

theorem fenceAnswered_keeps {r0 : State} {id member : Nat} {s : State} (hk : Keeps r0 s) : Keeps r0 (fenceAnswered id member s) := by
  unfold fenceAnswered
  split
  · exact hk
  · split
    · exact hk
    · extract_lets ws
      split
      · exact keeps_setVine hk _
      · exact startGroupFence_keeps (fenceOver_keeps (vineSendAll_keeps (keeps_setVine hk _)))

theorem answerFences_keeps {r0 : State} {s : State} (h : Keeps r0 s) : Keeps r0 (answerFences s) := by
  unfold answerFences
  repeat' (first
    | with_reducible assumption | with_reducible apply keeps_setVine | with_reducible apply vineSend_keeps
    | with_reducible apply fenceAnswered_keeps | with_reducible apply keeps_foldl | (intro; try dsimp -zeta only)
    | extract_lets | split)

theorem askGroupFence_keeps {r0 : State} {t : Taken} {s : State} (h : Keeps r0 s) : Keeps r0 (askGroupFence t s) := by
  unfold askGroupFence
  repeat' (first
    | with_reducible assumption | with_reducible apply vineSend_keeps | with_reducible apply queueGroupFence_keeps | split)

theorem noteSigFail_keeps {r0 : State} {code : Nat} {s : State} (h : Keeps r0 s) : Keeps r0 (noteSigFail code s) := by
  unfold noteSigFail
  repeat' (first
    | with_reducible assumption | with_reducible apply keeps_setSec | extract_lets)

theorem setOther_keeps {r0 : State} {v : FlashSlot} {st : Nat} {s : State} (h : Keeps r0 s) : Keeps r0 (setOther v st s) := by
  unfold setOther
  repeat' (first
    | with_reducible assumption | with_reducible apply keeps_setSec | extract_lets)

theorem writeSelector_keeps {r0 : State} {boot : Nat} {trial : Bool} {fallback : Option Nat} {s : State} (h : Keeps r0
    s) : Keeps r0 (writeSelector boot trial fallback s) := by
  unfold writeSelector
  repeat' (first
    | with_reducible assumption | with_reducible apply keeps_setSec | extract_lets)

theorem fenceBegin_keeps {r0 : State} {w : Nat} {t : Taken} {s : State} (h : Keeps r0 s) : Keeps r0 (fenceBegin w t s) := by
  unfold fenceBegin
  repeat' (first
    | with_reducible assumption | with_reducible apply startRecord_keeps)

theorem fenceRelease_keeps {r0 : State} {w : Nat} {n : Nat} {s : State} (hk : Keeps r0 s) : Keeps r0 (fenceRelease w n s) := by
  unfold fenceRelease
  repeat' (first
    | with_reducible assumption | with_reducible apply complete_keeps | with_reducible apply answerFences_keeps
    | (intro; try dsimp -zeta only) | extract_lets | split)

theorem query_keeps {r0 : State} {w : Nat} {t : Taken} {s : State} (h : Keeps r0 s) : Keeps r0 (query w t s) := by
  unfold query
  repeat' (first
    | with_reducible assumption | with_reducible apply hostWrite_keeps | with_reducible apply complete_keeps | extract_lets)

theorem attest_keeps {r0 : State} {w : Nat} {t : Taken} {s : State} (hk : Keeps r0 s) : Keeps r0 (attest w t s) := by
  unfold attest
  repeat' (first
    | with_reducible assumption | with_reducible apply hostWrite_keeps | with_reducible apply complete_keeps
    | extract_lets)

theorem showStage_keeps {r0 : State} {bytes : Nat} {verify : Bool} {s : State} (h : Keeps r0 s) : Keeps r0 (showStage
    bytes verify s) := by
  unfold showStage
  repeat' (first
    | with_reducible assumption | with_reducible apply keeps_setSec | extract_lets)

theorem stageWrite_keeps {r0 : State} {src : Src} {flashOk : Bool} {w : Nat} {t : Taken} {s : State} (h : Keeps r0
    s) : Keeps r0 (stageWrite src flashOk w t s) := by
  unfold stageWrite
  repeat' (first
    | with_reducible assumption | with_reducible apply complete_keeps | with_reducible apply checked_keeps
    | with_reducible apply readSource_keeps | with_reducible apply noteSigFail_keeps | with_reducible apply setOther_keeps
    | with_reducible apply showStage_keeps | (intro; try dsimp -zeta only) | extract_lets | split
    | refine keeps_snd (by assumption) ?_)

theorem stageClear_keeps {r0 : State} {flashOk : Bool} {w : Nat} {t : Taken} {s : State} (h : Keeps r0 s) : Keeps r0
    (stageClear flashOk w t s) := by
  unfold stageClear
  repeat' (first
    | with_reducible assumption | with_reducible apply complete_keeps | with_reducible apply checked_keeps
    | with_reducible apply setOther_keeps | with_reducible apply showStage_keeps | (intro; try dsimp -zeta only)
    | extract_lets)

theorem commitSelect_keeps {r0 : State} {w : Nat} {t : Taken} {s : State} (h : Keeps r0 s) : Keeps r0 (commitSelect w t s) := by
  unfold commitSelect
  repeat' (first
    | with_reducible assumption | with_reducible apply keeps_setSec | with_reducible apply complete_keeps
    | with_reducible apply checked_keeps | with_reducible apply writeSelector_keeps | (intro; try dsimp -zeta only)
    | extract_lets | split)

theorem commitConfirm_keeps {r0 : State} {w : Nat} {t : Taken} {s : State} (h : Keeps r0 s) : Keeps r0 (commitConfirm w t s) := by
  unfold commitConfirm
  repeat' (first
    | with_reducible assumption | with_reducible apply keeps_setSec | with_reducible apply complete_keeps
    | with_reducible apply checked_keeps | with_reducible apply writeSelector_keeps | (intro; try dsimp -zeta only)
    | extract_lets)

theorem commitAbandon_keeps {r0 : State} {w : Nat} {t : Taken} {s : State} (h : Keeps r0 s) : Keeps r0 (commitAbandon w t s) := by
  unfold commitAbandon
  repeat' (first
    | with_reducible assumption | with_reducible apply keeps_setSec | with_reducible apply complete_keeps
    | with_reducible apply writeSelector_keeps | extract_lets | split)

theorem onCommit_keeps {r0 : State} {op : Nat} {w : Nat} {n : Nat} {f : Nat → Taken → State → State} {s : State}
    (h : Keeps r0 s) (hf0 : ∀ x0 x1 y, Keeps r0 y → Keeps r0 (f x0 x1 y)) : Keeps r0 (onCommit op w n f s) := by
  unfold onCommit
  repeat' (first
    | with_reducible assumption | with_reducible apply hf0 | with_reducible apply inOrder_keeps | (intro; try dsimp -zeta only))

theorem setCodecSlot_keeps {r0 : State} {i : Nat} {v : CodecSlot} {s : State} (h : Keeps r0 s) : Keeps r0 (setCodecSlot i
    v s) := by
  unfold setCodecSlot
  repeat' (first
    | with_reducible assumption | with_reducible apply keeps_setCodec | extract_lets)

theorem setCodecBank_keeps {r0 : State} {b : Nat × Nat} {v : CodecBank} {s : State} (h : Keeps r0 s) : Keeps r0
    (setCodecBank b v s) := by
  unfold setCodecBank
  repeat' (first
    | with_reducible assumption | with_reducible apply setCodecSlot_keeps | extract_lets)

theorem bindBank_keeps {r0 : State} {b : Option (Nat × Nat)} {s : State} (h : Keeps r0 s) : Keeps r0 (bindBank b s) := by
  unfold bindBank
  repeat' (first
    | with_reducible assumption | with_reducible apply setCodecBank_keeps | extract_lets | split)

theorem unbindBank_keeps {r0 : State} {b : Option (Nat × Nat)} {s : State} (h : Keeps r0 s) : Keeps r0 (unbindBank b s) := by
  unfold unbindBank
  repeat' (first
    | with_reducible assumption | with_reducible apply setCodecBank_keeps | extract_lets | split)

theorem noteCorrupt_keeps {r0 : State} {codec : Nat} {idx : Nat} {kind : Nat} {b : List Byte} {s : State} (hk : Keeps r0
    s) : Keeps r0 (noteCorrupt codec idx kind b s) := by
  unfold noteCorrupt
  repeat' (first
    | with_reducible assumption | with_reducible apply keeps_setCodec | with_reducible apply logErr_keeps | extract_lets)

theorem setQueue_keeps {r0 : State} {c : Nat} {q : List CodecStream} {s : State} (h : Keeps r0 s) : Keeps r0 (setQueue c q
    s) := by
  unfold setQueue
  repeat' (first
    | with_reducible assumption | with_reducible apply keeps_setCodec | extract_lets)

theorem queueStream_keeps {r0 : State} {c : Nat} {v : CodecStream} {s : State} (h : Keeps r0 s) : Keeps r0 (queueStream c
    v s) := by
  unfold queueStream
  repeat' (first
    | with_reducible assumption | with_reducible apply bindBank_keeps | with_reducible apply setQueue_keeps)

theorem dropStreams_keeps {r0 : State} {p : Nat → CodecStream → Bool} {s : State} (hk : Keeps r0 s) : Keeps r0 (dropStreams p s) := by
  unfold dropStreams
  refine keeps_foldl ?_ _ hk
  intro a i ha
  refine setQueue_keeps ?_
  refine keeps_foldl ?_ _ ha
  intro b v hb
  exact unbindBank_keeps hb

theorem codecLoad_keeps {r0 : State} {src : Src} {w : Nat} {t : Taken} {s : State} (h : Keeps r0 s) : Keeps r0 (codecLoad
    src w t s) := by
  unfold codecLoad
  repeat' (first
    | with_reducible assumption | with_reducible apply complete_keeps | with_reducible apply readSource_keeps
    | with_reducible apply setCodecSlot_keeps | with_reducible apply setCodecBank_keeps | extract_lets | split
    | refine keeps_snd (by assumption) ?_)

theorem codecSwap_keeps {r0 : State} {w : Nat} {t : Taken} {s : State} (h : Keeps r0 s) : Keeps r0 (codecSwap w t s) := by
  unfold codecSwap
  repeat' (first
    | with_reducible assumption | with_reducible apply complete_keeps | with_reducible apply checked_keeps
    | with_reducible apply setCodecSlot_keeps | (intro; try dsimp -zeta only) | extract_lets)

theorem setPortState_keeps {r0 : State} {p : Nat} {st : Nat} {s : State} (h : Keeps r0 s) : Keeps r0 (setPortState p st s) := by
  unfold setPortState
  repeat' (first
    | with_reducible assumption | with_reducible apply State_modPun_keeps | with_reducible apply msix_keeps
    | with_reducible apply logErr_keeps | (intro; try dsimp -zeta only) | extract_lets | split)

theorem punError_keeps {r0 : State} {p : Nat} {kind : Nat} {status : Option Nat} {s : State} (h : Keeps r0 s) : Keeps r0
    (punError p kind status s) := by
  unfold punError
  repeat' (first
    | with_reducible assumption | with_reducible apply State_modPun_keeps | with_reducible apply msix_keeps
    | with_reducible apply logErr_keeps | (intro; try dsimp -zeta only) | extract_lets)

theorem noteWear_keeps {r0 : State} {p : Nat} {s : State} (h : Keeps r0 s) : Keeps r0 (noteWear p s) := by
  unfold noteWear
  repeat' (first
    | with_reducible assumption | with_reducible apply State_modPun_keeps | with_reducible apply msix_keeps
    | with_reducible apply logErr_keeps | (intro; try dsimp -zeta only) | extract_lets | split)

theorem issueCmd_keeps {r0 : State} {p : Nat} {opcode : Nat} {handle : Nat} {idx : Nat} {lba : Nat} {lbas : Nat} {s :
    State} (h : Keeps r0 s) : Keeps r0 (issueCmd p opcode handle idx lba lbas s) := by
  unfold issueCmd
  repeat' (first
    | with_reducible assumption | with_reducible apply State_modPun_keeps | with_reducible apply noteWear_keeps
    | (intro; try dsimp -zeta only) | extract_lets | split)

theorem issueBlock_keeps {r0 : State} {p : Nat} {opcode : Nat} {handle : Nat} {idx : Nat} {lba : Nat} {lbas : Nat} {s :
    State} (hk : Keeps r0 s) : Keeps r0 (issueBlock p opcode handle idx lba lbas s) := by
  unfold issueBlock
  repeat' (first
    | with_reducible assumption | with_reducible apply issueCmd_keeps | with_reducible apply keeps_foldl
    | (intro; try dsimp -zeta only) | extract_lets | split)

theorem deallocate_keeps {r0 : State} {p : Nat} {lba : Nat} {lbas : Nat} {s : State} (h : Keeps r0 s) : Keeps r0
    (deallocate p lba lbas s) := by
  unfold deallocate
  repeat' (first
    | with_reducible assumption | with_reducible apply State_modPun_keeps | with_reducible apply issueCmd_keeps
    | (intro; try dsimp -zeta only) | extract_lets | split)

theorem modPark_keeps {r0 : State} {h : Nat} {f : Park → Park} {s : State} (hk : Keeps r0 s) : Keeps r0 (modPark h f s) := by
  unfold modPark
  repeat' (first
    | with_reducible assumption | with_reducible apply keeps_setPun | (intro; try dsimp -zeta only) | extract_lets)

theorem unbindPort_keeps {r0 : State} {p : Nat} {s : State} (h : Keeps r0 s) : Keeps r0 (unbindPort p s) := by
  unfold unbindPort
  repeat' (first
    | with_reducible assumption | with_reducible apply State_modPun_keeps | (intro; try dsimp -zeta only) | extract_lets)

theorem answerRetires_keeps {r0 : State} {rs : List (Nat × Nat × Nat)} {s : State} (h : Keeps r0 s) : Keeps r0
    (answerRetires rs s) := by
  unfold answerRetires
  repeat' (first
    | with_reducible assumption | with_reducible apply complete_keeps | with_reducible apply keeps_foldl | (intro; try dsimp -zeta only)
    | extract_lets)

theorem settlePort_keeps {r0 : State} {p : Nat} {s : State} (h : Keeps r0 s) : Keeps r0 (settlePort p s) := by
  unfold settlePort
  repeat' (first
    | with_reducible assumption | with_reducible apply setPortState_keeps | with_reducible apply unbindPort_keeps
    | with_reducible apply answerRetires_keeps | extract_lets | split)

theorem reclaimPark_keeps {r0 : State} {k : Park} {s : State} (hk : Keeps r0 s) : Keeps r0 (reclaimPark k s) := by
  have h1 : Keeps r0 (k.blocks.foldl (fun s b => unbindBank b.bind s) (dropStreams (fun _ v => v.handle == k.handle) s)) :=
    keeps_foldl (fun _ _ h => unbindBank_keeps h) _ (dropStreams_keeps hk)
  unfold reclaimPark
  exact settlePort_keeps (deallocate_keeps (keeps_setPun h1 _))

theorem endPark_keeps {r0 : State} {k : Park} {s : State} (h : Keeps r0 s) : Keeps r0 (endPark k s) := by
  unfold endPark
  repeat' (first
    | with_reducible assumption | with_reducible apply keeps_setPun | with_reducible apply reclaimPark_keeps | extract_lets)

theorem expirePark_keeps {r0 : State} {k : Park} {s : State} (h : Keeps r0 s) : Keeps r0 (expirePark k s) := by
  unfold expirePark
  repeat' (first
    | with_reducible assumption | with_reducible apply keeps_setPun | with_reducible apply endPark_keeps | extract_lets)

theorem undoPark_keeps {r0 : State} {k : Park} {s : State} (h : Keeps r0 s) : Keeps r0 (undoPark k s) := by
  unfold undoPark
  repeat' (first
    | with_reducible assumption | with_reducible apply keeps_setSeqs | with_reducible apply State_modSeq_keeps
    | with_reducible apply reclaimPark_keeps | (intro; try dsimp -zeta only) | extract_lets)

theorem failPark_keeps {r0 : State} {k : Park} {s : State} (h : Keeps r0 s) : Keeps r0 (failPark k s) := by
  unfold failPark
  repeat' (first
    | with_reducible assumption | with_reducible apply complete_keeps | with_reducible apply undoPark_keeps | extract_lets)

theorem failResume_keeps {r0 : State} {r : Resume} {s : State} (h : Keeps r0 s) : Keeps r0 (failResume r s) := by
  unfold failResume
  repeat' (first
    | with_reducible assumption | with_reducible apply keeps_setPun | with_reducible apply complete_keeps
    | with_reducible apply releaseEntry_keeps | with_reducible apply reclaimPark_keeps | (intro; try dsimp -zeta only)
    | extract_lets | split)

theorem failHandle_keeps {r0 : State} {h : Nat} {s : State} (hk : Keeps r0 s) : Keeps r0 (failHandle h s) := by
  unfold failHandle
  repeat' (first
    | with_reducible assumption | with_reducible apply failPark_keeps | with_reducible apply failResume_keeps
    | (intro; try dsimp -zeta only) | split)

theorem failInFlight_keeps {r0 : State} {p : Nat} {s : State} (hk : Keeps r0 s) : Keeps r0 (failInFlight p s) := by
  unfold failInFlight
  repeat' (first
    | with_reducible assumption | with_reducible apply failHandle_keeps | with_reducible apply keeps_foldl
    | (intro; try dsimp -zeta only))

theorem endAllParks_keeps {r0 : State} {p : Nat} {s : State} (h : Keeps r0 s) : Keeps r0 (endAllParks p s) := by
  unfold endAllParks
  repeat' (first
    | with_reducible assumption | with_reducible apply endPark_keeps | with_reducible apply failInFlight_keeps
    | with_reducible apply keeps_foldl | (intro; try dsimp -zeta only) | extract_lets)

theorem seqParkAs_keeps {r0 : State} {h : Option Nat} {w : Nat} {t : Taken} {s : State} (hk : Keeps r0 s) : Keeps r0
    (seqParkAs h w t s) := by
  unfold seqParkAs
  repeat' (first
    | with_reducible assumption | with_reducible apply keeps_setPun | with_reducible apply State_modSeq_keeps
    | with_reducible apply complete_keeps | with_reducible apply startRecord_keeps | with_reducible apply checked_keeps
    | with_reducible apply forwardWith_keeps | with_reducible apply addEffect_keeps | (intro; try dsimp -zeta only)
    | extract_lets | split)

theorem seqPark_keeps {r0 : State} {w : Nat} {t : Taken} {s : State} (hk : Keeps r0 s) : Keeps r0 (seqPark w t s) := by
  unfold seqPark
  repeat' (first
    | with_reducible assumption | with_reducible apply seqParkAs_keeps)

theorem readImage_keeps {r0 : State} {q : Nat} {s : State} (hk : Keeps r0 s) : Keeps r0 (readImage q s).2 := by
  unfold readImage
  refine keeps_foldl_snd ?_ _ hk
  intro a pk ha
  refine keeps_foldl_snd ?_ _ ha
  intro b l hb
  exact ReadOut_andThen_keeps (readPage_keeps hb)

theorem imageStreams_keeps {r0 : State} {k : Park} {m : Model} {kv : List Byte} {s : State} (h : Keeps r0 s) : Keeps r0
    (imageStreams k m kv s).2 := by
  unfold imageStreams
  repeat' (first
    | with_reducible assumption | with_reducible apply freeBytes_keeps | (intro; try dsimp -zeta only) | extract_lets)

theorem parkImage_keeps {r0 : State} {q : Nat} {errs : List SymErr} {s : State} (hk : Keeps r0 s) : Keeps r0 (parkImage q
    errs s) := by
  unfold parkImage
  repeat' (first
    | with_reducible assumption | with_reducible apply addErrs_keeps | with_reducible apply queueStream_keeps
    | with_reducible apply failPark_keeps | with_reducible apply readImage_keeps | with_reducible apply imageStreams_keeps
    | with_reducible apply modPark_keeps | with_reducible apply keeps_foldl | (intro; try dsimp -zeta only) | extract_lets
    | split | refine keeps_snd (by assumption) ?_)

theorem writeBlocks_keeps {r0 : State} {h : Nat} {s : State} (hk : Keeps r0 s) : Keeps r0 (writeBlocks h s) := by
  unfold writeBlocks
  repeat' (first
    | with_reducible assumption | with_reducible apply modPark_keeps | with_reducible apply issueBlock_keeps
    | with_reducible apply keeps_foldl | (intro; try dsimp -zeta only) | extract_lets | split)

theorem codecEncode_keeps {r0 : State} {c : Nat} {s : State} (hk : Keeps r0 s) : Keeps r0 (codecEncode c s) := by
  unfold codecEncode
  repeat' (first
    | with_reducible assumption | with_reducible apply keeps_setCodec | with_reducible apply unbindBank_keeps
    | with_reducible apply setQueue_keeps | with_reducible apply modPark_keeps | with_reducible apply writeBlocks_keeps
    | (intro; try dsimp -zeta only) | extract_lets | split)

theorem parkDurable_keeps {r0 : State} {q : Nat} {s : State} (hk : Keeps r0 s) : Keeps r0 (parkDurable q s) := by
  unfold parkDurable
  repeat' (first
    | with_reducible assumption | with_reducible apply complete_keeps | with_reducible apply addEffect_keeps
    | with_reducible apply modPark_keeps | (intro; try dsimp -zeta only) | extract_lets | split)

theorem takeResumePages_keeps {r0 : State} {q : Nat} {n : Nat} {s : State} (h : Keeps r0 s) : Keeps r0 (takeResumePages q
    n s) := by
  unfold takeResumePages
  repeat' (first
    | with_reducible assumption | with_reducible apply placePage_keeps | with_reducible apply takePage_keeps
    | with_reducible apply withListPage_keeps | with_reducible apply keeps_foldl | (intro; try dsimp -zeta only)
    | extract_lets | split | refine keeps_some (by assumption) ?_)

theorem seqResume_keeps {r0 : State} {w : Nat} {t : Taken} {s : State} (hk : Keeps r0 s) : Keeps r0 (seqResume w t s) := by
  unfold seqResume
  repeat' (first
    | with_reducible assumption | with_reducible apply keeps_setPun | with_reducible apply State_modSeq_keeps
    | with_reducible apply complete_keeps | with_reducible apply startRecord_keeps | with_reducible apply checked_keeps
    | with_reducible apply giveKey_keeps | with_reducible apply modPark_keeps | with_reducible apply takeResumePages_keeps
    | with_reducible apply issueBlock_keeps | with_reducible apply keeps_foldl | (intro; try dsimp -zeta only)
    | extract_lets | split)

theorem seqDrop_keeps {r0 : State} {w : Nat} {t : Taken} {s : State} (h : Keeps r0 s) : Keeps r0 (seqDrop w t s) := by
  unfold seqDrop
  repeat' (first
    | with_reducible assumption | with_reducible apply complete_keeps | with_reducible apply reclaimPark_keeps | extract_lets | split)

theorem queueRead_keeps {r0 : State} {k : Park} {idx : Nat} {b : List Byte} {s : State} (h : Keeps r0 s) : Keeps r0
    (queueRead k idx b s) := by
  unfold queueRead
  repeat' (first
    | with_reducible assumption | with_reducible apply queueStream_keeps | extract_lets)

theorem codecDecode_keeps {r0 : State} {c : Nat} {s : State} (h : Keeps r0 s) : Keeps r0 (codecDecode c s) := by
  unfold codecDecode
  repeat' (first
    | with_reducible assumption | with_reducible apply keeps_setPun | with_reducible apply unbindBank_keeps
    | with_reducible apply noteCorrupt_keeps | with_reducible apply setQueue_keeps | with_reducible apply punError_keeps
    | with_reducible apply failResume_keeps | (intro; try dsimp -zeta only) | extract_lets | split)

theorem writeImage_keeps {r0 : State} {q : Nat} {kv : List Byte} {s : State} (h : Keeps r0 s) : Keeps r0 (writeImage q kv s) := by
  unfold writeImage
  repeat' (first
    | with_reducible assumption | with_reducible apply writePage_keeps | with_reducible apply keeps_foldl_snd
    | (intro; try dsimp -zeta only) | extract_lets)

theorem resumeComplete_keeps {r0 : State} {q : Nat} {s : State} (h : Keeps r0 s) : Keeps r0 (resumeComplete q s) := by
  unfold resumeComplete
  repeat' (first
    | with_reducible assumption | with_reducible apply keeps_setPun | with_reducible apply State_modSeq_keeps
    | with_reducible apply complete_keeps | with_reducible apply reclaimPark_keeps | with_reducible apply writeImage_keeps
    | (intro; try dsimp -zeta only) | extract_lets | split)

theorem expiryScan_keeps {r0 : State} {s : State} (h : Keeps r0 s) : Keeps r0 (expiryScan s) := by
  unfold expiryScan
  repeat' (first
    | with_reducible assumption | with_reducible apply keeps_setPun | with_reducible apply State_advanceTo_keeps
    | with_reducible apply expirePark_keeps | with_reducible apply keeps_foldl | (intro; try dsimp -zeta only)
    | extract_lets)

theorem bindPort_keeps {r0 : State} {p : Nat} {f : PunnetFacts} {s : State} (hk : Keeps r0 s) : Keeps r0 (bindPort p f s) := by
  unfold bindPort
  repeat' (first
    | with_reducible assumption | with_reducible apply State_modPun_keeps | with_reducible apply setPortState_keeps
    | (intro; try dsimp -zeta only) | extract_lets)

theorem punnetBind_keeps {r0 : State} {f : PunnetFacts} {w : Nat} {t : Taken} {s : State} (h : Keeps r0 s) : Keeps r0
    (punnetBind f w t s) := by
  unfold punnetBind
  repeat' (first
    | with_reducible assumption | with_reducible apply complete_keeps | with_reducible apply checked_keeps
    | with_reducible apply noteSigFail_keeps | with_reducible apply punError_keeps | with_reducible apply bindPort_keeps
    | (intro; try dsimp -zeta only) | extract_lets | split)

theorem beginRetire_keeps {r0 : State} {w : Nat} {t : Taken} {ended : Nat} {s : State} (h : Keeps r0 s) : Keeps r0
    (beginRetire w t ended s) := by
  unfold beginRetire
  repeat' (first
    | with_reducible assumption | with_reducible apply State_modPun_keeps | with_reducible apply startRecord_keeps
    | with_reducible apply setPortState_keeps | (intro; try dsimp -zeta only) | extract_lets)

theorem retireDrain_keeps {r0 : State} {w : Nat} {t : Taken} {s : State} (h : Keeps r0 s) : Keeps r0 (retireDrain w t s) := by
  unfold retireDrain
  repeat' (first
    | with_reducible assumption | with_reducible apply checked_keeps | with_reducible apply settlePort_keeps
    | with_reducible apply beginRetire_keeps | (intro; try dsimp -zeta only))

theorem retireNow_keeps {r0 : State} {w : Nat} {t : Taken} {s : State} (h : Keeps r0 s) : Keeps r0 (retireNow w t s) := by
  unfold retireNow
  repeat' (first
    | with_reducible assumption | with_reducible apply checked_keeps | with_reducible apply settlePort_keeps
    | with_reducible apply endPark_keeps | with_reducible apply failPark_keeps | with_reducible apply beginRetire_keeps
    | with_reducible apply keeps_foldl | (intro; try dsimp -zeta only) | extract_lets)

theorem punnetInsert_keeps {r0 : State} {p : Nat} {rate : Nat} {width : Nat} {s : State} (h : Keeps r0 s) : Keeps r0
    (punnetInsert p rate width s) := by
  unfold punnetInsert
  repeat' (first
    | with_reducible assumption | with_reducible apply keeps_setBoot | with_reducible apply State_modPun_keeps
    | with_reducible apply setPortState_keeps | (intro; try dsimp -zeta only) | rfl | extract_lets | split)

theorem closePort_keeps {r0 : State} {p : Nat} {st : Nat} {s : State} (h : Keeps r0 s) : Keeps r0 (closePort p st s) := by
  unfold closePort
  repeat' (first
    | with_reducible assumption | with_reducible apply setPortState_keeps | with_reducible apply unbindPort_keeps
    | with_reducible apply answerRetires_keeps | with_reducible apply endAllParks_keeps | extract_lets)

theorem punnetRemoval_keeps {r0 : State} {p : Nat} {s : State} (h : Keeps r0 s) : Keeps r0 (punnetRemoval p s) := by
  unfold punnetRemoval
  repeat' (first
    | with_reducible assumption | with_reducible apply keeps_setBoot | with_reducible apply State_modPun_keeps
    | with_reducible apply punError_keeps | with_reducible apply closePort_keeps | (intro; try dsimp -zeta only) | rfl
    | extract_lets | split)

theorem cmdTimeout_keeps {r0 : State} {p : Nat} {cid : Nat} {s : State} (hk : Keeps r0 s) : Keeps r0 (cmdTimeout p cid s) := by
  unfold cmdTimeout
  repeat' (first
    | with_reducible assumption | with_reducible apply State_modPun_keeps | with_reducible apply State_advanceTo_keeps
    | with_reducible apply punError_keeps | with_reducible apply failHandle_keeps | (intro; try dsimp -zeta only)
    | extract_lets | split)

theorem abortTimeout_keeps {r0 : State} {p : Nat} {s : State} (hk : Keeps r0 s) : Keeps r0 (abortTimeout p s) := by
  unfold abortTimeout
  repeat' (first
    | with_reducible assumption | with_reducible apply State_modPun_keeps | with_reducible apply State_advanceTo_keeps
    | with_reducible apply punError_keeps | with_reducible apply failHandle_keeps | with_reducible apply keeps_foldl
    | (intro; try dsimp -zeta only) | extract_lets | split)

theorem controllerReady_keeps {r0 : State} {p : Nat} {s : State} (h : Keeps r0 s) : Keeps r0 (controllerReady p s) := by
  unfold controllerReady
  repeat' (first
    | with_reducible assumption | with_reducible apply State_modPun_keeps | (intro; try dsimp -zeta only) | extract_lets | split)

theorem readyTimeout_keeps {r0 : State} {p : Nat} {s : State} (h : Keeps r0 s) : Keeps r0 (readyTimeout p s) := by
  unfold readyTimeout
  repeat' (first
    | with_reducible assumption | with_reducible apply State_advanceTo_keeps | with_reducible apply closePort_keeps | split)

theorem writeDone_keeps {r0 : State} {p : Nat} {c : NvmeCmd} {s : State} (hk : Keeps r0 s) : Keeps r0 (writeDone p c s) := by
  unfold writeDone
  repeat' (first
    | with_reducible assumption | with_reducible apply State_modPun_keeps | with_reducible apply issueCmd_keeps
    | with_reducible apply modPark_keeps | (intro; try dsimp -zeta only) | extract_lets | split)

theorem cmdDone_keeps {r0 : State} {p : Nat} {c : NvmeCmd} {s : State} (hk : Keeps r0 s) : Keeps r0 (cmdDone p c s) := by
  unfold cmdDone
  repeat' (first
    | with_reducible assumption | with_reducible apply modPark_keeps | with_reducible apply queueRead_keeps
    | with_reducible apply writeDone_keeps | (intro; try dsimp -zeta only) | extract_lets | split)

theorem nvmeCompletion_keeps {r0 : State} {p : Nat} {cid : Nat} {status : BitVec 15} {s : State} (hk : Keeps r0 s) : Keeps
    r0 (nvmeCompletion p cid status s) := by
  unfold nvmeCompletion
  repeat' (first
    | with_reducible assumption | with_reducible apply State_modPun_keeps | with_reducible apply punError_keeps
    | with_reducible apply failHandle_keeps | with_reducible apply cmdDone_keeps | (intro; try dsimp -zeta only)
    | extract_lets | split)

theorem wearPoll_keeps {r0 : State} {p : Nat} {units : Nat} {mediaReadOnly : Bool} {s : State} (hk : Keeps r0 s) : Keeps
    r0 (wearPoll p units mediaReadOnly s) := by
  unfold wearPoll
  repeat' (first
    | with_reducible assumption | with_reducible apply State_modPun_keeps | with_reducible apply State_advanceTo_keeps
    | with_reducible apply msix_keeps | with_reducible apply logErr_keeps | with_reducible apply noteWear_keeps
    | (intro; try dsimp -zeta only) | extract_lets | split)

end Sys2Proof.Laws
end

