-- ==== Sys2Proof/Laws/FramesLayers.lean ====
section
/-! SUPPORT. One lemma per operation, for layers, collectives, pip runs, heat, shares, power states, steps and Press groups: between its state and the state it answers,
`Keeps` holds. -/

open Sys2Proof Sys2Proof.Machine

namespace Sys2Proof.Laws

theorem countRead_keeps {r0 : State} {e : Nat} {n : Nat} {s : State} (hk : Keeps r0 s) : Keeps r0 (countRead e n s) := by
  unfold countRead
  repeat' (first
    | with_reducible assumption | with_reducible apply State_modDrupe_keeps | (intro; try dsimp -zeta only) | extract_lets)

theorem dealtTo_keeps {r0 : State} {c : LayerIn} {kind l mat row : Nat} {e : MapEntry} {s : State} (h : Keeps r0 s) : Keeps r0
    (dealtTo c kind l mat row e s).2 := by
  have h1 : Keeps r0 s.free.2 := State_free_keeps h
  unfold dealtTo
  dsimp only
  repeat' (first | with_reducible exact h | with_reducible exact h1 | split)

theorem countSpills_keeps {r0 : State} {c : LayerIn} {l : Nat} {mat : Nat} {s : State} (hk : Keeps r0 s) : Keeps r0
    (countSpills c l mat s) := by
  unfold countSpills
  repeat' (first
    | with_reducible assumption | with_reducible apply State_modPress_keeps | with_reducible apply dealtTo_keeps
    | with_reducible apply keeps_foldl | (intro; try dsimp -zeta only) | extract_lets | split)

theorem countAny_keeps {r0 : State} {w : Nat} {n : Nat} {s : State} (hk : Keeps r0 s) : Keeps r0 (countAny w n s) := by
  unfold countAny
  repeat' (first
    | with_reducible assumption | with_reducible apply State_free_keeps | with_reducible apply countRead_keeps
    | with_reducible apply keeps_foldl | (intro; try dsimp -zeta only) | extract_lets | split | refine keeps_snd (by assumption) ?_)

theorem countMatrix_keeps {r0 : State} {c : LayerIn} {l : Nat} {mat : Nat} {s : State} (hk : Keeps r0 s) : Keeps r0
    (countMatrix c l mat s) := by
  unfold countMatrix
  repeat' (first
    | with_reducible assumption | with_reducible apply State_modPip_keeps | with_reducible apply State_modDrupe_keeps
    | with_reducible apply countRead_keeps | with_reducible apply countSpills_keeps | with_reducible apply keeps_foldl
    | (intro; try dsimp -zeta only) | extract_lets | split)

theorem notePress_keeps {r0 : State} {layer : Nat} {engine : Nat} {tile : Nat} {group : Nat} {kind : Nat} {s : State}
    (h : Keeps r0 s) : Keeps r0 (notePress layer engine tile group kind s) := by
  unfold notePress
  repeat' (first
    | with_reducible assumption | with_reducible apply keeps_setPress | extract_lets)

theorem noteOwn_keeps {r0 : State} {layer : Nat} {f : OwnFault} {s : State} (h : Keeps r0 s) : Keeps r0 (noteOwn layer f s) := by
  unfold noteOwn
  repeat' (first
    | with_reducible assumption | with_reducible apply logErr_keeps | with_reducible apply notePress_keeps
    | with_reducible apply keeps_setZest | extract_lets | split)

theorem noteCorrected_keeps {r0 : State} {n : Nat} {s : State} (h : Keeps r0 s) : Keeps r0 (noteCorrected n s) := by
  unfold noteCorrected
  exact keeps_ite h (keeps_setZest h _)

theorem pressFault_keeps {r0 : State} {c : LayerIn} {kind : Nat} {engine : Nat} {place : Option (Nat × Nat)} {s : State}
    (h : Keeps r0 s) : Keeps r0 (pressFault c kind engine place s) := by
  unfold pressFault
  repeat' (first
    | with_reducible assumption | with_reducible apply State_free_keeps | with_reducible apply notePress_keeps | extract_lets | split)

theorem readPieces_keeps {r0 : State} {r : ReadBy} {base stride n : Nat} {s : State} (hk : Keeps r0 s) :
    Keeps r0 (readPieces r base stride n s).2 := by
  unfold readPieces
  refine keeps_foldl_snd ?_ _ hk
  intro a i ha
  exact ReadOut_andThen_keeps (moduleRead_keeps ha)

theorem logSkew_keeps {r0 : State} {c : LayerIn} {mat : Nat} {unit : Nat} {place : Option (Nat × Nat)} {addr : Nat}
    {expected : Nat} {found : Nat} {s : State} (h : Keeps r0 s) : Keeps r0 (logSkew c mat unit place addr expected found
    s) := by
  unfold logSkew
  repeat' (first
    | with_reducible assumption | with_reducible apply keeps_setDrupe | with_reducible apply logErr_keeps
    | with_reducible apply pressFault_keeps | extract_lets)

theorem readRowAs_keeps {c : LayerIn} {kind : Nat} {unit : Option Nat} {place : Option (Nat × Nat)} {l mat row : Nat}
    {e : MapEntry} {i : Nat} : LayKeeps (readRowAs c kind unit place l mat row e i) := by
  unfold readRowAs
  extract_lets cols fmt code who
  have hw : LayKeeps (layOp who) := lay_op (fun h => by
    cases unit
    · exact dealtTo_keeps h
    · exact h)
  refine lay_bind (lay_op (fun h => readPieces_keeps h)) (fun o => lay_bind (lay_op (fun h => readPieces_keeps h)) (fun p => ?_))
  split
  · exact lay_bind hw (fun _ => lay_bind (lay_mod (fun h => pressFault_keeps h)) (fun _ => lay_bind lay_state (fun _ => lay_stop _)))
  · split
    · exact lay_pure _
    · exact lay_bind hw (fun _ => lay_bind (lay_mod (fun h => logSkew_keeps h)) (fun _ => lay_stop _))

theorem readRow_keeps {c : LayerIn} {l mat row : Nat} : LayKeeps (readRow c l mat row) := by
  unfold readRow
  split
  · exact lay_pure _
  · exact lay_bind lay_state (fun _ => readRowAs_keeps)

theorem modShare_keeps {r0 : State} {id : Nat} {f : Share → Share} {s : State} (h : Keeps r0 s) : Keeps r0 (modShare id f s) := by
  unfold modShare
  repeat' (first
    | with_reducible assumption | with_reducible apply keeps_setVine | (intro; try dsimp -zeta only) | extract_lets)

theorem sendPart_keeps {r0 : State} {c : LayerIn} {mat : Nat} {own : List F32} {s : State} (h : Keeps r0 s) : Keeps r0
    (sendPart c mat own s) := by
  unfold sendPart
  repeat' (first
    | with_reducible assumption | with_reducible apply vineSendAll_keeps | with_reducible apply modShare_keeps
    | (intro; try dsimp -zeta only) | extract_lets | split)

theorem exchange_keeps {c : LayerIn} {mat : Nat} {own : List F32} : LayKeeps (exchange c mat own) := by
  unfold exchange
  extract_lets got k
  refine lay_ite (lay_bind (lay_mod (fun h => sendPart_keeps h)) (fun _ => lay_ite (lay_pure _) (lay_stop _)))
    (lay_ite (lay_pure _) (lay_stop _))

theorem readDelta_keeps {c : LayerIn} {v : Variant} {d : DeltaBlock} : LayKeeps (readDelta c v d) := by
  unfold readDelta
  refine lay_bind lay_state (fun _ => lay_bind (lay_op (fun h => moduleRead_keeps h)) (fun _ =>
    lay_bind (lay_mod (fun h => countAny_keeps h)) (fun _ => ?_)))
  split
  · exact lay_bind lay_state (fun _ => lay_stop _)
  · exact lay_pure _

theorem readDeltas_keeps {c : LayerIn} {l mat row : Nat} {vars : List (Nat × Variant)} : LayKeeps (readDeltas c l mat row vars) := by
  unfold readDeltas
  exact lay_mapM (fun _ => lay_bind (lay_mapM (fun _ => readDelta_keeps) _) (fun _ => lay_pure _)) _

theorem runMatrix_keeps {c : LayerIn} {l mat : Nat} {rows : List Row} {ins : List Narrowed} :
    LayKeeps (runMatrix c l mat rows ins) := by
  unfold runMatrix
  refine lay_bind lay_state (fun s => ?_)
  refine lay_bind (lay_mapM (fun i => lay_bind readRow_keeps (fun _ => lay_bind readDeltas_keeps (fun _ => lay_pure _))) _) (fun own => ?_)
  exact lay_bind (lay_mod (fun h => countMatrix_keeps h)) (fun _ => lay_bind exchange_keeps (fun _ => lay_pure _))

theorem narrow_keeps {c : LayerIn} {l p : Nat} {rows : List Row} {xs : List (List F32)} : LayKeeps (narrow c l p rows xs) := by
  unfold narrow
  exact lay_ite (lay_pure _) (lay_ite (lay_stop _) (lay_ite (lay_stop _) (lay_pure _)))

theorem stageInput_keeps {r0 : State} {c : LayerIn} {l : Nat} {p : Nat} {ins : List Narrowed} {s : State} (hk : Keeps r0
    s) : Keeps r0 (stageInput c l p ins s) := by
  unfold stageInput
  repeat' (first
    | with_reducible assumption | with_reducible apply State_modPip_keeps | with_reducible apply keeps_foldl
    | (intro; try dsimp -zeta only) | extract_lets | split)

theorem narrowTo_keeps {c : LayerIn} {l p : Nat} {rows : List Row} {xs : List (List F32)} : LayKeeps (narrowTo c l p rows xs) := by
  unfold narrowTo
  exact lay_bind narrow_keeps (fun _ => lay_bind (lay_mod (fun h => stageInput_keeps h)) (fun _ => lay_pure _))

theorem writeKv_keeps {c : LayerIn} {l : Nat} {r : Row} {k v : List F32} : LayKeeps (writeKv c l r k v) := by
  unfold writeKv
  refine lay_bind lay_state (fun s => ?_)
  split
  · exact lay_pure _
  · refine lay_bind (lay_mod (fun h => keeps_setDrupe h _)) (fun _ => ?_)
    refine lay_bind (lay_forIn (fun h _ => ?_) _ _) (fun _ => lay_pure _)
    split
    · refine lay_bind (lay_forIn (fun x _ => ?_) _ _) (fun _ => lay_pure _)
      refine lay_bind (lay_op (fun h => writePage_keeps h)) (fun ok => ?_)
      split
      · exact lay_bind (lay_stop _) (fun _ => lay_pure _)
      · exact lay_pure _
    · exact lay_pure _

theorem readKv_keeps {r0 : State} {c : LayerIn} {l : Nat} {q : Nat} {t : Nat} {s : State} (h : Keeps r0 s) : Keeps r0
    (readKv c l q t s).2 := by
  unfold readKv
  repeat' (first
    | with_reducible assumption | with_reducible apply readPage_keeps | with_reducible apply keeps_foldl_snd
    | (intro; try dsimp -zeta only) | extract_lets | split)

theorem countKv_keeps {r0 : State} {c : LayerIn} {reads : List (Nat × Nat × Option (List F32))} {s : State} (hk : Keeps r0
    s) : Keeps r0 (countKv c reads s) := by
  unfold countKv
  repeat' (first
    | with_reducible assumption | with_reducible apply countAny_keeps | with_reducible apply keeps_foldl
    | (intro; try dsimp -zeta only) | extract_lets)

theorem freeWords_keeps {r0 : State} {n : Nat} {s : State} (h : Keeps r0 s) : Keeps r0 (freeWords n s).2 := by
  unfold freeWords
  repeat' (first
    | with_reducible assumption | with_reducible apply State_free_keeps | with_reducible apply keeps_foldl_snd
    | (intro; try dsimp -zeta only) | extract_lets)

theorem attention_keeps {c : LayerIn} {l : Nat} {rows : List Row} {qs : List (List F32)} : LayKeeps (attention c l rows qs) := by
  unfold attention
  refine lay_bind (lay_mapM (fun r => ?_) _) (fun reads => ?_)
  · split
    · exact lay_pure _
    · exact lay_op (fun h => readKv_keeps h)
  · refine lay_ite (lay_bind lay_state (fun s => ?_)) ?_
    · extract_lets stk
      clear_value stk
      cases stk <;> exact lay_stop _
    · refine lay_bind (lay_forIn (fun r _ => lay_bind (lay_mod (fun h => countKv_keeps h)) (fun _ => lay_pure _)) _ _) (fun _ => ?_)
      exact lay_bind (lay_mapM (fun r => lay_op (fun h => freeWords_keeps h)) _)
        (fun junk => lay_bind exchange_keeps (fun _ => lay_pure _))

theorem countSpecials_keeps {r0 : State} {vs : List F32} {s : State} (hk : Keeps r0 s) : Keeps r0 (countSpecials vs s) := by
  unfold countSpecials
  repeat' (first
    | with_reducible assumption | with_reducible apply keeps_setZest | (intro; try dsimp -zeta only) | extract_lets)

theorem runOps_keeps {c : LayerIn} {rows : List Row} : LayKeeps (runOps c rows) := by
  have hs : ∀ xs, LayKeeps (layMod (countSpecials xs)) := fun xs => lay_mod (fun h => countSpecials_keeps h)
  unfold runOps
  refine lay_bind lay_state (fun s => ?_)
  split
  · exact lay_stop _
  · refine lay_bind (hs _) (fun _ => lay_bind narrowTo_keeps (fun _ => lay_bind runMatrix_keeps (fun _ => lay_bind runMatrix_keeps (fun _ =>
      lay_bind runMatrix_keeps (fun _ => lay_bind (lay_forIn (fun _ _ => lay_bind writeKv_keeps (fun _ => lay_pure _)) _ _) (fun _ =>
      lay_bind attention_keeps (fun _ => lay_bind (hs _) (fun _ => lay_bind narrowTo_keeps (fun _ => lay_bind runMatrix_keeps (fun _ =>
      lay_bind (hs _) (fun _ => lay_bind narrowTo_keeps (fun _ => lay_bind runMatrix_keeps (fun _ => ?_)))))))))))))
    dsimp only
    split
    · exact lay_bind runMatrix_keeps (fun _ => lay_bind lay_state (fun _ => lay_bind (hs _)
        (fun _ => lay_bind narrowTo_keeps (fun _ => lay_bind runMatrix_keeps (fun _ => lay_pure _)))))
    · exact lay_bind (lay_pure _) (fun _ => lay_bind lay_state (fun _ => lay_bind (hs _)
        (fun _ => lay_bind narrowTo_keeps (fun _ => lay_bind runMatrix_keeps (fun _ => lay_pure _)))))

theorem runHead_keeps {c : LayerIn} {rows : List Row} : LayKeeps (runHead c rows) := by
  unfold runHead
  refine lay_bind lay_state (fun s => ?_)
  split
  · exact lay_stop _
  · exact lay_bind (lay_mod (fun h => countSpecials_keeps h)) (fun _ => lay_bind narrowTo_keeps (fun _ => runMatrix_keeps))

theorem noteRerun_keeps {r0 : State} {c : LayerIn} {cause point : Nat} {s : State} (hk : Keeps r0 s) :
    Keeps r0 (noteRerun c cause point s) := keeps_setDrupe hk _

theorem restoreCounts_keeps {r0 : State} {s0 s : State} (h : Keeps r0 s) : Keeps r0 (restoreCounts s0 s) :=
  keeps_same h rfl rfl rfl rfl rfl rfl

theorem runLayer_keeps {f : LayerIn → List Row → Lay (List (List F32))} {c : LayerIn} {rows : List Row}
    (hf : ∀ c rows, LayKeeps (f c rows)) {r0 s : State} (hk : Keeps r0 s) : Keeps r0 (runLayer f c rows s).2 := by
  unfold runLayer
  extract_lets c1
  split
  · rename_i e; exact keeps_snd e ((hf _ _).run hk)
  · rename_i e
    extract_lets s1
    have h1 : Keeps r0 s1 := noteRerun_keeps (keeps_snd e ((hf _ _).run hk))
    split
    · rename_i e2; exact keeps_snd e2 ((hf _ _).run h1)
    · rename_i e2; exact restoreCounts_keeps (keeps_snd e2 ((hf _ _).run h1))
    · rename_i e2; exact keeps_snd e2 ((hf _ _).run h1)
  · rename_i e; exact keeps_snd e ((hf _ _).run hk)

theorem embedRow_keeps {c : LayerIn} {token : Nat} : LayKeeps (embedRow c token) := by
  unfold embedRow
  dsimp only
  split
  · exact lay_op (fun h => freeWords_keeps h)
  · exact lay_bind readRowAs_keeps (fun _ => lay_bind (lay_op (fun h => dealtTo_keeps h)) (fun _ =>
      lay_bind (lay_mod (fun h => countRead_keeps h)) (fun _ => lay_pure _)))

theorem embedRows_keeps {c : LayerIn} {rows : List Row} : LayKeeps (embedRows c rows) := by
  unfold embedRows
  exact lay_mapM (fun _ => lay_bind embedRow_keeps (fun _ => lay_pure _)) _

theorem runSlots_keeps {r0 : State} {c : LayerIn} {slots : List StepSlot} {s : State} (hk : Keeps r0 s) :
    Keeps r0 (runSlots c slots s).2 := by
  unfold runSlots
  extract_lets rows put x
  split
  · have h := runLayer_keeps (f := runHead) (c := c) (rows := rows) (fun _ _ => runHead_keeps) hk
    split
    · rename_i e; exact keeps_snd e h
    · rename_i e; exact keeps_snd e h
  · have h1 : Keeps r0 (if c.layer = 0 then embedRows c rows s else (Except.ok rows, s)).2 := by
      split
      · exact embedRows_keeps.run hk
      · exact hk
    change Keeps r0 x.2 at h1
    clear_value x
    split
    · exact h1
    · rename_i rs s1
      have h := runLayer_keeps (f := runOps) (c := c) (rows := rs) (fun _ _ => runOps_keeps) h1
      split
      · rename_i e; exact keeps_snd e h
      · rename_i e; exact keeps_snd e h

theorem spillGroup_keeps {r0 : State} {e : Nat} {x : PressGroup} {s : State} (h : Keeps r0 s) : Keeps r0 (spillGroup e x s).2 := by
  unfold spillGroup
  extract_lets y y1 a o
  refine State_modPress_keeps (keeps_orchard h (fun hw => ?_))
  exact twf_foldl _ (fun _ _ ho => twf_tsets 0 _ _ ho) _ (twf_tclear _ _ _ hw)

theorem tileCells_keeps {c : LayerIn} {e : Nat} {i : PressInstr} {x : PressGroup} {base width : Nat} :
    LayKeeps (tileCells c e i x base width) := by
  unfold tileCells
  refine lay_filterMapM (fun j => ?_) _
  split
  · exact lay_pure _
  · exact lay_bind readRowAs_keeps (fun _ => lay_pure _)

theorem passGroup_keeps {r0 : State} {e : Nat} {i : PressInstr} {s : State} (hk : Keeps r0 s) : Keeps r0 (passGroup e i s) := by
  unfold passGroup
  split
  · exact hk
  · split
    rename_i x s1 e0
    have h1 : Keeps r0 s1 := by
      refine keeps_snd e0 ?_
      split
      · exact spillGroup_keeps hk
      · exact hk
    extract_lets width rows
    split
    · exact State_modPress_keeps h1
    · extract_lets base act
      rename_i m _
      have h2 := (tileCells_keeps (c := s1.passIn m x i) (e := e) (i := i) (x := x) (base := base) (width := width)).run
        (addErrs_keeps (errs := i.errs) h1)
      split
      · rename_i e1; exact State_modPress_keeps (keeps_snd e1 h2)
      · rename_i e1; exact State_modPress_keeps (keeps_snd e1 h2)

theorem saveGroup_keeps {r0 : State} {e a : Nat} {x : PressGroup} {s : State} (h : Keeps r0 s) : Keeps r0 (saveGroup e a x s) := by
  unfold saveGroup
  extract_lets k n words header s1
  refine keeps_setPress (keeps_orchard h (fun hw => ?_)) _
  exact twf_tsets 0 _ _ (twf_foldl _ (fun _ _ ho => twf_tsets 0 _ _ ho) _ (twf_tclear _ _ _ hw))

theorem doPress_keeps {r0 : State} {e : Nat} {i : PressInstr} {s : State} (h : Keeps r0 s) : Keeps r0 (doPress e i s) := by
  unfold doPress
  split
  · exact State_modPress_keeps h
  · exact passGroup_keeps h
  · split
    · exact h
    · have h1 : Keeps r0 (s.modPress e (fun v => v.drop i.group)) := State_modPress_keeps h
      exact keeps_orchard h1 (fun h => twf_tsets 0 _ _ h)
  · exact State_modPress_keeps h
  · split
    · exact h
    · exact saveGroup_keeps (State_modPress_keeps h)
  · split
    · exact h
    · exact keeps_ite h (State_modPress_keeps h)

theorem runPress_keeps {r0 : State} {e : Nat} {i : PressInstr} {s : State} (hk : Keeps r0 s) : Keeps r0 (runPress e i s) := by
  unfold runPress
  split
  · exact keeps_setPress (State_modPress_keeps (noteOwn_keeps hk)) _
  · exact doPress_keeps hk

theorem drainPress_keeps {r0 : State} {e : Nat} : ∀ {n : Nat} {s : State} (_hk : Keeps r0 s), Keeps r0 (drainPress e n s)
  | 0, _, h => h
  | n + 1, s, h => by
    unfold drainPress
    split
    · exact h
    · exact drainPress_keeps (runPress_keeps (State_modPress_keeps h))

theorem releaseGroup_keeps {r0 : State} {e : Nat} {g : Nat} {s : State} (hk : Keeps r0 s) : Keeps r0 (releaseGroup e g s) := by
  unfold releaseGroup
  repeat' (first
    | with_reducible assumption | with_reducible apply State_modPress_keeps | with_reducible apply drainPress_keeps
    | (intro; try dsimp -zeta only))

theorem ownFault_keeps {r0 : State} {layer : Nat} {f : OwnFault} {s : State} (hk : Keeps r0 s) : Keeps r0 (ownFault layer
    f s) := by
  unfold ownFault
  repeat' (first
    | with_reducible assumption | with_reducible apply noteOwn_keeps | with_reducible apply releaseGroup_keeps | split)

theorem issuePress_keeps {r0 : State} {e : Nat} {i : PressInstr} {s : State} (hk : Keeps r0 s) : Keeps r0 (issuePress e i s) := by
  unfold issuePress
  exact keeps_ite hk (drainPress_keeps (State_modPress_keeps hk))

theorem pipLayerDone_keeps {r0 : State} {c : LayerIn} {s : State} (hk : Keeps r0 s) : Keeps r0 (pipLayerDone c s) := by
  unfold pipLayerDone
  repeat' (first
    | with_reducible assumption | with_reducible apply State_modPip_keeps | with_reducible apply State_free_keeps
    | with_reducible apply keeps_foldl | (intro; try dsimp -zeta only) | extract_lets | split)

theorem markFaulted_keeps {r0 : State} {slots : List StepSlot} {bad : List (Nat × Nat)} {s : State} (h : Keeps r0
    s) : Keeps r0 (markFaulted slots bad s) := by
  unfold markFaulted
  repeat' (first
    | with_reducible assumption | with_reducible apply State_modSeq_keeps | with_reducible apply keeps_foldl
    | (intro; try dsimp -zeta only) | extract_lets | split)

theorem failFills_keeps {r0 : State} {rows : List StepSlot} {status : Nat} {detail : Nat} {s : State} (h : Keeps r0
    s) : Keeps r0 (failFills rows status detail s) := by
  unfold failFills
  repeat' (first
    | with_reducible assumption | with_reducible apply failFill_keeps | with_reducible apply keeps_foldl | (intro; try dsimp -zeta only)
    | split)

theorem countRows_keeps {r0 : State} {rows : List StepSlot} {s : State} (h : Keeps r0 s) : Keeps r0 (countRows rows s) := by
  unfold countRows
  repeat' (first
    | with_reducible assumption | with_reducible apply State_modSeq_keeps | with_reducible apply keeps_foldl
    | (intro; try dsimp -zeta only) | extract_lets | split)

theorem tokensArrive_keeps {r0 : State} {id : Nat} {toks : List SlotToken} {wide : Nat} {s : State} (h : Keeps r0
    s) : Keeps r0 (tokensArrive id toks wide s) := by
  unfold tokensArrive
  repeat' (first
    | with_reducible assumption | with_reducible apply keeps_setSeqs | with_reducible apply modStep_keeps
    | with_reducible apply countRows_keeps | (intro; try dsimp -zeta only) | extract_lets | split)

theorem faultArrive_keeps {r0 : State} {id : Nat} {status : Nat} {detail : Nat} {s : State} (h : Keeps r0 s) : Keeps r0
    (faultArrive id status detail s) := by
  unfold faultArrive
  repeat' (first
    | with_reducible assumption | with_reducible apply keeps_setSeqs | with_reducible apply vineSendAll_keeps
    | with_reducible apply faultStep_keeps | with_reducible apply failFills_keeps | (intro; try dsimp -zeta only)
    | extract_lets | split)

theorem kvArrive_keeps {r0 : State} {id : Nat} {layer : Nat} {q : Nat} {pos : Nat} {s : State} (hk : Keeps r0 s) : Keeps
    r0 (kvArrive id layer q pos s) := by
  unfold kvArrive
  repeat' (first
    | with_reducible assumption | with_reducible apply State_modSeq_keeps | with_reducible apply vineSendAll_keeps
    | with_reducible apply failFills_keeps | with_reducible apply faultArrive_keeps | (intro; try dsimp -zeta only)
    | extract_lets | split)

theorem dropShare_keeps {r0 : State} {id : Nat} {s : State} (h : Keeps r0 s) : Keeps r0 (dropShare id s) := by
  unfold dropShare
  repeat' (first
    | with_reducible assumption | with_reducible apply keeps_setVine | (intro; try dsimp -zeta only) | extract_lets)

theorem faultShare_keeps {r0 : State} {h : Share} {status : Nat} {layer : Nat} {stack : Nat} {s : State} (hk : Keeps r0
    s) : Keeps r0 (faultShare h status layer stack s) := by
  unfold faultShare
  repeat' (first
    | with_reducible assumption | with_reducible apply vineSend_keeps | with_reducible apply modStep_keeps
    | with_reducible apply modShare_keeps | with_reducible apply failFills_keeps | with_reducible apply faultArrive_keeps
    | with_reducible apply dropShare_keeps | (intro; try dsimp -zeta only) | extract_lets | split | dsimp +zetaDelta only)

theorem tellPoison_keeps {r0 : State} {h : Share} {layer : Nat} {bad : List (Nat × Nat)} {s : State} (hk : Keeps r0
    s) : Keeps r0 (tellPoison h layer bad s) := by
  unfold tellPoison
  repeat' (first
    | with_reducible assumption | with_reducible apply vineSend_keeps | with_reducible apply kvArrive_keeps
    | with_reducible apply keeps_foldl | (intro; try dsimp -zeta only) | split)

theorem poisonShare_keeps {r0 : State} {h : Share} {layer : Nat} {bad : List (Nat × Nat)} {s : State} (hk : Keeps r0
    s) : Keeps r0 (poisonShare h layer bad s) := by
  unfold poisonShare
  repeat' (first
    | with_reducible assumption | with_reducible apply modStep_keeps | with_reducible apply modShare_keeps
    | with_reducible apply markFaulted_keeps | with_reducible apply failFills_keeps
    | with_reducible apply tellPoison_keeps | (intro; try dsimp -zeta only) | extract_lets | split)

theorem finishShare_keeps {r0 : State} {h : Share} {s : State} (hk : Keeps r0 s) : Keeps r0 (finishShare h s) := by
  unfold finishShare
  repeat' (first
    | with_reducible assumption | with_reducible apply vineSend_keeps | with_reducible apply modShare_keeps
    | with_reducible apply countRows_keeps | with_reducible apply tokensArrive_keeps
    | with_reducible apply dropShare_keeps | (intro; try dsimp -zeta only) | extract_lets | split | dsimp +zetaDelta only)

theorem runShare_keeps {r0 : State} {id : Nat} {errs : List SymErr} {own : OwnReads} {s : State} (hk : Keeps r0 s) : Keeps
    r0 (runShare id errs own s) := by
  unfold runShare
  repeat' (first
    | with_reducible assumption | with_reducible apply addErrs_keeps | with_reducible apply modShare_keeps
    | with_reducible apply noteCorrected_keeps | with_reducible apply restoreCounts_keeps
    | with_reducible apply runSlots_keeps | with_reducible apply ownFault_keeps | with_reducible apply finishShare_keeps
    | with_reducible apply pipLayerDone_keeps | with_reducible apply faultShare_keeps
    | with_reducible apply poisonShare_keeps | (intro; try dsimp -zeta only) | extract_lets | split
    | refine keeps_snd (by assumption) ?_)

theorem onShare_keeps {r0 : State} {id : Nat} {f : Share → Share} {s : State} (h : Keeps r0 s) : Keeps r0 (onShare id f s) := by
  unfold onShare
  repeat' (first
    | with_reducible assumption | with_reducible apply keeps_setVine | with_reducible apply modShare_keeps | extract_lets | split)

theorem planShare_keeps {r0 : State} {id : Nat} {model : Nat} {chunk : Bool} {pairs : List (Nat × Nat)} {srEn : Bool}
    {srKey : Nat} {force : Nat} {limit : Nat} {s : State} (h : Keeps r0 s) : Keeps r0 (planShare id model chunk pairs srEn
    srKey force limit s) := by
  unfold planShare
  repeat' (first
    | with_reducible assumption | with_reducible apply fillBegin_keeps | with_reducible apply onShare_keeps
    | with_reducible apply keeps_foldl | (intro; try dsimp -zeta only) | extract_lets | split)

theorem planReplica_keeps {r0 : State} {id : Nat} {model : Nat} {chunk : Bool} {pairs : List (Nat × Nat)} {cap : Captured}
    {s : State} (h : Keeps r0 s) : Keeps r0 (planReplica id model chunk pairs cap s) := by
  unfold planReplica
  repeat' (first
    | with_reducible assumption | with_reducible apply vineSendAll_keeps | with_reducible apply planShare_keeps
    | (intro; try dsimp -zeta only) | extract_lets | split)

theorem rephasePress_keeps {r0 : State} {e : Nat} {ph : Nat} {s : State} (hk : Keeps r0 s) : Keeps r0 (rephasePress e ph s) := by
  unfold rephasePress
  repeat' (first
    | with_reducible assumption | with_reducible apply State_free_keeps | with_reducible apply State_modPress_keeps
    | with_reducible apply drainPress_keeps | with_reducible apply saveGroup_keeps | with_reducible apply keeps_foldl
    | (intro; try dsimp -zeta only) | extract_lets | split)

theorem edge_keeps {r0 : State} {s : State} (hk : Keeps r0 s) : Keeps r0 (edge s) := by
  unfold edge
  extract_lets g
  exact keeps_setDrupe (keeps_foldl (fun _ _ h => rephasePress_keeps h) _ (keeps_setSeqs hk _)) _

theorem earlyEdge_keeps {r0 : State} {s : State} (h : Keeps r0 s) : Keeps r0 (earlyEdge s) := by
  unfold earlyEdge
  exact keeps_ite (keeps_setSeqs (edge_keeps h) _) h

theorem dropCollect_keeps {r0 : State} {w : Nat} {n : Nat} {s : State} (h : Keeps r0 s) : Keeps r0 (dropCollect w n s) := by
  unfold dropCollect
  repeat' (first
    | with_reducible assumption | with_reducible apply keeps_setVine | (intro; try dsimp -zeta only) | extract_lets)

theorem putCollect_keeps {r0 : State} {c : Collect} {s : State} (h : Keeps r0 s) : Keeps r0 (putCollect c s) := by
  unfold putCollect
  repeat' (first
    | with_reducible assumption | with_reducible apply keeps_setVine | with_reducible apply dropCollect_keeps | extract_lets)

theorem failCollect_keeps {r0 : State} {c : Collect} {a : Answer} {member : Nat} {s : State} (hk : Keeps r0 s) : Keeps r0
    (failCollect c a member s) := by
  unfold failCollect
  repeat' (first
    | with_reducible assumption | with_reducible apply complete_keeps | with_reducible apply vineSend_keeps
    | with_reducible apply dropCollect_keeps | extract_lets | split)

theorem memberDone_keeps {r0 : State} {w : Nat} {n : Nat} {member : Nat} {s : State} (hk : Keeps r0 s) : Keeps r0
    (memberDone w n member s) := by
  unfold memberDone
  repeat' (first
    | with_reducible assumption | with_reducible apply complete_keeps | with_reducible apply dropCollect_keeps
    | with_reducible apply putCollect_keeps | extract_lets | split)

theorem finishCollect_keeps {r0 : State} {w : Nat} {n : Nat} {s : State} (hk : Keeps r0 s) : Keeps r0 (finishCollect w n s) := by
  unfold finishCollect
  repeat' (first
    | with_reducible assumption | with_reducible apply writeMem_keeps | with_reducible apply vineSend_keeps
    | with_reducible apply dropCollect_keeps | with_reducible apply failCollect_keeps
    | with_reducible apply memberDone_keeps | (intro; try dsimp -zeta only) | extract_lets | split
    | refine keeps_snd (by assumption) ?_)

theorem contribute_keeps {r0 : State} {c : Collect} {errs : List SymErr} {s : State} (hk : Keeps r0 s) : Keeps r0
    (contribute c errs s) := by
  unfold contribute
  repeat' (first
    | with_reducible assumption | with_reducible apply addErrs_keeps | with_reducible apply moduleRead_keeps
    | with_reducible apply vineSendAll_keeps | with_reducible apply putCollect_keeps
    | with_reducible apply failCollect_keeps | (intro; try dsimp -zeta only) | extract_lets | split
    | refine keeps_snd (by assumption) ?_)

theorem resumeCollects_keeps {r0 : State} {s : State} (hk : Keeps r0 s) : Keeps r0 (resumeCollects s) := by
  unfold resumeCollects
  repeat' (first
    | with_reducible assumption | with_reducible apply finishCollect_keeps | with_reducible apply contribute_keeps
    | with_reducible apply keeps_foldl | (intro; try dsimp -zeta only) | split)

theorem serveWaiting_keeps {r0 : State} {s : State} (hk : Keeps r0 s) : Keeps r0 (serveWaiting s) := by
  unfold serveWaiting
  repeat' (first
    | with_reducible assumption | with_reducible apply serveHeld_keeps | with_reducible apply resumeCollects_keeps)

theorem beginCollect_keeps {r0 : State} {c : Collect} {errs : List SymErr} {s : State} (h : Keeps r0 s) : Keeps r0
    (beginCollect c errs s) := by
  unfold beginCollect
  repeat' (first
    | with_reducible assumption | with_reducible apply putCollect_keeps | with_reducible apply finishCollect_keeps
    | with_reducible apply contribute_keeps | extract_lets)

theorem collect_keeps {r0 : State} {errs : List SymErr} {w : Nat} {t : Taken} {s : State} (hk : Keeps r0 s) : Keeps r0
    (collect errs w t s) := by
  unfold collect
  repeat' (first
    | with_reducible assumption | with_reducible apply startRecord_keeps | with_reducible apply checked_keeps
    | with_reducible apply vineSendAll_keeps | with_reducible apply beginCollect_keeps | (intro; try dsimp -zeta only)
    | extract_lets)

theorem bulkArrive_keeps {r0 : State} {w : Nat} {n : Nat} {src : Nat} {data : List Byte} {s : State} (hk : Keeps r0
    s) : Keeps r0 (bulkArrive w n src data s) := by
  unfold bulkArrive
  repeat' (first
    | with_reducible assumption | with_reducible apply putCollect_keeps | with_reducible apply memberDone_keeps
    | with_reducible apply finishCollect_keeps | extract_lets | split)

theorem onCollect_keeps {r0 : State} {op : Nat} {w : Nat} {n : Nat} {errs : List SymErr} {s : State} (h : Keeps r0
    s) : Keeps r0 (onCollect op w n errs s) := by
  unfold onCollect
  repeat' (first
    | with_reducible assumption | with_reducible apply onRecord_keeps | with_reducible apply collect_keeps
    | (intro; try dsimp -zeta only))

theorem pipLoad_keeps {r0 : State} {src : Src} {w : Nat} {t : Taken} {s : State} (h : Keeps r0 s) : Keeps r0 (pipLoad src
    w t s) := by
  unfold pipLoad
  repeat' (first
    | with_reducible assumption | with_reducible apply complete_keeps | with_reducible apply readSource_keeps
    | with_reducible apply State_modPipUnit_keeps | with_reducible apply keeps_foldl | (intro; try dsimp -zeta only)
    | extract_lets | split | refine keeps_snd (by assumption) ?_)

theorem pipRun_keeps {r0 : State} {w : Nat} {t : Taken} {s : State} (hk : Keeps r0 s) : Keeps r0 (pipRun w t s) := by
  unfold pipRun
  repeat' (first
    | with_reducible assumption | with_reducible apply State_modPip_keeps | with_reducible apply startRecord_keeps
    | with_reducible apply checked_keeps | (intro; try dsimp -zeta only) | extract_lets)

theorem pipStatus_keeps {r0 : State} {w : Nat} {t : Taken} {s : State} (hk : Keeps r0 s) : Keeps r0 (pipStatus w t s) := by
  unfold pipStatus
  repeat' (first
    | with_reducible assumption | with_reducible apply complete_keeps | extract_lets)

theorem openBlocks_keeps {r0 : State} {bs : List Nat} {s : State} (h : Keeps r0 s) : Keeps r0 (openBlocks bs s) := by
  unfold openBlocks
  exact keeps_foldl (fun _ _ hs => forgetChecked_keeps (writeEntry_keeps hs)) _ h

theorem rebuildBlocks_keeps {r0 : State} {bs : List Nat} {s : State} (h : Keeps r0 s) : Keeps r0 (rebuildBlocks bs s) := by
  unfold rebuildBlocks
  exact keeps_foldl (fun _ _ hs => forgetChecked_keeps (writeEntry_keeps hs)) _ h

theorem endRunRecord_keeps {r0 : State} {r : Run} {a : Answer} {s : State} (h : Keeps r0 s) : Keeps r0 (endRunRecord r a s) := by
  unfold endRunRecord
  repeat' (first
    | with_reducible assumption | with_reducible apply complete_keeps | extract_lets | split)

theorem startPip_keeps {r0 : State} {k : Nat} {r : Run} {j : Nat} {s : State} (h : Keeps r0 s) : Keeps r0 (startPip k r j s) := by
  unfold startPip
  repeat' (first
    | with_reducible assumption | with_reducible apply State_modPipUnit_keeps | (intro; try dsimp -zeta only) | extract_lets
    | exact keeps_same h rfl rfl rfl rfl rfl rfl | exact keeps_same ‹Keeps _ _› rfl rfl rfl rfl rfl rfl)

theorem startRun_keeps {r0 : State} {k : Nat} {i : Nat} {r : Run} {image : List Byte} {s : State} (hk : Keeps r0
    s) : Keeps r0 (startRun k i r image s) := by
  unfold startRun
  repeat' (first
    | with_reducible assumption | with_reducible apply State_modPip_keeps | with_reducible apply startPip_keeps
    | with_reducible apply openBlocks_keeps | with_reducible apply keeps_foldl | (intro; try dsimp -zeta only)
    | extract_lets)

theorem admitRun_keeps {r0 : State} {k : Nat} {h : Nat × Run} {s : State} (hk : Keeps r0 s) : Keeps r0 (admitRun k h s) := by
  unfold admitRun
  repeat' (first
    | with_reducible assumption | with_reducible apply State_modPip_keeps | with_reducible apply moduleRead_keeps
    | with_reducible apply endRunRecord_keeps | with_reducible apply startRun_keeps | (intro; try dsimp -zeta only)
    | extract_lets | split | refine keeps_snd (by assumption) ?_)

theorem sliceStart_keeps {r0 : State} {k : Nat} {s : State} (hk : Keeps r0 s) : Keeps r0 (sliceStart k s) := by
  unfold sliceStart
  repeat' (first
    | with_reducible assumption | with_reducible apply State_modPip_keeps | with_reducible apply admitRun_keeps
    | with_reducible apply keeps_foldl | (intro; try dsimp -zeta only) | extract_lets | split | dsimp +zetaDelta only)

theorem sliceEnd_keeps {r0 : State} {k : Nat} {s : State} (hk : Keeps r0 s) : Keeps r0 (sliceEnd k s) := by
  unfold sliceEnd
  repeat' (first
    | with_reducible assumption | with_reducible apply State_modPip_keeps | with_reducible apply serveWaiting_keeps
    | (intro; try dsimp -zeta only) | extract_lets | split)

theorem dropPips_keeps {r0 : State} {k : Nat} {r : Run} {s : State} (hk : Keeps r0 s) : Keeps r0 (dropPips k r s) := by
  unfold dropPips
  repeat' (first
    | with_reducible assumption | with_reducible apply State_modPipUnit_keeps | with_reducible apply keeps_foldl
    | (intro; try dsimp -zeta only) | extract_lets)

theorem clearRun_keeps {r0 : State} {k : Nat} {i : Nat} {r : Run} {s : State} (hk : Keeps r0 s) : Keeps r0 (clearRun k i r
    s) := by
  unfold clearRun
  repeat' (first
    | with_reducible assumption | with_reducible apply State_modPip_keeps | with_reducible apply dropPips_keeps
    | (intro; try dsimp -zeta only) | extract_lets)

theorem runRebuild_keeps {r0 : State} {k : Nat} {i : Nat} {s : State} (h : Keeps r0 s) : Keeps r0 (runRebuild k i s) := by
  unfold runRebuild
  repeat' (first
    | with_reducible assumption | with_reducible apply State_modRun_keeps | with_reducible apply rebuildBlocks_keeps
    | with_reducible apply endRunRecord_keeps | with_reducible apply clearRun_keeps | (intro; try dsimp -zeta only)
    | extract_lets | split)

theorem holdRuns_keeps {r0 : State} {k : Nat} {s : State} (h : Keeps r0 s) : Keeps r0 (holdRuns k s) := by
  unfold holdRuns
  repeat' (first
    | with_reducible assumption | with_reducible apply State_modPip_keeps | with_reducible apply endRunRecord_keeps
    | with_reducible apply keeps_foldl | (intro; try dsimp -zeta only) | extract_lets)

theorem endRuns_keeps {r0 : State} {k : Nat} {fault : Option Nat} {a : Run → Answer} {s : State} (hk : Keeps r0 s) : Keeps
    r0 (endRuns k fault a s) := by
  unfold endRuns
  repeat' (first
    | with_reducible assumption | with_reducible apply State_modPip_keeps | with_reducible apply State_modRun_keeps
    | with_reducible apply serveWaiting_keeps | with_reducible apply endRunRecord_keeps
    | with_reducible apply dropPips_keeps | with_reducible apply keeps_foldl | (intro; try dsimp -zeta only)
    | extract_lets | split)

theorem stopRuns_keeps {r0 : State} {k : Nat} {s : State} (h : Keeps r0 s) : Keeps r0 (stopRuns k s) := by
  unfold stopRuns
  repeat' (first
    | with_reducible assumption | with_reducible apply holdRuns_keeps | with_reducible apply endRuns_keeps)

theorem pipBusy_keeps {r0 : State} {i : Nat} {s : State} (h : Keeps r0 s) : Keeps r0 (pipBusy i s).2 := by
  unfold pipBusy
  repeat' (first
    | with_reducible assumption | with_reducible apply State_free_keeps | extract_lets | split)

theorem reportHot_keeps {r0 : State} {i : Nat} {temp : Nat} {s : State} (hk : Keeps r0 s) : Keeps r0 (reportHot i temp s) := by
  unfold reportHot
  repeat' (first
    | with_reducible assumption | with_reducible apply keeps_setVine | with_reducible apply State_modStack_keeps
    | with_reducible apply msix_keeps | with_reducible apply logErr_keeps | (intro; try dsimp -zeta only) | extract_lets
    | split)

theorem countHot_keeps {r0 : State} {i : Nat} {s : State} (hk : Keeps r0 s) : Keeps r0 (countHot i s) := by
  unfold countHot
  repeat' (first
    | with_reducible assumption | with_reducible apply State_modPip_keeps | (intro; try dsimp -zeta only) | extract_lets
    | split)

theorem reportStop_keeps {r0 : State} {i : Nat} {s : State} (h : Keeps r0 s) : Keeps r0 (reportStop i s) := by
  unfold reportStop
  repeat' (first
    | with_reducible assumption | with_reducible apply vineSend_keeps | split)

theorem heatUp_keeps {r0 : State} {i : Nat} {row : Nat} {s : State} (hk : Keeps r0 s) : Keeps r0 (heatUp i row s) := by
  unfold heatUp
  repeat' (first
    | with_reducible assumption | with_reducible apply State_modStack_keeps | with_reducible apply logErr_keeps
    | with_reducible apply holdRuns_keeps | with_reducible apply stopRuns_keeps | with_reducible apply reportStop_keeps
    | with_reducible apply reportHot_keeps | with_reducible apply countHot_keeps | (intro; try dsimp -zeta only)
    | extract_lets | split | dsimp +zetaDelta only)

theorem stackTemp_keeps {r0 : State} {i : Nat} {temp : Nat} {s : State} (hk : Keeps r0 s) : Keeps r0 (stackTemp i temp s) := by
  unfold stackTemp
  repeat' (first
    | with_reducible assumption | with_reducible apply State_modStack_keeps | with_reducible apply pipBusy_keeps
    | with_reducible apply heatUp_keeps | (intro; try dsimp -zeta only) | extract_lets | split
    | refine keeps_snd (by assumption) ?_)

theorem riseNow_keeps {r0 : State} {i : Nat} {s : State} (hk : Keeps r0 s) : Keeps r0 (riseNow i s) := by
  unfold riseNow
  repeat' (first
    | with_reducible assumption | with_reducible apply State_modStack_keeps | with_reducible apply heatUp_keeps
    | (intro; try dsimp -zeta only) | extract_lets | split)

theorem thermalDown_keeps {r0 : State} {i : Nat} {s : State} (hk : Keeps r0 s) : Keeps r0 (thermalDown i s) := by
  unfold thermalDown
  repeat' (first
    | with_reducible assumption | with_reducible apply keeps_setVine | with_reducible apply State_modStack_keeps
    | with_reducible apply State_advanceTo_keeps | with_reducible apply landWaiting_keeps
    | with_reducible apply reportHot_keeps | with_reducible apply countHot_keeps | (intro; try dsimp -zeta only)
    | extract_lets | split | dsimp +zetaDelta only)

theorem refreshDown_keeps {r0 : State} {i : Nat} {s : State} (hk : Keeps r0 s) : Keeps r0 (refreshDown i s) := by
  unfold refreshDown
  repeat' (first
    | with_reducible assumption | with_reducible apply State_modStack_keeps | with_reducible apply State_advanceTo_keeps
    | with_reducible apply pipBusy_keeps | (intro; try dsimp -zeta only) | extract_lets | split)

theorem refreshDue_keeps {r0 : State} {i : Nat} {s : State} (h : Keeps r0 s) : Keeps r0 (refreshDue i s) := by
  unfold refreshDue
  repeat' (first
    | with_reducible assumption | with_reducible apply State_modPip_keeps | (intro; try dsimp -zeta only) | extract_lets | split)

theorem thermalStep_keeps {r0 : State} {w : Nat} {s : State} (h : Keeps r0 s) : Keeps r0 (thermalStep w s) := by
  unfold thermalStep
  repeat' (first
    | with_reducible assumption | with_reducible apply State_modWedge_keeps | (intro; try dsimp -zeta only) | extract_lets | split)

theorem dieDown_keeps {r0 : State} {w : Nat} {s : State} (hk : Keeps r0 s) : Keeps r0 (dieDown w s) := by
  unfold dieDown
  repeat' (first
    | with_reducible assumption | with_reducible apply State_modWedge_keeps | with_reducible apply State_advanceTo_keeps
    | with_reducible apply thermalStep_keeps | (intro; try dsimp -zeta only) | extract_lets | split)

theorem powerSample_keeps {r0 : State} {watts : Nat} {s : State} (h : Keeps r0 s) : Keeps r0 (powerSample watts s) := by
  unfold powerSample
  repeat' (first
    | with_reducible assumption | with_reducible apply keeps_setPwr | extract_lets | split)

theorem capStepUp_keeps {r0 : State} {s : State} (h : Keeps r0 s) : Keeps r0 (capStepUp s) := by
  unfold capStepUp
  repeat' (first
    | with_reducible assumption | with_reducible apply keeps_setPwr | with_reducible apply State_advanceTo_keeps | extract_lets | split)

theorem capUnmet_keeps {r0 : State} {s : State} (h : Keeps r0 s) : Keeps r0 (capUnmet s) := by
  unfold capUnmet
  repeat' (first
    | with_reducible assumption | with_reducible apply keeps_setPwr | with_reducible apply State_advanceTo_keeps
    | with_reducible apply msix_keeps | with_reducible apply logErr_keeps | extract_lets | split)

theorem stageMeasure_keeps {r0 : State} {ps : List Nat} {s : State} (hk : Keeps r0 s) : Keeps r0 (stageMeasure ps s) := by
  unfold stageMeasure
  repeat' (first
    | with_reducible assumption | with_reducible apply keeps_setPwr | (intro; try dsimp -zeta only) | extract_lets | split)

theorem closeForwarded_keeps {r0 : State} {q : Nat} {s : State} (h : Keeps r0 s) : Keeps r0 (closeForwarded q s) := by
  unfold closeForwarded
  repeat' (first
    | with_reducible assumption | with_reducible apply State_modSeq_keeps | with_reducible apply addEffect_keeps
    | (intro; try dsimp -zeta only) | extract_lets | split)

theorem applyForwarded_keeps {r0 : State} {bytes : List Byte} {s : State} (hk : Keeps r0 s) : Keeps r0 (applyForwarded
    bytes s) := by
  unfold applyForwarded
  repeat' (first
    | with_reducible assumption | with_reducible apply seqOpen_keeps | with_reducible apply seqCancel_keeps
    | with_reducible apply seqTrim_keeps | with_reducible apply stopSetWith_keeps
    | with_reducible apply maskLoadWith_keeps | with_reducible apply budgetSet_keeps
    | with_reducible apply budgetWindow_keeps | with_reducible apply appendTokens_keeps
    | with_reducible apply samplerSet_keeps | with_reducible apply maskFree_keeps | with_reducible apply pinPrefix_keeps
    | with_reducible apply unpinPrefix_keeps | with_reducible apply findPrefix_keeps
    | with_reducible apply beginCollect_keeps | with_reducible apply seqParkAs_keeps | with_reducible apply seqDrop_keeps
    | with_reducible apply seqResume_keeps | with_reducible apply closeForwarded_keeps | (intro; try dsimp -zeta only)
    | extract_lets | split)

theorem abandonChunk_keeps {r0 : State} {id : Nat} {s : State} (h : Keeps r0 s) : Keeps r0 (abandonChunk id s) := by
  unfold abandonChunk
  repeat' (first
    | with_reducible assumption | with_reducible apply failFills_keeps | with_reducible apply dropShare_keeps | split)

theorem abandonFills_keeps {r0 : State} {qs : List Nat} {s : State} (hk : Keeps r0 s) : Keeps r0 (abandonFills qs s) := by
  unfold abandonFills
  repeat' (first
    | with_reducible assumption | with_reducible apply failFill_keeps | with_reducible apply keeps_foldl
    | (intro; try dsimp -zeta only))

theorem applyPlan_keeps {r0 : State} {p : HeldPlan} {s : State} (hk : Keeps r0 s) : Keeps r0 (applyPlan p s) := by
  unfold applyPlan
  repeat' (first
    | with_reducible assumption | with_reducible apply planShare_keeps | with_reducible apply abandonChunk_keeps
    | with_reducible apply applyForwarded_keeps | with_reducible apply abandonFills_keeps | split)

theorem planArrive_keeps {r0 : State} {p : HeldPlan} {s : State} (h : Keeps r0 s) : Keeps r0 (planArrive p s) := by
  unfold planArrive
  repeat' (first
    | with_reducible assumption | with_reducible apply keeps_setVine | with_reducible apply applyPlan_keeps | extract_lets | split)

theorem releasePlans_keeps {r0 : State} {s : State} (h : Keeps r0 s) : Keeps r0 (releasePlans s) := by
  unfold releasePlans
  repeat' (first
    | with_reducible assumption | with_reducible apply keeps_setVine | with_reducible apply applyPlan_keeps
    | with_reducible apply keeps_foldl | (intro; try dsimp -zeta only) | extract_lets)

theorem enterGated_keeps {r0 : State} {s : State} (hk : Keeps r0 s) : Keeps r0 (enterGated s) := by
  unfold enterGated
  repeat' (first
    | with_reducible assumption | with_reducible apply keeps_setDrupe | with_reducible apply keeps_setPress
    | with_reducible apply keeps_setZest | with_reducible apply keeps_setSeqs | (intro; try dsimp -zeta only)
    | extract_lets)

theorem setSelfRefresh_keeps {r0 : State} {on : Bool} {s : State} (hk : Keeps r0 s) : Keeps r0 (setSelfRefresh on s) := by
  unfold setSelfRefresh
  exact keeps_foldl (fun _ _ h => State_modStack_keeps h) _ hk

theorem restartLeases_keeps {r0 : State} {p : Lease → Bool} {s : State} (h : Keeps r0 s) : Keeps r0 (restartLeases p s) := by
  unfold restartLeases
  repeat' (first
    | with_reducible assumption | with_reducible apply keeps_setCtl | (intro; try dsimp -zeta only) | rfl | extract_lets)

theorem retainCores_keeps {r0 : State} {on : Bool} {s : State} (h : Keeps r0 s) : Keeps r0 (retainCores on s) := by
  unfold retainCores
  repeat' (first
    | with_reducible assumption | with_reducible apply State_modCore_keeps | with_reducible apply keeps_foldl
    | (intro; try dsimp -zeta only) | extract_lets)

theorem vineOff_keeps {r0 : State} {s : State} (hk : Keeps r0 s) : Keeps r0 (vineOff s) := by
  unfold vineOff
  exact keeps_foldl (fun _ _ h => State_modVinePort_keeps h) _ hk

theorem retireAll_keeps {r0 : State} {s : State} (h : Keeps r0 s) : Keeps r0 (retireAll s) := by
  unfold retireAll
  repeat' (first
    | with_reducible assumption | with_reducible apply setPortState_keeps | with_reducible apply settlePort_keeps
    | with_reducible apply endAllParks_keeps | with_reducible apply keeps_foldl | (intro; try dsimp -zeta only) | split)

theorem crossDepth_keeps {r0 : State} {a b : Nat} {s : State} (hk : Keeps r0 s) : Keeps r0 (crossDepth a b s) := by
  unfold crossDepth
  extract_lets down up s1 s2 s3 s4 s5 s6 s7
  have h1 : Keeps r0 s1 := keeps_ite (enterGated_keeps hk) hk
  have h2 : Keeps r0 s2 := keeps_ite (setSelfRefresh_keeps h1) h1
  have h3 : Keeps r0 s3 := keeps_ite (retainCores_keeps h2) h2
  have h4 : Keeps r0 s4 := keeps_ite (vineOff_keeps h3) h3
  have h5 : Keeps r0 s5 := keeps_ite (retireAll_keeps h4) h4
  have h6 : Keeps r0 s6 := keeps_ite (restartLeases_keeps (retainCores_keeps h5)) h5
  have h7 : Keeps r0 s7 := keeps_ite (setSelfRefresh_keeps h6) h6
  exact keeps_ite (restartLeases_keeps h7) h7

theorem stopMove_keeps {r0 : State} {t : Nat} {s : State} (hk : Keeps r0 s) : Keeps r0 (stopMove t s) := by
  unfold stopMove
  repeat' (first
    | with_reducible assumption | with_reducible apply keeps_setPwr | with_reducible apply crossDepth_keeps | extract_lets
    | split)

theorem powerSet_keeps {r0 : State} {w : Nat} {t : Taken} {s : State} (hk : Keeps r0 s) : Keeps r0 (powerSet w t s) := by
  unfold powerSet
  repeat' (first
    | with_reducible assumption | with_reducible apply keeps_setPwr | with_reducible apply complete_keeps
    | with_reducible apply startRecord_keeps | with_reducible apply checked_keeps | with_reducible apply stopMove_keeps
    | (intro; try dsimp -zeta only) | extract_lets | split)

theorem powerDescend_keeps {r0 : State} {s : State} (h : Keeps r0 s) : Keeps r0 (powerDescend s) := by
  unfold powerDescend
  repeat' (first
    | with_reducible assumption | with_reducible apply keeps_setPwr | extract_lets | split)

theorem substateReached_keeps {r0 : State} {s : State} (h : Keeps r0 s) : Keeps r0 (substateReached s) := by
  simp only [substateReached]
  repeat' (first
    | with_reducible assumption | with_reducible apply keeps_setPwr | with_reducible apply State_advanceTo_keeps
    | with_reducible apply complete_keeps | with_reducible apply releasePlans_keeps
    | with_reducible apply crossDepth_keeps | split)

theorem selfWake_keeps {r0 : State} {s : State} (hk : Keeps r0 s) : Keeps r0 (selfWake s) := by
  unfold selfWake
  repeat' (first
    | with_reducible assumption | with_reducible apply keeps_setPwr | with_reducible apply State_advanceTo_keeps
    | with_reducible apply stopMove_keeps | extract_lets | split)

theorem queueStep_keeps {r0 : State} {w : Nat} {t : Taken} {s : State} (h : Keeps r0 s) : Keeps r0 (queueStep w t s) := by
  unfold queueStep
  repeat' (first
    | with_reducible assumption | with_reducible apply keeps_setSeqs | with_reducible apply startRecord_keeps | extract_lets)

theorem stepRecord_keeps {r0 : State} {w : Nat} {t : Taken} {s : State} (hk : Keeps r0 s) : Keeps r0 (stepRecord w t s) := by
  unfold stepRecord
  repeat' (first
    | with_reducible assumption | with_reducible apply releaseOutput_keeps | with_reducible apply complete_keeps
    | with_reducible apply modRecord_keeps | with_reducible apply reserveOutput_keeps
    | with_reducible apply queueStep_keeps | (intro; try dsimp -zeta only) | extract_lets | split)

theorem stepHeading_keeps {r0 : State} {id : Nat} {s : State} (h : Keeps r0 s) : Keeps r0 (stepHeading id s) := by
  unfold stepHeading
  repeat' (first
    | with_reducible assumption | with_reducible apply modStep_keeps | (intro; try dsimp -zeta only) | extract_lets | split)

theorem reserveNext_keeps {r0 : State} {q : Nat} {s : State} (hk : Keeps r0 s) : ∀ y ∈ reserveNext q s, Keeps r0 y := by
  unfold reserveNext
  extract_lets e k
  split
  · intro y hy; cases hy
  · split
    · intro y hy; cases hy; exact hk
    · split
      · intro y hy; cases hy; exact placePage_keeps (State_modSeq_keeps hk)
      · split
        · intro y hy; cases hy
        · intro y hy
          have h1 : Keeps r0 (withListPage q s) := withListPage_keeps hk
          obtain ⟨r, hr, rfl⟩ := Option.map_eq_some_iff.mp hy
          exact placePage_keeps (takePage_keeps h1 r hr)

theorem formSlot_keeps {r0 : State} {a : List StepSlot × State} {x : StepSlot} (hk : Keeps r0 a.2) : Keeps r0 (formSlot a x).2 := by
  unfold formSlot
  extract_lets s e left
  have hl : ∀ o, Keeps r0 (left o).2 := fun _ => hk
  refine keeps_ite_snd (fun _ => hl _) (fun _ => keeps_ite_snd (fun _ => hl _) (fun _ => keeps_ite_snd (fun _ => hl _) (fun _ =>
    keeps_ite_snd (fun _ => hl _) (fun _ => keeps_ite_snd (fun _ => hl _) (fun _ => keeps_ite_snd (fun _ => hl _) (fun _ =>
    keeps_ite_snd (fun _ => hl _) (fun _ => ?_)))))))
  have hr := reserveNext_keeps (q := x.q) hk
  split
  · exact hl _
  · rename_i e1
    exact hr _ e1

theorem formStep_keeps {r0 : State} {p : Step} {s : State} (hk : Keeps r0 s) : Keeps r0 (formStep p s) := by
  unfold formStep
  have h1 : Keeps r0 (p.slots.foldl formSlot ([], s)).2 := keeps_foldl_snd (fun _ _ h => formSlot_keeps h) _ hk
  generalize p.slots.foldl formSlot ([], s) = x at h1 ⊢
  obtain ⟨slots, s1⟩ := x
  dsimp only
  refine keeps_ite (nullBoundary_keeps (earlyEdge_keeps (modStep_keeps h1))) (keeps_ite (boundary_keeps (earlyEdge_keeps (modStep_keeps h1)))
    (keeps_ite (planReplica_keeps (modStep_keeps h1)) (modStep_keeps h1)))

theorem stepForm_keeps {r0 : State} {id : Nat} {s : State} (h : Keeps r0 s) : Keeps r0 (stepForm id s) := by
  unfold stepForm
  repeat' (first
    | with_reducible assumption | with_reducible apply formStep_keeps | split)

theorem stopStep_keeps {r0 : State} {p : Step} {e : Stop} {layer : Nat} {s : State} (h : Keeps r0 s) : Keeps r0 (stopStep
    p e layer s) := by
  unfold stopStep
  repeat' (first
    | with_reducible assumption | with_reducible apply modStep_keeps | with_reducible apply faultStep_keeps
    | with_reducible apply markFaulted_keeps | (intro; try dsimp -zeta only) | extract_lets | split)

theorem runStep_keeps {r0 : State} {p : Step} {errs : List SymErr} {own : OwnReads} {s : State} (hk : Keeps r0 s) : Keeps
    r0 (runStep p errs own s) := by
  unfold runStep
  repeat' (first
    | with_reducible assumption | with_reducible apply addErrs_keeps | with_reducible apply modStep_keeps
    | with_reducible apply faultStep_keeps | with_reducible apply noteCorrected_keeps
    | with_reducible apply runSlots_keeps | with_reducible apply ownFault_keeps | with_reducible apply pipLayerDone_keeps
    | with_reducible apply stopStep_keeps | (intro; try dsimp -zeta only) | extract_lets | split
    | refine keeps_snd (by assumption) ?_)

theorem stepLayer_keeps {r0 : State} {id : Nat} {errs : List SymErr} {own : OwnReads} {s : State} (h : Keeps r0 s) :
    Keeps r0 (stepLayer id errs own s) := by
  unfold stepLayer
  repeat' (first
    | with_reducible assumption | with_reducible apply runShare_keeps | with_reducible apply runStep_keeps | split)

theorem stepBoundary_keeps {r0 : State} {id : Nat} {s : State} (h : Keeps r0 s) : Keeps r0 (stepBoundary id s) := by
  unfold stepBoundary
  repeat' (first
    | with_reducible assumption | with_reducible apply boundary_keeps | with_reducible apply nullBoundary_keeps | split)

theorem chunkStart_keeps {r0 : State} {m : Nat} {s : State} (h : Keeps r0 s) : Keeps r0 (chunkStart m s) := by
  unfold chunkStart
  repeat' (first
    | with_reducible assumption | with_reducible apply keeps_setSeqs | with_reducible apply State_modSeq_keeps
    | with_reducible apply failFills_keeps | with_reducible apply planReplica_keeps | with_reducible apply keeps_foldl
    | (intro; try dsimp -zeta only) | extract_lets | split)

theorem dropChunk_keeps {r0 : State} {id : Nat} {s : State} (h : Keeps r0 s) : Keeps r0 (dropChunk id s) := by
  unfold dropChunk
  repeat' (first
    | with_reducible assumption | with_reducible apply keeps_setSeqs | (intro; try dsimp -zeta only) | extract_lets)

theorem setChunk_keeps {r0 : State} {c : Chunk} {s : State} (h : Keeps r0 s) : Keeps r0 (setChunk c s) := by
  unfold setChunk
  repeat' (first
    | with_reducible assumption | with_reducible apply keeps_setSeqs | (intro; try dsimp -zeta only) | extract_lets)

theorem runChunk_keeps {r0 : State} : ∀ {n : Nat} {c : Chunk} {s : State} (_hk : Keeps r0 s), Keeps r0 (runChunk n c s)
  | 0, _, _, h => h
  | n + 1, c, s, h => by
    unfold runChunk
    split
    · exact countRows_keeps (dropChunk_keeps h)
    · have h1 := runSlots_keeps (c := s.layerIn c.model c.cap c.layer c.rows.length true) (slots := c.rows) h
      split
      · rename_i e
        exact runChunk_keeps (setChunk_keeps (keeps_snd e h1))
      · rename_i e
        have h2 := keeps_snd e h1
        exact keeps_ite (failFills_keeps (dropChunk_keeps h2)) (setChunk_keeps h2)
      · rename_i e
        have h2 := keeps_snd e h1
        exact runChunk_keeps (setChunk_keeps (failFills_keeps (markFaulted_keeps (restoreCounts_keeps h2))))
      · rename_i e
        exact failFills_keeps (dropChunk_keeps (keeps_snd e h1))

theorem requeueChunk_keeps {r0 : State} {c : Chunk} {f : OwnFault} {s : State} (h : Keeps r0 s) : Keeps r0 (requeueChunk c f s) :=
  setChunk_keeps (ownFault_keeps h)

theorem chunkOn_keeps {r0 : State} {n : Nat} {c : Chunk} {own : OwnReads} {s : State} (h : Keeps r0 s) :
    Keeps r0 (chunkOn n c own s) := by
  unfold chunkOn
  split
  · exact requeueChunk_keeps (noteCorrected_keeps h)
  · exact runChunk_keeps (noteCorrected_keeps h)

theorem chunkComplete_keeps {r0 : State} {id : Nat} {errs : List SymErr} {own : OwnReads} {s : State} (hk : Keeps r0 s) :
    Keeps r0 (chunkComplete id errs own s) := by
  unfold chunkComplete
  split
  · exact keeps_foldl (fun _ _ h => runShare_keeps h) _ hk
  · exact hk
  · extract_lets earlier
    refine keeps_ite hk ?_
    extract_lets
    split
    · exact chunkOn_keeps (addErrs_keeps hk)
    · exact keeps_ite (chunkOn_keeps (addErrs_keeps hk)) (keeps_ite (failFills_keeps (dropChunk_keeps hk)) hk)

theorem repairDeadline_keeps {r0 : State} {id : Nat} {s : State} (hk : Keeps r0 s) : Keeps r0 (repairDeadline id s) := by
  unfold repairDeadline
  split
  · extract_lets s1
    have h1 : Keeps r0 s1 := State_advanceTo_keeps hk
    exact keeps_elim h1 (fun _ => nullBoundary_keeps h1)
  · extract_lets s1
    have h1 : Keeps r0 s1 := State_advanceTo_keeps hk
    exact keeps_elim h1 (fun _ => faultShare_keeps h1)
  · exact keeps_ite hk (failFills_keeps (dropChunk_keeps (State_advanceTo_keeps hk)))
  · exact hk

theorem mirrorRepair_keeps {r0 : State} {block : Nat} {errs : List SymErr} {s : State} (hk : Keeps r0 s) :
    Keeps r0 (mirrorRepair block errs s) := by
  unfold mirrorRepair
  split
  · exact hk
  · extract_lets m bs a
    refine keeps_ite hk ?_
    clear_value bs
    have h1 : Keeps r0 (bs.foldl (fun (a : List (Option (List Byte)) × State) b =>
      ((a.1 ++ [(readMirror (ledgerReader 9) b a.2).1]), (readMirror (ledgerReader 9) b a.2).2)) ([], addErrs errs s)).2 :=
      by
        refine keeps_foldl_snd ?_ _ (addErrs_keeps hk)
        intro a b ha
        exact readMirror_keeps ha
    change Keeps r0 (bs.foldl (fun (a : List (Option (List Byte)) × State) b =>
      match readMirror (ledgerReader 9) b a.2 with
      | (d, s) => (a.1 ++ [d], s)) ([], addErrs errs s)).2 at h1
    generalize List.foldl _ _ bs = x at h1 ⊢
    obtain ⟨ds, s1⟩ := x
    dsimp only at h1 ⊢
    have h2 : Keeps r0 ((bs.zip ds).foldl (fun s x => storeBurst x.1 (x.2.getD []) s) (recallGranule block s1)) :=
      keeps_foldl (fun _ _ h => storeBurst_keeps h) _ (recallGranule_keeps h1)
    refine keeps_ite ?_ (logErr_keeps (quarantine_keeps (State_setQuar_keeps h1)))
    exact clearQuarantine_keeps (keeps_ite (forgetChecked_keeps (writeEntry_keeps h2)) h2)

end Sys2Proof.Laws
end

