-- ==== Sys2Proof/Laws/FramesGroup.lean ====
section
/-! SUPPORT. One lemma per operation, for leases, models, resets, Vine links and cascades: between its state and the state it answers,
`Keeps` holds. -/

open Sys2Proof Sys2Proof.Machine

namespace Sys2Proof.Laws

theorem renameRecords_keeps {r0 : State} {f : Nat × Nat → Nat × Nat} {s : State} (hk : Keeps r0 s) : Keeps r0
    (renameRecords f s) := by
  unfold renameRecords
  repeat' (first
    | with_reducible assumption | with_reducible apply keeps_setCtl | with_reducible apply keeps_setZest
    | with_reducible apply keeps_setVine | with_reducible apply keeps_setPwr | (intro; try dsimp -zeta only) | rfl
    | extract_lets | exact keeps_same hk rfl rfl rfl rfl rfl rfl | exact keeps_same ‹Keeps _ _› rfl rfl rfl rfl rfl rfl)

theorem settleState_keeps {r0 : State} {q : Nat} {s : State} (h : Keeps r0 s) : Keeps r0 (settleState q s) := by
  unfold settleState
  repeat' (first
    | with_reducible assumption | with_reducible apply State_modSeq_keeps | (intro; try dsimp -zeta only) | extract_lets)

theorem dropEffects_keeps {r0 : State} {w : Nat} {n : Nat} {s : State} (h : Keeps r0 s) : Keeps r0 (dropEffects w n s) := by
  unfold dropEffects
  repeat' (first
    | with_reducible assumption | with_reducible apply keeps_setSeqs | with_reducible apply settleState_keeps
    | with_reducible apply keeps_foldl | (intro; try dsimp -zeta only) | extract_lets | split)

theorem dropAppend_keeps {r0 : State} {w : Nat} {n : Nat} {s : State} (h : Keeps r0 s) : Keeps r0 (dropAppend w n s) := by
  unfold dropAppend
  repeat' (first
    | with_reducible assumption | with_reducible apply State_modSeq_keeps | with_reducible apply leavePages_keeps
    | with_reducible apply voidRows_keeps | with_reducible apply keeps_foldl | (intro; try dsimp -zeta only)
    | extract_lets | split)

theorem dropResume_keeps {r0 : State} {w n : Nat} {s : State} (hk : Keeps r0 s) : Keeps r0 (dropResume w n s) := by
  unfold dropResume
  split
  · exact hk
  · exact releaseEntry_keeps (modPark_keeps (keeps_setPun (dropStreams_keeps hk) _))

theorem dropPark_keeps {r0 : State} {w : Nat} {n : Nat} {s : State} (h : Keeps r0 s) : Keeps r0 (dropPark w n s) := by
  unfold dropPark
  repeat' (first
    | with_reducible assumption | with_reducible apply undoPark_keeps | (intro; try dsimp -zeta only) | split)

theorem dropRun_keeps {r0 : State} {w : Nat} {n : Nat} {s : State} (h : Keeps r0 s) : Keeps r0 (dropRun w n s) := by
  unfold dropRun
  repeat' (first
    | with_reducible assumption | (intro; try dsimp -zeta only) | extract_lets | exact keeps_same h rfl rfl rfl rfl rfl rfl
    | exact keeps_same ‹Keeps _ _› rfl rfl rfl rfl rfl rfl)

theorem spoilLines_keeps {r0 : State} {d n : Nat} {s : State} (hk : Keeps r0 s) : Keeps r0 (spoilLines d n s) := by
  induction n generalizing d s with
  | zero => exact hk
  | succ n ih =>
    unfold spoilLines
    exact ih (landBurst_keeps (landBurst_keeps (freeBytes_keeps hk)))

theorem dropStaged_keeps {r0 : State} {w : Nat} {t : Taken} {s : State} (hk : Keeps r0 s) : Keeps r0 (dropStaged w t s) := by
  unfold dropStaged
  repeat' (first
    | with_reducible assumption | with_reducible apply keeps_setVine | with_reducible apply dropEffects_keeps
    | with_reducible apply dropAppend_keeps | with_reducible apply dropResume_keeps | with_reducible apply dropPark_keeps
    | with_reducible apply dropRun_keeps | with_reducible apply spoilLines_keeps | (intro; try dsimp -zeta only) | extract_lets
    | split)

theorem withdrawRecord_keeps {r0 : State} {cls : Nat} {w : Nat} {t : Taken} {s : State} (hk : Keeps r0 s) : Keeps r0
    (withdrawRecord cls w t s) := by
  unfold withdrawRecord
  repeat' (first
    | with_reducible assumption | with_reducible apply complete_keeps | with_reducible apply renameRecords_keeps
    | with_reducible apply dropStaged_keeps | (intro; try dsimp -zeta only) | extract_lets)

theorem settleStep_keeps {r0 : State} {cls : Nat} {w : Nat} {t : Taken} {s : State} (h : Keeps r0 s) : Keeps r0
    (settleStep cls w t s) := by
  unfold settleStep
  repeat' (first
    | with_reducible assumption | with_reducible apply complete_keeps | with_reducible apply nullBoundary_keeps
    | with_reducible apply withdrawStep_keeps | (intro; try dsimp -zeta only) | extract_lets | split)

theorem settleRecords_keeps {r0 : State} {c : Nat} {cls : Nat} {s : State} (h : Keeps r0 s) : Keeps r0 (settleRecords c
    cls s) := by
  unfold settleRecords
  repeat' (first
    | with_reducible assumption | with_reducible apply withdrawRecord_keeps | with_reducible apply settleStep_keeps
    | with_reducible apply keeps_foldl | (intro; try dsimp -zeta only) | extract_lets)

theorem leaseRenew_keeps {r0 : State} {cls : Nat} {holder : Nat} {res : Nat} {s : State} (h : Keeps r0 s) : Keeps r0
    (leaseRenew cls holder res s) := by
  unfold leaseRenew
  repeat' (first
    | with_reducible assumption | with_reducible apply keeps_setCtl | (intro; try dsimp -zeta only) | rfl | extract_lets | split)

theorem markRevoked_keeps {r0 : State} {l : Lease} {s : State} (h : Keeps r0 s) : Keeps r0 (markRevoked l s) := by
  unfold markRevoked
  repeat' (first
    | with_reducible assumption | with_reducible apply keeps_setCtl | with_reducible apply logErr_keeps | (intro; try dsimp -zeta only)
    | rfl | extract_lets)

theorem freeResource_keeps {r0 : State} {l : Lease} {s : State} (hk : Keeps r0 s) : Keeps r0 (freeResource l s) := by
  unfold freeResource
  repeat' (first
    | with_reducible assumption | with_reducible apply notePress_keeps | with_reducible apply releaseGroup_keeps
    | with_reducible apply dropRun_keeps | with_reducible apply withdrawRecord_keeps | extract_lets | split)

theorem revokeAll_keeps {r0 : State} {c : Nat} {s : State} (h : Keeps r0 s) : Keeps r0 (revokeAll c s) := by
  unfold revokeAll
  repeat' (first
    | with_reducible assumption | with_reducible apply markRevoked_keeps | with_reducible apply freeResource_keeps
    | with_reducible apply keeps_foldl | (intro; try dsimp -zeta only))

theorem resetCore_keeps {r0 : State} {c : Nat} {cls : Nat} {detail : Nat} {s : State} (h : Keeps r0 s) : Keeps r0
    (resetCore c cls detail s) := by
  unfold resetCore
  repeat' (first
    | with_reducible assumption | with_reducible apply State_modWin_keeps | with_reducible apply State_modCore_keeps
    | with_reducible apply logErr_keeps | with_reducible apply settleRecords_keeps | with_reducible apply revokeAll_keeps
    | with_reducible apply keeps_foldl | (intro; try dsimp -zeta only) | extract_lets | split)

theorem endSteps_keeps {r0 : State} {cls : Nat} {p : Step → Bool} {s : State} (h : Keeps r0 s) : Keeps r0 (endSteps cls p s) := by
  unfold endSteps
  repeat' (first
    | with_reducible assumption | with_reducible apply nullBoundary_keeps | with_reducible apply keeps_foldl
    | (intro; try dsimp -zeta only))

theorem endChunks_keeps {r0 : State} {cls : Nat} {p : Chunk → Bool} {s : State} (h : Keeps r0 s) : Keeps r0 (endChunks cls
    p s) := by
  unfold endChunks
  repeat' (first
    | with_reducible assumption | with_reducible apply failFills_keeps | with_reducible apply dropChunk_keeps
    | with_reducible apply keeps_foldl | (intro; try dsimp -zeta only))

theorem endWork_keeps {r0 : State} {kind : Nat} {index : Nat} {cls : Nat} {s : State} (hk : Keeps r0 s) : Keeps r0
    (endWork kind index cls s) := by
  unfold endWork
  repeat' (first
    | with_reducible assumption | with_reducible apply State_modPip_keeps | with_reducible apply State_modPun_keeps
    | with_reducible apply State_modVinePort_keeps | with_reducible apply State_modPress_keeps
    | with_reducible apply endRunRecord_keeps | with_reducible apply endRuns_keeps | with_reducible apply failHandle_keeps
    | with_reducible apply endSteps_keeps | with_reducible apply endChunks_keeps | with_reducible apply keeps_foldl
    | (intro; try dsimp -zeta only) | extract_lets | split)

theorem resetUnit_keeps {r0 : State} {kind : Nat} {index : Nat} {cls : Nat} {detail : Nat} {answer : Option (Nat × Nat)}
    {s : State} (h : Keeps r0 s) : Keeps r0 (resetUnit kind index cls detail answer s) := by
  unfold resetUnit
  repeat' (first
    | with_reducible assumption | with_reducible apply keeps_setCtl | with_reducible apply logErr_keeps
    | with_reducible apply endWork_keeps | (intro; try dsimp -zeta only) | rfl | extract_lets)

theorem leaseRevoke_keeps {r0 : State} {cls : Nat} {holder : Nat} {res : Nat} {s : State} (h : Keeps r0 s) : Keeps r0
    (leaseRevoke cls holder res s) := by
  unfold leaseRevoke
  repeat' (first
    | with_reducible assumption | with_reducible apply State_advanceTo_keeps | with_reducible apply markRevoked_keeps
    | with_reducible apply freeResource_keeps | with_reducible apply resetCore_keeps
    | with_reducible apply resetUnit_keeps | (intro; try dsimp -zeta only) | extract_lets | split)

theorem watchdogReset_keeps {r0 : State} {c : Nat} {s : State} (h : Keeps r0 s) : Keeps r0 (watchdogReset c s) := by
  unfold watchdogReset
  repeat' (first
    | with_reducible assumption | with_reducible apply State_advanceTo_keeps | with_reducible apply resetCore_keeps | split)

theorem unitBack_keeps {r0 : State} {kind : Nat} {index : Nat} {s : State} (h : Keeps r0 s) : Keeps r0 (unitBack kind
    index s) := by
  unfold unitBack
  repeat' (first
    | with_reducible assumption | with_reducible apply keeps_setCtl | with_reducible apply complete_keeps
    | with_reducible apply keeps_foldl | (intro; try dsimp -zeta only) | rfl | extract_lets | split)

theorem coreBack_keeps {r0 : State} {c : Nat} {s : State} (h : Keeps r0 s) : Keeps r0 (coreBack c s) := by
  unfold coreBack
  repeat' (first
    | with_reducible assumption | with_reducible apply State_modCore_keeps | with_reducible apply unitBack_keeps
    | (intro; try dsimp -zeta only) | extract_lets | split)

theorem unitReset_keeps {r0 : State} {w : Nat} {t : Taken} {s : State} (h : Keeps r0 s) : Keeps r0 (unitReset w t s) := by
  unfold unitReset
  repeat' (first
    | with_reducible assumption | with_reducible apply keeps_setCtl | with_reducible apply startRecord_keeps
    | with_reducible apply checked_keeps | with_reducible apply resetCore_keeps | with_reducible apply resetUnit_keeps
    | (intro; try dsimp -zeta only) | rfl | extract_lets | split)

theorem unitReturn_keeps {r0 : State} {kind : Nat} {index : Nat} {s : State} (h : Keeps r0 s) : Keeps r0 (unitReturn kind
    index s) := by
  unfold unitReturn
  repeat' (first
    | with_reducible assumption | with_reducible apply unitBack_keeps | with_reducible apply coreBack_keeps | split)

theorem takeAreaPages_keeps {r0 : State} {key : Nat} {n : Nat} {s : State} (h : Keeps r0 s) : Keeps r0 (takeAreaPages key
    n s).2 := by
  unfold takeAreaPages
  repeat' (first
    | with_reducible assumption | with_reducible apply takePage_keeps | with_reducible apply keeps_foldl_snd
    | (intro; try dsimp -zeta only) | split | refine keeps_some (by assumption) ?_)

theorem placeModel_keeps {r0 : State} {w : Nat} {t : Taken} {m : Model} {s : State} (hk : Keeps r0 s) : Keeps r0 (placeModel w t m s) := by
  unfold placeModel
  extract_lets area size key
  refine checked_keeps hk ?_
  intro y hy
  extract_lets s1
  have h1 : Keeps r0 s1 := keeps_foldl (fun _ _ h => usePage_keeps h) _ (giveKey_keeps hy)
  clear_value s1
  split
  rename_i e
  exact complete_keeps (hostWrite_keeps (State_modModel_keeps (keeps_snd e (takeAreaPages_keeps h1))))

theorem modelPlace_keeps {r0 : State} {plan : Placement} {w : Nat} {t : Taken} {s : State} (hk : Keeps r0 s) : Keeps r0
    (modelPlace plan w t s) := by
  unfold modelPlace
  repeat' (first
    | with_reducible assumption | with_reducible apply complete_keeps | with_reducible apply checked_keeps
    | with_reducible apply placeModel_keeps | (intro; try dsimp -zeta only) | extract_lets | split)

theorem layerDesc_keeps {r0 : State} {w : Nat} {t : Taken} {s : State} (h : Keeps r0 s) : Keeps r0 (layerDesc w t s) := by
  unfold layerDesc
  repeat' (first
    | with_reducible assumption | with_reducible apply State_modModel_keeps | with_reducible apply complete_keeps
    | with_reducible apply checked_keeps | (intro; try dsimp -zeta only) | extract_lets)

theorem loadScales_keeps {r0 : State} {w : Nat} {t : Taken} {d : List Byte} {s : State} (h : Keeps r0 s) : Keeps r0
    (loadScales w t d s) := by
  simp only [loadScales]
  repeat' (first
    | with_reducible assumption | with_reducible apply State_modModel_keeps | with_reducible apply complete_keeps
    | (intro; try dsimp -zeta only) | split)

theorem scaleLoad_keeps {r0 : State} {src : Src} {w : Nat} {t : Taken} {s : State} (h : Keeps r0 s) : Keeps r0 (scaleLoad
    src w t s) := by
  unfold scaleLoad
  repeat' (first
    | with_reducible assumption | with_reducible apply complete_keeps | with_reducible apply checked_keeps
    | with_reducible apply readSource_keeps | with_reducible apply loadScales_keeps | (intro; try dsimp -zeta only)
    | extract_lets | split | refine keeps_snd (by assumption) ?_)

theorem makeResident_keeps {r0 : State} {w : Nat} {t : Taken} {ds : List DeltaBlock} {pages : List Nat} {granules : List
    Nat} {s : State} (hk : Keeps r0 s) : Keeps r0 (makeResident w t ds pages granules s) := by
  unfold makeResident
  repeat' (first
    | with_reducible assumption | with_reducible apply keeps_setSeqs | with_reducible apply complete_keeps
    | with_reducible apply writeMem_keeps | with_reducible apply usePage_keeps | with_reducible apply giveKey_keeps
    | with_reducible apply keeps_foldl | (intro; try dsimp -zeta only) | extract_lets)

theorem loadVariant_keeps {r0 : State} {plan : DeltaPlacement} {w : Nat} {t : Taken} {im : List Byte} {s : State}
    (hk : Keeps r0 s) : Keeps r0 (loadVariant plan w t im s) := by
  unfold loadVariant
  repeat' (first
    | with_reducible assumption | with_reducible apply complete_keeps | with_reducible apply makeResident_keeps
    | extract_lets | split)

theorem variantLoad_keeps {r0 : State} {src : Src} {plan : DeltaPlacement} {w : Nat} {t : Taken} {s : State} (h : Keeps r0
    s) : Keeps r0 (variantLoad src plan w t s) := by
  unfold variantLoad
  repeat' (first
    | with_reducible assumption | with_reducible apply complete_keeps | with_reducible apply checked_keeps
    | with_reducible apply readSource_keeps | with_reducible apply loadVariant_keeps | (intro; try dsimp -zeta only)
    | extract_lets | split | refine keeps_snd (by assumption) ?_)

theorem variantDrop_keeps {r0 : State} {w : Nat} {t : Taken} {s : State} (h : Keeps r0 s) : Keeps r0 (variantDrop w t s) := by
  unfold variantDrop
  repeat' (first
    | with_reducible assumption | with_reducible apply complete_keeps | with_reducible apply checked_keeps
    | with_reducible apply dropVariant_keeps | (intro; try dsimp -zeta only) | extract_lets)

theorem modelDrop_keeps {r0 : State} {w : Nat} {t : Taken} {s : State} (hk : Keeps r0 s) : Keeps r0 (modelDrop w t s) := by
  unfold modelDrop
  repeat' (first
    | with_reducible assumption | with_reducible apply complete_keeps | with_reducible apply checked_keeps
    | with_reducible apply dropModel_keeps | with_reducible apply expirePark_keeps | with_reducible apply keeps_foldl
    | (intro; try dsimp -zeta only) | extract_lets)

theorem dropUnformed_keeps {r0 : State} {s : State} (h : Keeps r0 s) : Keeps r0 (dropUnformed s) := by
  unfold dropUnformed
  repeat' (first
    | with_reducible assumption | with_reducible apply removeStep_keeps | with_reducible apply keeps_foldl
    | (intro; try dsimp -zeta only))

theorem commandReset_keeps {r0 : State} {s : State} (hk : Keeps r0 s) : Keeps r0 (commandReset s) := by
  unfold commandReset
  repeat' (first
    | with_reducible assumption | with_reducible apply keeps_setWin | with_reducible apply renameRecords_keeps
    | with_reducible apply dropUnformed_keeps | with_reducible apply keeps_foldl | (intro; try dsimp -zeta only)
    | extract_lets)

theorem linkLost_keeps {r0 : State} {s : State} (hk : Keeps r0 s) : Keeps r0 (linkLost s) := by
  unfold linkLost
  repeat' (first
    | with_reducible assumption | with_reducible apply keeps_setHost | with_reducible apply logErr_keeps | extract_lets
    | split)

theorem closeAll_keeps {r0 : State} {s : State} (hk : Keeps r0 s) : Keeps r0 (closeAll s) := by
  unfold closeAll
  repeat' (first
    | with_reducible assumption | with_reducible apply keeps_setSeqs | with_reducible apply keeps_setPun
    | with_reducible apply keeps_setVine | with_reducible apply State_modSeq_keeps
    | with_reducible apply releaseEntry_keeps | with_reducible apply dropReserved_keeps
    | with_reducible apply dropStreams_keeps | with_reducible apply undoPark_keeps | with_reducible apply keeps_foldl
    | (intro; try dsimp -zeta only) | extract_lets | split)

theorem dropAllModels_keeps {r0 : State} {s : State} (hk : Keeps r0 s) : Keeps r0 (dropAllModels s) := by
  unfold dropAllModels
  repeat' (first
    | with_reducible assumption | with_reducible apply keeps_setSeqs | with_reducible apply unrefPages_keeps
    | with_reducible apply dropWhole_keeps | with_reducible apply expirePark_keeps | with_reducible apply keeps_foldl
    | (intro; try dsimp -zeta only) | extract_lets | split)

theorem cxlReset_keeps {r0 : State} {s : State} (hk : Keeps r0 s) : Keeps r0 (cxlReset s) := by
  unfold cxlReset
  have h1 := dropAllModels_keeps (closeAll_keeps (commandReset_keeps hk))
  exact keeps_foldl (fun _ _ h => recallGranule_keeps h) _ (keeps_ite h1 (restBoundary_keeps h1))

theorem linkTrain_keeps {r0 : State} {p : HostProto} {rate : Nat} {width : Nat} {cacheEn : Bool} {memEn : Bool} {s :
    State} (h : Keeps r0 s) : Keeps r0 (linkTrain p rate width cacheEn memEn s) := by
  unfold linkTrain
  repeat' (first
    | with_reducible assumption | with_reducible apply keeps_setHost | extract_lets | split)

theorem configRequest_keeps {r0 : State} {busMaster : Option Bool} {memSpace : Option Bool} {s : State} (hk : Keeps r0
    s) : Keeps r0 (configRequest busMaster memSpace s) := by
  unfold configRequest
  repeat' (first
    | with_reducible assumption | with_reducible apply keeps_setHost | with_reducible apply send_keeps | extract_lets
    | split)

theorem vineTrain_keeps {r0 : State} {p : Nat} {serial : U64} {peer : Option Nat} {lanesOk : BitVec 8} {s : State}
    (h : Keeps r0 s) : Keeps r0 (vineTrain p serial peer lanesOk s) := by
  unfold vineTrain
  repeat' (first
    | with_reducible assumption | with_reducible apply State_modVinePort_keeps | with_reducible apply vineError_keeps
    | (intro; try dsimp -zeta only) | extract_lets | split)

theorem vineRetry_keeps {r0 : State} {p : Nat} {s : State} (h : Keeps r0 s) : Keeps r0 (vineRetry p s) := by
  unfold vineRetry
  repeat' (first
    | with_reducible assumption | with_reducible apply State_modVinePort_keeps | with_reducible apply State_advanceTo_keeps
    | (intro; try dsimp -zeta only) | extract_lets | split)

theorem vineDead_keeps {r0 : State} {p : Nat} {replayFailed : Bool} {s : State} (h : Keeps r0 s) : Keeps r0 (vineDead p
    replayFailed s) := by
  unfold vineDead
  repeat' (first
    | with_reducible assumption | with_reducible apply State_advanceTo_keeps | with_reducible apply portDown_keeps | extract_lets | split)

theorem vineCredit_keeps {r0 : State} {p : Nat} {vc : Nat} {s : State} (h : Keeps r0 s) : Keeps r0 (vineCredit p vc s) := by
  unfold vineCredit
  repeat' (first
    | with_reducible assumption | with_reducible apply State_advanceTo_keeps | with_reducible apply portDown_keeps
    | with_reducible apply markRevoked_keeps | extract_lets | split)

theorem vineFrame_keeps {r0 : State} {p : Nat} {f : VineFrame} {s : State} (h : Keeps r0 s) : Keeps r0 (vineFrame p f s) := by
  unfold vineFrame
  repeat' (first
    | with_reducible assumption | with_reducible apply State_modVinePort_keeps | (intro; try dsimp -zeta only) | extract_lets | split)

theorem corruptMessage_keeps {r0 : State} {m : VineMsg} {s : State} (hk : Keeps r0 s) : Keeps r0 (corruptMessage m s) := by
  unfold corruptMessage
  repeat' (first
    | with_reducible assumption | with_reducible apply State_free_keeps | with_reducible apply noteCorrupt_keeps
    | extract_lets)

theorem passOn_keeps {r0 : State} {m : VineMsg} {c : Content} {s : State} (h : Keeps r0 s) : Keeps r0 (passOn m c s) := by
  unfold passOn
  repeat' (first
    | with_reducible assumption | with_reducible apply vineError_keeps | with_reducible apply vinePost_keeps | split)

theorem joinSegment_keeps {r0 : State} {m : VineMsg} {c : Content} {s : State} (h : Keeps r0 s) : Keeps r0 (joinSegment m
    c s).2.2 := by
  unfold joinSegment
  repeat' (first
    | with_reducible assumption | with_reducible apply keeps_setVine | (intro; try dsimp -zeta only) | extract_lets | split)

theorem meetFlood_keeps {r0 : State} {m : VineMsg} {c : Content} {s : State} (h : Keeps r0 s) : Keeps r0 (meetFlood m c s) := by
  unfold meetFlood
  repeat' (first
    | with_reducible assumption | with_reducible apply keeps_setVine | with_reducible apply passOn_keeps | extract_lets)

theorem hear_keeps {r0 : State} {src : Nat} {s : State} (h : Keeps r0 s) : Keeps r0 (hear src s) := by
  unfold hear
  repeat' (first
    | with_reducible assumption | with_reducible apply keeps_setVine | extract_lets)

theorem onMessage_keeps {r0 : State} {m : VineMsg} {c : Content} {lost : Content → State → State} {got : List Byte → State
    → State} {s : State} (hk : Keeps r0 s) (hf0 : ∀ x0 y, Keeps r0 y → Keeps r0 (lost x0 y)) (hf1 : ∀ x0 y, Keeps r0 y →
    Keeps r0 (got x0 y)) : Keeps r0 (onMessage m c lost got s) := by
  simp only [onMessage]
  repeat' (first
    | with_reducible assumption | with_reducible apply hf0 | with_reducible apply hf1
    | with_reducible apply vineError_keeps | with_reducible apply passOn_keeps | with_reducible apply joinSegment_keeps
    | with_reducible apply meetFlood_keeps | with_reducible apply hear_keeps | with_reducible apply corruptMessage_keeps
    | split)

theorem lostQuietly_keeps {r0 : State} {c : Content} {s : State} (hk : Keeps r0 s) : Keeps r0 (lostQuietly c s) := hk

theorem takeMirror_keeps {r0 : State} {mirror : List Nat} {s : State} (h : Keeps r0 s) : Keeps r0 (takeMirror mirror s) := by
  unfold takeMirror
  repeat' (first
    | with_reducible assumption | with_reducible apply State_modSeq_keeps | with_reducible apply keeps_foldl
    | (intro; try dsimp -zeta only) | extract_lets | split)

theorem startElection_keeps {r0 : State} {least : Nat} {s : State} (h : Keeps r0 s) : Keeps r0 (startElection least s) := by
  unfold startElection
  repeat' (first
    | with_reducible assumption | with_reducible apply keeps_setVine | with_reducible apply vineSendIn_keeps | extract_lets)

theorem addClaim_keeps {r0 : State} {member : Nat} {prio : Nat} {serial : Nat} {s : State} (h : Keeps r0 s) : Keeps r0
    (addClaim member prio serial s) := by
  unfold addClaim
  repeat' (first
    | with_reducible assumption | with_reducible apply keeps_setVine | (intro; try dsimp -zeta only) | extract_lets)

theorem claimArrive_keeps {r0 : State} {m : VineMsg} {prio : Nat} {serial : U64} {s : State} (h : Keeps r0 s) : Keeps r0
    (claimArrive m prio serial s) := by
  unfold claimArrive
  repeat' (first
    | with_reducible assumption | with_reducible apply keeps_setVine | with_reducible apply startElection_keeps
    | with_reducible apply addClaim_keeps | extract_lets | split)

theorem sendConfirm_keeps {r0 : State} {e : Nat} {named : List Nat} {dests : List Nat} {s : State} (h : Keeps r0
    s) : Keeps r0 (sendConfirm e named dests s) := by
  unfold sendConfirm
  repeat' (first
    | with_reducible assumption | with_reducible apply vineSendIn_keeps | with_reducible apply keeps_foldl
    | (intro; try dsimp -zeta only) | split)

theorem propose_keeps {r0 : State} {e : Nat} {named : List Nat} {dests : List Nat} {s : State} (h : Keeps r0 s) : Keeps r0
    (propose e named dests s) := by
  unfold propose
  repeat' (first
    | with_reducible assumption | with_reducible apply keeps_setVine | with_reducible apply sendConfirm_keeps | extract_lets)

theorem electionEnd_keeps {r0 : State} {s : State} (h : Keeps r0 s) : Keeps r0 (electionEnd s) := by
  unfold electionEnd
  repeat' (first
    | with_reducible assumption | with_reducible apply State_advanceTo_keeps | with_reducible apply propose_keeps
    | (intro; try dsimp -zeta only) | extract_lets | split)

theorem electionRetry_keeps {r0 : State} {s : State} (h : Keeps r0 s) : Keeps r0 (electionRetry s) := by
  unfold electionRetry
  repeat' (first
    | with_reducible assumption | with_reducible apply State_advanceTo_keeps | with_reducible apply startElection_keeps | split)

theorem dropGroupSequences_keeps {r0 : State} {s : State} (h : Keeps r0 s) : Keeps r0 (dropGroupSequences s) := by
  unfold dropGroupSequences
  repeat' (first
    | with_reducible assumption | with_reducible apply State_modSeq_keeps | with_reducible apply freeEntry_keeps
    | with_reducible apply keeps_foldl | (intro; try dsimp -zeta only) | extract_lets | split)

theorem leaveGroup_keeps {r0 : State} {s : State} (h : Keeps r0 s) : Keeps r0 (leaveGroup s) := by
  simp only [leaveGroup]
  repeat' (first
    | with_reducible assumption | with_reducible apply keeps_setSeqs | with_reducible apply keeps_setVine
    | with_reducible apply complete_keeps | with_reducible apply dropGroupSequences_keeps | split)

theorem discardWork_keeps {r0 : State} {s : State} (h : Keeps r0 s) : Keeps r0 (discardWork s) := by
  unfold discardWork
  repeat' (first
    | with_reducible assumption | with_reducible apply keeps_setSeqs | with_reducible apply keeps_setVine
    | with_reducible apply State_modSeq_keeps | with_reducible apply dropReserved_keeps | with_reducible apply keeps_foldl
    | (intro; try dsimp -zeta only) | extract_lets | split)

theorem renewFences_keeps {r0 : State} {s : State} (hk : Keeps r0 s) : Keeps r0 (renewFences s) := by
  unfold renewFences
  exact keeps_foldl (fun _ _ h => askGroupFence_keeps h) _ (keeps_setVine hk _)

theorem settleGroup_keeps {r0 : State} {s : State} (hk : Keeps r0 s) : Keeps r0 (settleGroup s) := by
  unfold settleGroup
  repeat' (first
    | with_reducible assumption | with_reducible apply keeps_setSeqs | with_reducible apply complete_keeps
    | with_reducible apply withdrawStep_keeps | with_reducible apply withdrawRecord_keeps
    | with_reducible apply keeps_foldl | (intro; try dsimp -zeta only) | extract_lets)

theorem joined_keeps {r0 : State} {s : State} (h : Keeps r0 s) : Keeps r0 (joined s) := by
  unfold joined
  repeat' (first
    | with_reducible assumption | with_reducible apply keeps_setVine | with_reducible apply complete_keeps | extract_lets | split)

theorem newEpoch_keeps {r0 : State} {e : Nat} {stem : Nat} {state : Nat} {size : Nat} {members : List Nat} {secret : List
    Byte} {s : State} (h : Keeps r0 s) : Keeps r0 (newEpoch e stem state size members secret s) := by
  unfold newEpoch
  repeat' (first
    | with_reducible assumption | with_reducible apply keeps_setSeqs | with_reducible apply keeps_setVine | (intro; try dsimp -zeta only)
    | extract_lets)

theorem voidShares_keeps {r0 : State} {s : State} (h : Keeps r0 s) : Keeps r0 (voidShares s) := by
  unfold voidShares
  repeat' (first
    | with_reducible assumption | with_reducible apply boundary_keeps | with_reducible apply discardWork_keeps
    | with_reducible apply keeps_foldl | (intro; try dsimp -zeta only) | extract_lets)

theorem dropMissing_keeps {r0 : State} {before : List Nat} {s : State} (h : Keeps r0 s) : Keeps r0 (dropMissing before s) := by
  unfold dropMissing
  repeat' (first
    | with_reducible assumption | with_reducible apply fenceAnswered_keeps | with_reducible apply keeps_foldl
    | (intro; try dsimp -zeta only) | split)

theorem takeBudgets_keeps {r0 : State} {s : State} (h : Keeps r0 s) : Keeps r0 (takeBudgets s) := keeps_setSeqs h _

theorem becomeStem_keeps {r0 : State} {e : Nat} {s : State} (hk : Keeps r0 s) : Keeps r0 (becomeStem e s) := by
  unfold becomeStem
  extract_lets was before over_ ms s1
  have h1 : Keeps r0 s1 := keeps_ite hk (sendConfirm_keeps hk)
  clear_value s1
  split
  rename_i e1
  have h2 := keeps_ite (c := over_ = true) (takeBudgets_keeps (keeps_snd e1 (State_draw_keeps h1))) (keeps_snd e1 (State_draw_keeps h1))
  refine joined_keeps ?_
  exact keeps_ite
    (dropMissing_keeps (keeps_foldl (fun _ _ h => vineSendIn_keeps h) _ (newEpoch_keeps h2)))
    (renewFences_keeps (voidShares_keeps (keeps_foldl (fun _ _ h => vineSendIn_keeps h) _ (newEpoch_keeps h2))))

theorem quorumTimeout_keeps {r0 : State} {s : State} (hk : Keeps r0 s) : Keeps r0 (quorumTimeout s) := by
  unfold quorumTimeout
  split
  · extract_lets s1 base
    have h1 : Keeps r0 s1 := State_advanceTo_keeps hk
    exact keeps_ite (becomeStem_keeps h1) (keeps_setVine h1 _)
  · exact hk

theorem acceptConfirm_keeps {r0 : State} {m : VineMsg} {members : List Nat} {size : Nat} {s : State} (h : Keeps r0
    s) : Keeps r0 (acceptConfirm m members size s) := by
  unfold acceptConfirm
  repeat' (first
    | with_reducible assumption | with_reducible apply keeps_setVine | with_reducible apply vineSendIn_keeps | extract_lets)

theorem confirmArrive_keeps {r0 : State} {m : VineMsg} {members : List Nat} {size : Nat} {s : State} (h : Keeps r0
    s) : Keeps r0 (confirmArrive m members size s) := by
  unfold confirmArrive
  repeat' (first
    | with_reducible assumption | with_reducible apply keeps_setVine | with_reducible apply leaveGroup_keeps
    | with_reducible apply acceptConfirm_keeps | extract_lets | split)

theorem ackArrive_keeps {r0 : State} {m : VineMsg} {mirror : List Nat} {s : State} (h : Keeps r0 s) : Keeps r0 (ackArrive
    m mirror s) := by
  unfold ackArrive
  repeat' (first
    | with_reducible assumption | with_reducible apply keeps_setVine | with_reducible apply takeMirror_keeps | extract_lets | split)

theorem sendLeave_keeps {r0 : State} {s : State} (h : Keeps r0 s) : Keeps r0 (sendLeave s) := by
  unfold sendLeave
  repeat' (first
    | with_reducible assumption | with_reducible apply keeps_setVine | with_reducible apply vineSend_keeps | extract_lets)

theorem keyArrive_keeps {r0 : State} {m : VineMsg} {secret : List Byte} {s : State} (hk : Keeps r0 s) : Keeps r0 (keyArrive m secret s) := by
  unfold keyArrive
  refine keeps_ite hk ?_
  extract_lets moved s1 s2 s3 v0 s4 s5
  have h1 : Keeps r0 s1 := keeps_ite (settleGroup_keeps hk) hk
  have h2 : Keeps r0 s2 := keeps_ite (discardWork_keeps h1) h1
  have h3 : Keeps r0 s3 := newEpoch_keeps h2
  have h4 : Keeps r0 s4 := keeps_ite (renewFences_keeps (keeps_setVine h3 _)) h3
  have h5 : Keeps r0 s5 := joined_keeps h4
  exact keeps_ite (sendLeave_keeps h5) h5

theorem sendLive_keeps {r0 : State} {s : State} (h : Keeps r0 s) : Keeps r0 (sendLive s) := by
  unfold sendLive
  repeat' (first
    | with_reducible assumption | with_reducible apply keeps_setVine | with_reducible apply vineSend_keeps
    | with_reducible apply vineSendAll_keeps | extract_lets | split)

theorem idle_keeps {r0 : State} {s : State} (h : Keeps r0 s) : Keeps r0 (idle s) := by
  unfold idle
  repeat' (first
    | with_reducible assumption | with_reducible apply State_tick_keeps | with_reducible apply sendLive_keeps)

theorem endReplica_keeps {r0 : State} {m : Nat} {s : State} (h : Keeps r0 s) : Keeps r0 (endReplica m s) := by
  unfold endReplica
  repeat' (first
    | with_reducible assumption | with_reducible apply keeps_setVine | with_reducible apply State_modSeq_keeps
    | with_reducible apply coolMember_keeps | with_reducible apply nullBoundary_keeps
    | with_reducible apply fenceAnswered_keeps | with_reducible apply failCollect_keeps
    | with_reducible apply failFills_keeps | with_reducible apply dropChunk_keeps | with_reducible apply keeps_foldl
    | (intro; try dsimp -zeta only) | extract_lets | split)

theorem confirmWithout_keeps {r0 : State} {m : Nat} {s : State} (h : Keeps r0 s) : Keeps r0 (confirmWithout m s) := by
  unfold confirmWithout
  repeat' (first
    | with_reducible assumption | with_reducible apply propose_keeps)

theorem memberExpire_keeps {r0 : State} {m : Nat} {s : State} (hk : Keeps r0 s) : Keeps r0 (memberExpire m s) := by
  unfold memberExpire
  refine keeps_ite hk ?_
  exact confirmWithout_keeps (endReplica_keeps (msix_keeps (vineError_keeps (State_advanceTo_keeps hk))))

theorem stemExpire_keeps {r0 : State} {s : State} (h : Keeps r0 s) : Keeps r0 (stemExpire s) := by
  unfold stemExpire
  repeat' (first
    | with_reducible assumption | with_reducible apply State_advanceTo_keeps | with_reducible apply msix_keeps
    | with_reducible apply vineError_keeps | with_reducible apply startElection_keeps | extract_lets | split)

theorem stemDemote_keeps {r0 : State} {s : State} (h : Keeps r0 s) : Keeps r0 (stemDemote s) := by
  unfold stemDemote
  repeat' (first
    | with_reducible assumption | with_reducible apply keeps_setVine | with_reducible apply State_advanceTo_keeps
    | with_reducible apply settleGroup_keeps | extract_lets | split)

theorem vineJoin_keeps {r0 : State} {src : Src} {w : Nat} {t : Taken} {s : State} (h : Keeps r0 s) : Keeps r0 (vineJoin
    src w t s) := by
  unfold vineJoin
  repeat' (first
    | with_reducible assumption | with_reducible apply keeps_setVine | with_reducible apply complete_keeps
    | with_reducible apply startRecord_keeps | with_reducible apply checked_keeps | with_reducible apply readSource_keeps
    | with_reducible apply startElection_keeps | (intro; try dsimp -zeta only) | extract_lets | split
    | refine keeps_snd (by assumption) ?_)

theorem joinTimeout_keeps {r0 : State} {s : State} (h : Keeps r0 s) : Keeps r0 (joinTimeout s) := by
  unfold joinTimeout
  repeat' (first
    | with_reducible assumption | with_reducible apply State_advanceTo_keeps | with_reducible apply leaveGroup_keeps | split)

theorem vineRole_keeps {r0 : State} {f : Taken → State → State} {w : Nat} {t : Taken} {s : State} (h : Keeps r0 s) (hf0 :
    ∀ x0 y, Keeps r0 y → Keeps r0 (f x0 y)) : Keeps r0 (vineRole f w t s) := by
  unfold vineRole
  repeat' (first
    | with_reducible assumption | with_reducible apply hf0 | with_reducible apply complete_keeps | with_reducible apply checked_keeps
    | (intro; try dsimp -zeta only) | extract_lets)

theorem beginLeave_keeps {r0 : State} {w : Nat} {n : Nat} {s : State} (h : Keeps r0 s) : Keeps r0 (beginLeave w n s) := by
  unfold beginLeave
  repeat' (first
    | with_reducible assumption | with_reducible apply keeps_setVine | with_reducible apply startRecord_keeps
    | with_reducible apply startElection_keeps | with_reducible apply leaveGroup_keeps
    | with_reducible apply sendLeave_keeps | extract_lets | split)

theorem leaveArrive_keeps {r0 : State} {m : Nat} {s : State} (h : Keeps r0 s) : Keeps r0 (leaveArrive m s) := by
  unfold leaveArrive
  repeat' (first
    | with_reducible assumption | with_reducible apply endReplica_keeps | with_reducible apply confirmWithout_keeps | split)

theorem lostStep_keeps {r0 : State} {c : Content} {s : State} (h : Keeps r0 s) : Keeps r0 (lostStep c s) := by
  unfold lostStep
  repeat' (first
    | with_reducible assumption | with_reducible apply vineSend_keeps | with_reducible apply faultArrive_keeps
    | with_reducible apply dropShare_keeps | split)

theorem fromStem_keeps {r0 : State} {m : VineMsg} {f : State → State} {s : State} (h : Keeps r0 s) (hf0 : ∀ y, Keeps r0 y
    → Keeps r0 (f y)) : Keeps r0 (fromStem m f s) := by
  unfold fromStem
  repeat' (first
    | with_reducible assumption | with_reducible apply hf0 | split)

theorem atStem_keeps {r0 : State} {f : State → State} {s : State} (h : Keeps r0 s) (hf0 : ∀ y, Keeps r0 y → Keeps r0 (f
    y)) : Keeps r0 (atStem f s) := by
  unfold atStem
  repeat' (first
    | with_reducible assumption | with_reducible apply hf0 | split)

theorem actArrive_keeps {r0 : State} {id : Nat} {hidden : Nat} {wide : Nat} {d : List Byte} {s : State} (h : Keeps r0
    s) : Keeps r0 (actArrive id hidden wide d s) := by
  unfold actArrive
  repeat' (first
    | with_reducible assumption | with_reducible apply onShare_keeps | (intro; try dsimp -zeta only) | extract_lets)

theorem faultReport_keeps {r0 : State} {m : VineMsg} {id : Nat} {status : Nat} {layer : Nat} {stack : Nat} {s : State}
    (hk : Keeps r0 s) : Keeps r0 (faultReport m id status layer stack s) := by
  unfold faultReport
  repeat' (first
    | with_reducible assumption | with_reducible apply faultArrive_keeps | with_reducible apply kvArrive_keeps
    | with_reducible apply failCollect_keeps | split)

theorem commitShare_keeps {r0 : State} {id : Nat} {toks : List SlotToken} {s : State} (h : Keeps r0 s) : Keeps r0
    (commitShare id toks s) := by
  unfold commitShare
  repeat' (first
    | with_reducible assumption | with_reducible apply commitSeq_keeps | with_reducible apply dropShare_keeps
    | with_reducible apply keeps_foldl | (intro; try dsimp -zeta only) | extract_lets | split)

theorem reserveAll_keeps {r0 : State} {s : State} (hk : Keeps r0 s) : Keeps r0 (reserveAll s).2 := by
  unfold reserveAll
  refine keeps_foldl_snd ?_ _ hk
  intro a e ha
  have hr := reserveNext_keeps (q := e.1) ha
  split
  · rename_i e1; exact hr _ e1
  · exact ha

theorem applyCommit_keeps {r0 : State} {ordinal : Nat} {stamp : Nat} {id : Nat} {toks : List SlotToken} {charges : List
    (Nat × Nat)} {s : State} (hk : Keeps r0 s) : Keeps r0 (applyCommit ordinal stamp id toks charges s) := by
  unfold applyCommit
  repeat' (first
    | with_reducible assumption | with_reducible apply keeps_setSeqs | with_reducible apply keeps_setVine
    | with_reducible apply vineSend_keeps | with_reducible apply releaseMarked_keeps
    | with_reducible apply chargeToken_keeps | with_reducible apply applyBudget_keeps
    | with_reducible apply applyEarly_keeps | with_reducible apply applyLate_keeps | with_reducible apply endCloses_keeps
    | with_reducible apply countBoundary_keeps | with_reducible apply reportHeat_keeps
    | with_reducible apply endModels_keeps | with_reducible apply commitShare_keeps
    | with_reducible apply reserveAll_keeps | with_reducible apply keeps_foldl | (intro; try dsimp -zeta only)
    | extract_lets | split | dsimp +zetaDelta only)

theorem stopArrive_keeps {r0 : State} {m : Nat} {stack : Nat} {s : State} (h : Keeps r0 s) : Keeps r0 (stopArrive m stack s) := by
  unfold stopArrive
  repeat' (first
    | with_reducible assumption | with_reducible apply nullBoundary_keeps | with_reducible apply failCollect_keeps
    | with_reducible apply keeps_foldl | (intro; try dsimp -zeta only) | extract_lets | split)

theorem lostBulk_keeps {r0 : State} {port : Nat} {c : Content} {s : State} (h : Keeps r0 s) : Keeps r0 (lostBulk port c s) := by
  unfold lostBulk
  repeat' (first
    | with_reducible assumption | with_reducible apply failCollect_keeps | split)

end Sys2Proof.Laws
end

