-- ==== Sys2Proof/Laws/FramesRest.lean ====
section
/-! SUPPORT. One lemma per operation, for memory records, pins, tables, windows and bring-up: between its state and the state it answers,
`Keeps` holds. -/

open Sys2Proof Sys2Proof.Machine

namespace Sys2Proof.Laws

theorem spend_keeps {r0 : State} {us : Nat} {s : State} (hk : Keeps r0 s) : Keeps r0 (spend us s) := by
  unfold spend
  repeat' (first
    | with_reducible assumption | with_reducible apply State_tick_keeps)

theorem trainStack_keeps {r0 : State} {i : Nat} {t : StackTraining} {s : State} (hk : Keeps r0 s) : Keeps r0 (trainStack i
    t s) := by
  unfold trainStack
  repeat' (first
    | with_reducible assumption | with_reducible apply State_modStack_keeps | with_reducible apply stackTemp_keeps
    | (intro; try dsimp -zeta only) | extract_lets | split)

theorem linkVine_keeps {r0 : State} {p : Nat} {st : Nat} {s : State} (hk : Keeps r0 s) : Keeps r0 (linkVine p st s) := by
  unfold linkVine
  repeat' (first
    | with_reducible assumption | with_reducible apply State_modVinePort_keeps | with_reducible apply vineError_keeps
    | (intro; try dsimp -zeta only) | split)

theorem linkPunnet_keeps {r0 : State} {p : Nat} {x : Nat × Nat × PunnetFacts} {s : State} (hk : Keeps r0 s) : Keeps r0
    (linkPunnet p x s) := by
  unfold linkPunnet
  repeat' (first
    | with_reducible assumption | with_reducible apply noteSigFail_keeps | with_reducible apply punError_keeps
    | with_reducible apply bindPort_keeps | with_reducible apply punnetInsert_keeps | extract_lets | split)

theorem bringLinks_keeps {r0 : State} {vineStates : List Nat} {punnets : List (Option (Nat × Nat × PunnetFacts))} {us :
    Nat} {s : State} (hk : Keeps r0 s) : Keeps r0 (bringLinks vineStates punnets us s) := by
  unfold bringLinks
  repeat' (first
    | with_reducible assumption | with_reducible apply keeps_setBoot | with_reducible apply spend_keeps
    | with_reducible apply linkVine_keeps | with_reducible apply linkPunnet_keeps | with_reducible apply keeps_foldl
    | (intro; try dsimp -zeta only) | rfl | extract_lets | split)

theorem channelFails_keeps {r0 : State} {i : Nat} {c : Nat} {s : State} (hk : Keeps r0 s) : Keeps r0 (channelFails i c s) := by
  unfold channelFails
  repeat' (first
    | with_reducible assumption | with_reducible apply State_modStack_keeps | (intro; try dsimp -zeta only) | extract_lets)

theorem copyLines_keeps {r0 : State} : ∀ {n a d : Nat} {s : State} (_hk : Keeps r0 s), Keeps r0 (copyLines a d n s).2
  | 0, _, _, _, h => h
  | n + 1, a, d, s, h => by
    have h1 : Keeps r0 (moduleRead (ledgerReader 1) a 64 s).2 := moduleRead_keeps h
    unfold copyLines
    refine keeps_ite_snd (fun _ => h) (fun _ => ?_)
    generalize moduleRead (ledgerReader 1) a 64 s = x at h1 ⊢
    obtain ⟨o, s1⟩ := x
    dsimp only at h1 ⊢
    split
    · exact h1
    · have h2 : Keeps r0 (writeMem 1 d o.bytes s1).2 := writeMem_keeps h1
      split
      · exact h1
      · rename_i e
        have h3 := copyLines_keeps (n := n) (a := a + 64) (d := d + 64) (keeps_snd e h2)
        generalize copyLines (a + 64) (d + 64) n _ = y at h3 ⊢
        exact h3

theorem writeLines_keeps {r0 : State} : ∀ {ds : List (List Byte)} {d : Nat} {s : State} (_hk : Keeps r0 s), Keeps r0 (writeLines d ds s).2
  | [], _, _, h => h
  | l :: ls, d, s, h => by
    have h2 : Keeps r0 (writeMem 1 d l s).2 := writeMem_keeps h
    unfold writeLines
    refine keeps_ite_snd (fun _ => h) (fun _ => ?_)
    split
    · exact h
    · rename_i e
      have h3 := writeLines_keeps (ds := ls) (d := d + 64) (keeps_snd e h2)
      generalize writeLines (d + 64) ls _ = y at h3 ⊢
      exact h3

theorem bytesDone_keeps {r0 : State} {w : Nat} {t : Taken} {k : Nat} {n : Nat} {s : State} (h : Keeps r0 s) : Keeps r0
    (bytesDone w t k n s) := by
  unfold bytesDone
  repeat' (first
    | with_reducible assumption | with_reducible apply complete_keeps | with_reducible apply modRecord_keeps
    | (intro; try dsimp -zeta only) | extract_lets | split)

theorem memCopy_keeps {r0 : State} {src : Src} {w : Nat} {t : Taken} {s : State} (hk : Keeps r0 s) : Keeps r0 (memCopy src w t s) := by
  unfold memCopy
  extract_lets n p d
  refine keeps_ite ?_ ?_
  · have h1 := copyLines_keeps (a := t.at 0x20 8 + p) (d := d) (n := (n - p) / 64) (addErrs_keeps (errs := src.errs) hk)
    generalize copyLines _ _ _ _ = x at h1 ⊢
    obtain ⟨o, s1⟩ := x
    dsimp only at h1 ⊢
    split
    · exact complete_keeps h1
    · exact bytesDone_keeps h1
  · extract_lets a
    split
    · exact complete_keeps (hostRead_keeps hk)
    · extract_lets s1
      have h2 : ∀ ds, Keeps r0 (writeLines d ds s1).2 := fun ds => writeLines_keeps (hostRead_keeps hk)
      generalize chunksOf 64 _ = ds
      have h3 := h2 ds
      generalize writeLines d ds s1 = x at h3 ⊢
      exact bytesDone_keeps h3

theorem memFill_keeps {r0 : State} {w : Nat} {t : Taken} {s : State} (hk : Keeps r0 s) : Keeps r0 (memFill w t s) := by
  unfold memFill
  extract_lets n p line
  have h1 := fun ds => writeLines_keeps (ds := ds) (d := t.at 0x20 8 + p) hk
  generalize List.replicate ((n - p) / 64) line = ds
  have h2 := h1 ds
  generalize writeLines _ ds s = x at h2 ⊢
  exact bytesDone_keeps h2

theorem makeCompute_keeps {r0 : State} {g : Nat} {s : State} (hk : Keeps r0 s) : Keeps r0 (makeCompute g s).2 := by
  unfold makeCompute
  split
  · exact hk
  · have h1 : Keeps r0 (readBursts (plainReader 9) (2048 * g) 2048 s).2 := readBursts_keeps hk
    generalize readBursts (plainReader 9) (2048 * g) 2048 s = x at h1 ⊢
    obtain ⟨o, s1⟩ := x
    dsimp only at h1 ⊢
    split
    · exact h1
    · exact rebuildBlocks_keeps (keeps_setMem (keeps_foldl (fun _ _ h => storeBurst_keeps h) _ (recallRange_keeps h1)) (fun x => x))

theorem convertAll_keeps {r0 : State} {f : Nat → State → Option Nat × State} (hf : ∀ g s, Keeps r0 s → Keeps r0 (f g s).2) :
    ∀ {gs : List Nat} {s : State} (_hk : Keeps r0 s), Keeps r0 (convertAll f gs s).2
  | [], _, h => h
  | g :: gs, s, h => by
    have h2 := hf g s h
    unfold convertAll
    split
    · rename_i e; exact keeps_snd e h2
    · rename_i e
      have h3 := convertAll_keeps hf (gs := gs) (keeps_snd e h2)
      generalize convertAll f gs _ = y at h3 ⊢
      exact h3

theorem convertRange_keeps {r0 : State} {f : Nat → State → Option Nat × State} {w : Nat} {t : Taken} {s : State} (hk : Keeps r0 s)
    (hf : ∀ g s, Keeps r0 s → Keeps r0 (f g s).2) : Keeps r0 (convertRange f w t s) := by
  unfold convertRange
  have h1 := convertAll_keeps hf (gs := t.granules) hk
  generalize convertAll f t.granules s = x at h1 ⊢
  obtain ⟨r, s1⟩ := x
  dsimp only at h1 ⊢
  split
  · exact complete_keeps h1
  · exact complete_keeps h1

theorem regionCompute_keeps {r0 : State} {errs : List SymErr} {w : Nat} {t : Taken} {s : State} (hk : Keeps r0 s) : Keeps
    r0 (regionCompute errs w t s) := by
  unfold regionCompute
  repeat' (first
    | with_reducible assumption | with_reducible apply checked_keeps | with_reducible apply addErrs_keeps
    | with_reducible apply makeCompute_keeps | with_reducible apply convertRange_keeps | (intro; try dsimp -zeta only))

theorem setMirror_keeps {r0 : State} {errs : List SymErr} {w : Nat} {t : Taken} {s : State} (hk : Keeps r0 s) :
    Keeps r0 (setMirror errs w t s) := by
  unfold setMirror
  refine checked_keeps hk ?_
  intro s0 h0
  have h1 := copyLines_keeps (a := t.base) (d := t.at 0x38 8) (n := t.len / 64) (addErrs_keeps (errs := errs) h0)
  generalize copyLines _ _ _ _ = x at h1 ⊢
  obtain ⟨o, s1⟩ := x
  dsimp only at h1 ⊢
  split
  · exact complete_keeps h1
  · exact keeps_ite h0 (complete_keeps (keeps_setMem h1 (fun x => x)))

theorem awaitHost_keeps {r0 : State} {a : Nat} {n : Nat} {s : State} (h : Keeps r0 s) : Keeps r0 (awaitHost a n s) := by
  unfold awaitHost
  repeat' (first
    | with_reducible assumption | with_reducible apply logErr_keeps | with_reducible apply State_setQuar_keeps
    | with_reducible apply keeps_foldl | (intro; try dsimp -zeta only) | extract_lets | split)

theorem clearMirror_keeps {r0 : State} {w : Nat} {t : Taken} {s : State} (hk : Keeps r0 s) : Keeps r0 (clearMirror w t s) := by
  unfold clearMirror
  repeat' (first
    | with_reducible assumption | with_reducible apply keeps_setMem | with_reducible apply complete_keeps
    | with_reducible apply checked_keeps | with_reducible apply awaitHost_keeps | exact fun x => x
    | (show Mem.wf _ = true; simp_all [Mem.wf, twf_tset, twf_tsets, twf_terase, twf_filter])
    | (intro; try dsimp -zeta only) | extract_lets)

theorem checkGranule_keeps {r0 : State} : ∀ {bs : List Nat} {s : State} (_hk : Keeps r0 s), Keeps r0 (checkGranule bs s).2
  | [], _, h => h
  | b :: bs, s, h => by
    have h2 : Keeps r0 (ledgerCheck 2 b (forgetChecked b s)).2 := ledgerCheck_keeps (forgetChecked_keeps h)
    unfold checkGranule
    split
    · rename_i e; exact checkGranule_keeps (keeps_snd e h2)
    · rename_i e; exact keeps_snd e h2

theorem storeSealed_keeps {r0 : State} {g : Nat} {s : State} (hk : Keeps r0 s) : Keeps r0 (storeSealed g s) := by
  have h2 : Keeps r0 ((granuleBlocks g).foldl (fun s b => (forgetChecked b s).setEntry b LedgerEntry.none) s) :=
    keeps_foldl (fun _ _ h => State_setEntry_keeps (forgetChecked_keeps h)) _ hk
  have hf : ∀ (l : List (List Byte)) (s2 : State), Keeps r0 s2 →
    Keeps r0 (l.zipIdx.foldl (fun s e => storeBurst (2048 * g + e.2) e.1 s) (s2.setMem { s2.mem with compute := serase g s2.mem.compute })) := by
    intro l s2 h2
    exact keeps_foldl (fun _ _ h => storeBurst_keeps h) _ (keeps_setMem h2 (fun x => x))
  exact hf _ _ h2

theorem sealGranule_keeps {r0 : State} {g : Nat} {s : State} (hk : Keeps r0 s) : Keeps r0 (sealGranule g s).2 := by
  unfold sealGranule
  split
  · exact hk
  · have h1 : Keeps r0 (checkGranule (granuleBlocks g) s).2 := checkGranule_keeps hk
    split
    · rename_i e; exact keeps_snd e h1
    · rename_i e
      exact storeSealed_keeps (keeps_snd e h1)

theorem regionSeal_keeps {r0 : State} {errs : List SymErr} {w : Nat} {t : Taken} {s : State} (hk : Keeps r0 s) : Keeps r0
    (regionSeal errs w t s) := by
  unfold regionSeal
  repeat' (first
    | with_reducible assumption | with_reducible apply checked_keeps | with_reducible apply addErrs_keeps
    | with_reducible apply convertRange_keeps | with_reducible apply sealGranule_keeps | (intro; try dsimp -zeta only)
    | extract_lets)

theorem scrubBurst_keeps {r0 : State} {x : Swept × State} {b : Nat} (hk : Keeps r0 x.2) : Keeps r0 (scrubBurst x b).2 := by
  obtain ⟨r, s0⟩ := x
  unfold scrubBurst
  dsimp only at hk ⊢
  have h1 : Keeps r0 (symRead scrubReader b (recallGranule (b / 128) s0)).2 := symRead_keeps (recallGranule_keeps hk)
  split
  · rename_i e; exact keeps_snd e h1
  · rename_i e
    have h2 := keeps_snd e h1
    exact keeps_ite_snd (fun _ => h2) (fun _ => h2)

theorem scrubBlock_keeps {r0 : State} {x : Swept × State} {b : Nat} (hk : Keeps r0 x.2) : Keeps r0 (scrubBlock x b).2 := by
  obtain ⟨r, s⟩ := x
  unfold scrubBlock
  dsimp only at hk ⊢
  have h1 : Keeps r0 (ledgerCheck 1 b (forgetChecked b s)).2 := ledgerCheck_keeps (forgetChecked_keeps hk)
  refine keeps_ite_snd (fun _ => hk) (fun _ => keeps_ite_snd (fun _ => quarantine_keeps hk) (fun _ => ?_))
  split
  · rename_i e; exact keeps_snd e h1
  · rename_i e; exact keeps_setMem (keeps_snd e h1) (fun x => x)

theorem sweepBlocks_keeps {r0 : State} {bs : List Nat} {s : State} (hk : Keeps r0 s) : Keeps r0 (sweepBlocks bs s).2 := by
  unfold sweepBlocks
  refine keeps_foldl_snd ?_ _ hk
  intro x b hx
  split
  · exact scrubBlock_keeps hx
  · exact keeps_foldl_snd (fun _ _ h => scrubBurst_keeps h) _ hx

theorem scrub_keeps {r0 : State} {errs : List SymErr} {w : Nat} {t : Taken} {s : State} (hk : Keeps r0 s) : Keeps r0 (scrub errs w t s) := by
  unfold scrub
  have h1 := fun bs => sweepBlocks_keeps (bs := bs) (addErrs_keeps (errs := errs) hk)
  split
  rename_i e
  exact complete_keeps (keeps_snd e (h1 _))

theorem sweepProtected_keeps {r0 : State} {errs : List SymErr} {s : State} (hk : Keeps r0 s) : Keeps r0 (sweepProtected errs s) := by
  unfold sweepProtected
  refine keeps_ite hk ?_
  extract_lets s1 s2 bs s3
  have h1 : Keeps r0 s2 := recallRange_keeps (addErrs_keeps hk)
  have h2 : Keeps r0 s3 := keeps_foldl_snd (fun x b hx => keeps_ite_snd (fun _ => hx) (fun _ => scrubBurst_keeps hx)) _ h1
  exact keeps_setMem h2 (fun x => x)

theorem sweepCompute_keeps {r0 : State} {errs : List SymErr} {s : State} (hk : Keeps r0 s) : Keeps r0 (sweepCompute errs s) := by
  unfold sweepCompute
  refine keeps_ite hk ?_
  refine keeps_foldl_snd ?_ _ (addErrs_keeps hk)
  intro x b hx
  split
  · exact hx
  · exact keeps_foldl_snd (fun _ _ h => scrubBlock_keeps h) _ hx

theorem mgmtWrite_keeps {r0 : State} {off : Nat} {v : Nat} {s : State} (h : Keeps r0 s) : Keeps r0 (mgmtWrite off v s) := by
  unfold mgmtWrite
  repeat' (first
    | with_reducible assumption | with_reducible apply keeps_setPwr | extract_lets | split)

theorem tapTakes_keeps {r0 : State} {i : TapInstr} {s : State} (h : Keeps r0 s) : Keeps r0 (tapTakes i s) := by
  unfold tapTakes
  repeat' (first
    | with_reducible assumption | with_reducible apply keeps_setBoot | rfl | extract_lets | split)

theorem tapShift_keeps {r0 : State} {tdi : Bool} {s : State} (h : Keeps r0 s) : Keeps r0 (tapShift tdi s) := by
  unfold tapShift
  repeat' (first
    | with_reducible assumption | with_reducible apply keeps_setBoot | rfl | extract_lets | split)

theorem setBank_keeps {r0 : State} {b : Nat} {v : ZestBank} {s : State} (h : Keeps r0 s) : Keeps r0 (setBank b v s) := by
  unfold setBank
  repeat' (first
    | with_reducible assumption | with_reducible apply keeps_setZest | extract_lets)

theorem withTableSource_keeps {r0 : State} {src : Src} {n : Nat} {w : Nat} {t : Taken} {go : List Byte → State → State} {s
    : State} (h : Keeps r0 s) (hf0 : ∀ x0 y, Keeps r0 y → Keeps r0 (go x0 y)) : Keeps r0 (withTableSource src n w t go s) := by
  unfold withTableSource
  repeat' (first
    | with_reducible assumption | with_reducible apply hf0 | with_reducible apply complete_keeps | with_reducible apply readSource_keeps
    | extract_lets | split | refine keeps_snd (by assumption) ?_)

theorem tableLoad_keeps {r0 : State} {src : Src} {w : Nat} {t : Taken} {s : State} (h : Keeps r0 s) : Keeps r0 (tableLoad
    src w t s) := by
  unfold tableLoad
  repeat' (first
    | with_reducible assumption | with_reducible apply complete_keeps | with_reducible apply setBank_keeps
    | with_reducible apply withTableSource_keeps | (intro; try dsimp -zeta only) | extract_lets | split)

theorem programLoad_keeps {r0 : State} {src : Src} {w : Nat} {t : Taken} {s : State} (h : Keeps r0 s) : Keeps r0
    (programLoad src w t s) := by
  unfold programLoad
  repeat' (first
    | with_reducible assumption | with_reducible apply complete_keeps | with_reducible apply setBank_keeps
    | with_reducible apply withTableSource_keeps | (intro; try dsimp -zeta only) | extract_lets | split)

theorem gainLoad_keeps {r0 : State} {src : Src} {w : Nat} {t : Taken} {s : State} (h : Keeps r0 s) : Keeps r0 (gainLoad
    src w t s) := by
  unfold gainLoad
  repeat' (first
    | with_reducible assumption | with_reducible apply State_modModel_keeps | with_reducible apply complete_keeps
    | with_reducible apply checked_keeps | with_reducible apply withTableSource_keeps | (intro; try dsimp -zeta only)
    | extract_lets | split)

theorem swapProceed_keeps {r0 : State} {w : Nat} {t : Taken} {s : State} (h : Keeps r0 s) : Keeps r0 (swapProceed w t s) := by
  unfold swapProceed
  repeat' (first
    | with_reducible assumption | with_reducible apply keeps_setZest | with_reducible apply complete_keeps
    | with_reducible apply startRecord_keeps | extract_lets | split)

theorem tableSwap_keeps {r0 : State} {w : Nat} {t : Taken} {s : State} (h : Keeps r0 s) : Keeps r0 (tableSwap w t s) := by
  unfold tableSwap
  repeat' (first
    | with_reducible assumption | with_reducible apply startRecord_keeps | with_reducible apply swapProceed_keeps | split)

theorem swapNext_keeps {r0 : State} {s : State} (h : Keeps r0 s) : Keeps r0 (swapNext s) := by
  unfold swapNext
  repeat' (first
    | with_reducible assumption | with_reducible apply swapProceed_keeps | split)

theorem swapCopy_keeps {r0 : State} {s : State} (h : Keeps r0 s) : Keeps r0 (swapCopy s) := by
  unfold swapCopy
  repeat' (first
    | with_reducible assumption | with_reducible apply keeps_setZest | with_reducible apply complete_keeps
    | with_reducible apply setBank_keeps | extract_lets | split)

theorem setJob_keeps {r0 : State} {i : Nat} {j : ZestJob} {s : State} (h : Keeps r0 s) : Keeps r0 (setJob i j s) := by
  unfold setJob
  repeat' (first
    | with_reducible assumption | with_reducible apply keeps_setZest | extract_lets)

theorem zestStart_keeps {r0 : State} {sec : Nat} {slot : Nat} {in0 : F32} {in1 : F32} {own : OwnReads} {s : State}
    (hk : Keeps r0 s) : Keeps r0 (zestStart sec slot in0 in1 own s) := by
  unfold zestStart
  repeat' (first
    | with_reducible assumption | with_reducible apply keeps_setZest | with_reducible apply noteOwn_keeps
    | with_reducible apply noteCorrected_keeps | with_reducible apply setJob_keeps | extract_lets | split)

theorem zestRun_keeps {r0 : State} {op : Nat} {i : Nat} {s : State} (h : Keeps r0 s) : Keeps r0 (zestRun op i s) := by
  unfold zestRun
  repeat' (first
    | with_reducible assumption | with_reducible apply setJob_keeps | extract_lets | split)

theorem countResult_keeps {r0 : State} {v : F32} {s : State} (h : Keeps r0 s) : Keeps r0 (countResult v s) := by
  unfold countResult
  repeat' (first
    | with_reducible assumption | with_reducible apply keeps_setZest | extract_lets | split)

theorem zestEndAt_keeps {r0 : State} {i : Nat} {s : State} (h : Keeps r0 s) : Keeps r0 (zestEndAt i s) := by
  unfold zestEndAt
  repeat' (first
    | with_reducible assumption | with_reducible apply setJob_keeps | with_reducible apply countResult_keeps | extract_lets | split)

theorem landBytes_keeps {r0 : State} {off : Nat} {data : List Byte} {s : State} (hk : Keeps r0 s) : Keeps r0 (landBytes off data s) := by
  unfold landBytes
  extract_lets w slot s1
  have h1 : Keeps r0 s1 := keeps_bar2 hk (fun h => twf_tsets 0 _ _ h)
  exact keeps_ite (State_modWin_keeps h1) h1

theorem bar2Write_keeps {r0 : State} {off : Nat} {data : List Byte} {s : State} (h : Keeps r0 s) : Keeps r0 (bar2Write off
    data s) := by
  unfold bar2Write
  repeat' (first
    | with_reducible assumption | with_reducible apply State_modWin_keeps | with_reducible apply logErr_keeps
    | with_reducible apply landBytes_keeps | (intro; try dsimp -zeta only) | extract_lets | split)

theorem irqDelay_keeps {r0 : State} {w : Nat} {s : State} (hk : Keeps r0 s) : Keeps r0 (irqDelay w s) := by
  unfold irqDelay
  repeat' (first
    | with_reducible assumption | with_reducible apply State_modWin_keeps | with_reducible apply State_advanceTo_keeps
    | with_reducible apply msix_keeps | (intro; try dsimp -zeta only) | extract_lets | split)

theorem State_withFetchWord_keeps {r0 : State} {s : State} {nbits : Nat} {w : Nat} (hk : Keeps r0 s) : Keeps r0 (State.withFetchWord s nbits w) := by
  unfold State.withFetchWord
  repeat' (first
    | assumption
    | with_reducible apply keeps_foldl
    | with_reducible apply keeps_foldl_snd
    | exact fun x => x
    | (show Mem.wf _ = true; simp_all [Mem.wf, twf_tset, twf_tsets, twf_terase, twf_filter])
    | (intro; try dsimp -zeta only)
    | rfl
    | extract_lets
    | split
    | refine keeps_snd (by assumption) ?_
    | refine keeps_some (by assumption) ?_
    | refine keeps_opt (by assumption) ?_
    | with_reducible apply keeps_getD
    | exact keeps_same hk rfl rfl rfl rfl rfl rfl
    | exact keeps_same ‹Keeps _ _› rfl rfl rfl rfl rfl rfl
    | dsimp +zetaDelta only)

end Sys2Proof.Laws
end

