-- ==== Sys2Proof/Laws/Commands.lean ====
section
/-! SUPPORT. One lemma per command, those of bring-up, of loss of power and those that can make the module FATAL apart: it answers a
next state, and between the two `Keeps` holds. -/

open Sys2Proof Sys2Proof.Machine

namespace Sys2Proof.Laws

theorem execSeqOpen_keeps {r0 : State} {w : Fin 16} {n : U32} {s : State} (h : Keeps r0 s) : Answers r0 (execSeqOpen w n
    s) := by
  refine answers_next ?_
  repeat' (first
    | with_reducible assumption | with_reducible apply inOrder_keeps | with_reducible apply seqOpen_keeps
    | (intro; try dsimp -zeta only))

theorem execSeqAppend_keeps {r0 : State} {w : Fin 16} {n : U32} {src : Src} {s : State} (h : Keeps r0 s) : Answers r0
    (execSeqAppend w n src s) := by
  refine answers_next ?_
  repeat' (first
    | with_reducible assumption | with_reducible apply inOrder_keeps | with_reducible apply seqAppend_keeps
    | (intro; try dsimp -zeta only))

theorem execFillBegin_keeps {r0 : State} {q : Fin 4096} {s : State} (h : Keeps r0 s) : Answers r0 (execFillBegin q s) := by
  refine answers_next ?_
  repeat' (first
    | with_reducible assumption | with_reducible apply whenReleased_keeps | with_reducible apply fillBegin_keeps)

theorem execFillComplete_keeps {r0 : State} {q : Fin 4096} {s : State} (h : Keeps r0 s) : Answers r0 (execFillComplete q
    s) := by
  refine answers_next ?_
  repeat' (first
    | with_reducible assumption | with_reducible apply whenReleased_keeps | with_reducible apply fillComplete_keeps
    | extract_lets)

theorem execSeqCancel_keeps {r0 : State} {w : Fin 16} {n : U32} {s : State} (h : Keeps r0 s) : Answers r0 (execSeqCancel w
    n s) := by
  refine answers_next ?_
  repeat' (first
    | with_reducible assumption | with_reducible apply inOrder_keeps | with_reducible apply seqCancel_keeps
    | (intro; try dsimp -zeta only))

theorem execSeqTrim_keeps {r0 : State} {w : Fin 16} {n : U32} {s : State} (h : Keeps r0 s) : Answers r0 (execSeqTrim w n
    s) := by
  refine answers_next ?_
  repeat' (first
    | with_reducible assumption | with_reducible apply inOrder_keeps | with_reducible apply seqTrim_keeps
    | (intro; try dsimp -zeta only))

theorem execSeqClose_keeps {r0 : State} {w : Fin 16} {n : U32} {s : State} (h : Keeps r0 s) : Answers r0 (execSeqClose w n
    s) := by
  refine answers_next ?_
  repeat' (first
    | with_reducible assumption | with_reducible apply inOrder_keeps | with_reducible apply seqClose_keeps
    | (intro; try dsimp -zeta only))

theorem execSamplerSet_keeps {r0 : State} {w : Fin 16} {n : U32} {s : State} (h : Keeps r0 s) : Answers r0 (execSamplerSet
    w n s) := by
  refine answers_next ?_
  repeat' (first
    | with_reducible assumption | with_reducible apply inOrder_keeps | with_reducible apply samplerSet_keeps
    | (intro; try dsimp -zeta only))

theorem execStopSet_keeps {r0 : State} {w : Fin 16} {n : U32} {src : Src} {s : State} (h : Keeps r0 s) : Answers r0
    (execStopSet w n src s) := by
  refine answers_next ?_
  repeat' (first
    | with_reducible assumption | with_reducible apply inOrder_keeps | with_reducible apply stopSet_keeps
    | (intro; try dsimp -zeta only))

theorem execMaskLoadLoad_keeps {r0 : State} {w : Fin 16} {n : U32} {src : Src} {s : State} (h : Keeps r0 s) : Answers r0
    (execMaskLoadLoad w n src s) := by
  refine answers_next ?_
  repeat' (first
    | with_reducible assumption | with_reducible apply inOrder_keeps | with_reducible apply maskLoad_keeps
    | (intro; try dsimp -zeta only))

theorem execMaskLoadFree_keeps {r0 : State} {w : Fin 16} {n : U32} {s : State} (h : Keeps r0 s) : Answers r0
    (execMaskLoadFree w n s) := by
  refine answers_next ?_
  repeat' (first
    | with_reducible assumption | with_reducible apply onRecord_keeps | with_reducible apply maskFree_keeps
    | (intro; try dsimp -zeta only))

theorem execBudgetSetSet_keeps {r0 : State} {w : Fin 16} {n : U32} {s : State} (h : Keeps r0 s) : Answers r0
    (execBudgetSetSet w n s) := by
  refine answers_next ?_
  repeat' (first
    | with_reducible assumption | with_reducible apply inOrder_keeps | with_reducible apply budgetSet_keeps
    | (intro; try dsimp -zeta only))

theorem execBudgetSetWindow_keeps {r0 : State} {w : Fin 16} {n : U32} {s : State} (h : Keeps r0 s) : Answers r0
    (execBudgetSetWindow w n s) := by
  refine answers_next ?_
  repeat' (first
    | with_reducible assumption | with_reducible apply inOrder_keeps | with_reducible apply budgetWindow_keeps
    | (intro; try dsimp -zeta only))

theorem execBudgetWindowEnd_keeps {r0 : State} {s : State} (h : Keeps r0 s) : Answers r0 (execBudgetWindowEnd s) := by
  refine answers_next ?_
  repeat' (first
    | with_reducible assumption | with_reducible apply State_advanceTo_keeps | with_reducible apply whenReleased_keeps
    | with_reducible apply budgetWindow_keeps | (intro; try dsimp -zeta only))

theorem execPressOpen_keeps {r0 : State} {e : Fin 8} {group : Nat} {tile : Nat} {count : Nat} {rows : Nat} {lenLog2 : Nat}
    {mat : Nat} {col : Nat} {addr : Nat} {s : State} (h : Keeps r0 s) : Answers r0 (execPressOpen e group tile count rows
    lenLog2 mat col addr s) := by
  refine answers_next ?_
  repeat' (first
    | with_reducible assumption | with_reducible apply issuePress_keeps | with_reducible apply whenPowered_keeps
    | (intro; try dsimp -zeta only) | split)

theorem execPressPass_keeps {r0 : State} {e : Fin 8} {group : Nat} {tile : Nat} {count : Nat} {fmt : Nat} {wsrc : Nat}
    {addr : Nat} {errs : List SymErr} {own : OwnReads} {s : State} (h : Keeps r0 s) : Answers r0 (execPressPass e group
    tile count fmt wsrc addr errs own s) := by
  refine answers_next ?_
  repeat' (first
    | with_reducible assumption | with_reducible apply issuePress_keeps | with_reducible apply whenPowered_keeps)

theorem execPressClose_keeps {r0 : State} {e : Fin 8} {group : Nat} {addr : Nat} {own : OwnReads} {s : State} (h : Keeps
    r0 s) : Answers r0 (execPressClose e group addr own s) := by
  refine answers_next ?_
  repeat' (first
    | with_reducible assumption | with_reducible apply issuePress_keeps | with_reducible apply whenPowered_keeps)

theorem execPressDiscard_keeps {r0 : State} {e : Fin 8} {group : Nat} {s : State} (h : Keeps r0 s) : Answers r0
    (execPressDiscard e group s) := by
  refine answers_next ?_
  repeat' (first
    | with_reducible assumption | with_reducible apply issuePress_keeps | with_reducible apply whenPowered_keeps)

theorem execPressSave_keeps {r0 : State} {e : Fin 8} {group : Nat} {addr : Nat} {own : OwnReads} {s : State} (h : Keeps r0
    s) : Answers r0 (execPressSave e group addr own s) := by
  refine answers_next ?_
  repeat' (first
    | with_reducible assumption | with_reducible apply issuePress_keeps | with_reducible apply whenPowered_keeps)

theorem execPressRestore_keeps {r0 : State} {e : Fin 8} {group : Nat} {tile : Nat} {count : Nat} {addr : Nat} {own :
    OwnReads} {s : State} (h : Keeps r0 s) : Answers r0 (execPressRestore e group tile count addr own s) := by
  refine answers_next ?_
  repeat' (first
    | with_reducible assumption | with_reducible apply issuePress_keeps | with_reducible apply whenPowered_keeps
    | (intro; try dsimp -zeta only) | split)

theorem execAssignWindowEnd_keeps {r0 : State} {s : State} (h : Keeps r0 s) : Answers r0 (execAssignWindowEnd s) :=
  answers_next (whenReleased_keeps h (fun _ hy => keeps_ite (edge_keeps hy) (edge_keeps (State_advanceTo_keeps hy))))

theorem execEarlyEdge_keeps {r0 : State} {s : State} (h : Keeps r0 s) : Answers r0 (execEarlyEdge s) :=
  answers_next (whenReleased_keeps h (fun _ hy => keeps_ite (keeps_setSeqs (edge_keeps hy) _) hy))

theorem execPrefixFind_keeps {r0 : State} {w : Fin 16} {n : U32} {src : Src} {s : State} (h : Keeps r0 s) : Answers r0
    (execPrefixFind w n src s) := by
  refine answers_next ?_
  repeat' (first
    | with_reducible assumption | with_reducible apply inOrder_keeps | with_reducible apply prefixFind_keeps
    | (intro; try dsimp -zeta only))

theorem execPrefixPinPin_keeps {r0 : State} {w : Fin 16} {n : U32} {src : Src} {s : State} (h : Keeps r0 s) : Answers r0
    (execPrefixPinPin w n src s) := by
  refine answers_next ?_
  repeat' (first
    | with_reducible assumption | with_reducible apply inOrder_keeps | with_reducible apply prefixPin_keeps
    | (intro; try dsimp -zeta only))

theorem execPrefixPinUnpin_keeps {r0 : State} {w : Fin 16} {n : U32} {src : Src} {s : State} (h : Keeps r0 s) : Answers r0
    (execPrefixPinUnpin w n src s) := by
  refine answers_next ?_
  repeat' (first
    | with_reducible assumption | with_reducible apply inOrder_keeps | with_reducible apply prefixUnpin_keeps
    | (intro; try dsimp -zeta only))

theorem execPipEnd_keeps {r0 : State} {k : Fin 8} {p : Fin 1536} {s : State} (h : Keeps r0 s) : Answers r0 (execPipEnd k p
    s) := by
  refine answers_next ?_
  repeat' (first
    | with_reducible assumption | with_reducible apply pipEnd_keeps | with_reducible apply onPip_keeps
    | (intro; try dsimp -zeta only))

theorem execPipSeta_keeps {r0 : State} {k : Fin 8} {p : Fin 1536} {s : State} (h : Keeps r0 s) : Answers r0 (execPipSeta k
    p s) := by
  refine answers_next ?_
  repeat' (first
    | with_reducible assumption | with_reducible apply State_modPipUnit_keeps | with_reducible apply pipNext_keeps
    | with_reducible apply onPip_keeps | (intro; try dsimp -zeta only))

theorem execPipSetl_keeps {r0 : State} {k : Fin 8} {p : Fin 1536} {s : State} (h : Keeps r0 s) : Answers r0 (execPipSetl k
    p s) := by
  refine answers_next ?_
  repeat' (first
    | with_reducible assumption | with_reducible apply State_modPipUnit_keeps | with_reducible apply pipNext_keeps
    | with_reducible apply onPip_keeps | (intro; try dsimp -zeta only))

theorem execPipLoop_keeps {r0 : State} {k : Fin 8} {p : Fin 1536} {s : State} (h : Keeps r0 s) : Answers r0 (execPipLoop k
    p s) := by
  refine answers_next ?_
  repeat' (first
    | with_reducible assumption | with_reducible apply State_modPipUnit_keeps | with_reducible apply pipNext_keeps
    | with_reducible apply onPip_keeps | (intro; try dsimp -zeta only) | split)

theorem execPipCopy_keeps {r0 : State} {k : Fin 8} {p : Fin 1536} {s : State} (h : Keeps r0 s) : Answers r0 (execPipCopy k
    p s) := by
  refine answers_next ?_
  repeat' (first
    | with_reducible assumption | with_reducible apply onPip_keeps | with_reducible apply rowOp_keeps
    | (intro; try dsimp -zeta only))

theorem execPipFill_keeps {r0 : State} {k : Fin 8} {p : Fin 1536} {s : State} (h : Keeps r0 s) : Answers r0 (execPipFill k
    p s) := by
  refine answers_next ?_
  repeat' (first
    | with_reducible assumption | with_reducible apply onPip_keeps | with_reducible apply rowOp_keeps
    | (intro; try dsimp -zeta only))

theorem execPipAnd_keeps {r0 : State} {k : Fin 8} {p : Fin 1536} {s : State} (h : Keeps r0 s) : Answers r0 (execPipAnd k p
    s) := by
  refine answers_next ?_
  repeat' (first
    | with_reducible assumption | with_reducible apply onPip_keeps | with_reducible apply rowOp_keeps
    | (intro; try dsimp -zeta only))

theorem execPipOr_keeps {r0 : State} {k : Fin 8} {p : Fin 1536} {s : State} (h : Keeps r0 s) : Answers r0 (execPipOr k p
    s) := by
  refine answers_next ?_
  repeat' (first
    | with_reducible assumption | with_reducible apply onPip_keeps | with_reducible apply rowOp_keeps
    | (intro; try dsimp -zeta only))

theorem execPipXor_keeps {r0 : State} {k : Fin 8} {p : Fin 1536} {s : State} (h : Keeps r0 s) : Answers r0 (execPipXor k p
    s) := by
  refine answers_next ?_
  repeat' (first
    | with_reducible assumption | with_reducible apply onPip_keeps | with_reducible apply rowOp_keeps
    | (intro; try dsimp -zeta only))

theorem execPipNot_keeps {r0 : State} {k : Fin 8} {p : Fin 1536} {s : State} (h : Keeps r0 s) : Answers r0 (execPipNot k p
    s) := by
  refine answers_next ?_
  repeat' (first
    | with_reducible assumption | with_reducible apply onPip_keeps | with_reducible apply rowOp_keeps
    | (intro; try dsimp -zeta only))

theorem execPipAdd_keeps {r0 : State} {k : Fin 8} {p : Fin 1536} {s : State} (h : Keeps r0 s) : Answers r0 (execPipAdd k p
    s) := by
  refine answers_next ?_
  repeat' (first
    | with_reducible assumption | with_reducible apply onPip_keeps | with_reducible apply rowOp_keeps
    | (intro; try dsimp -zeta only))

theorem execPipMul_keeps {r0 : State} {k : Fin 8} {p : Fin 1536} {s : State} (h : Keeps r0 s) : Answers r0 (execPipMul k p
    s) := by
  refine answers_next ?_
  repeat' (first
    | with_reducible assumption | with_reducible apply onPip_keeps | with_reducible apply rowOp_keeps
    | (intro; try dsimp -zeta only))

theorem execPipScale_keeps {r0 : State} {k : Fin 8} {p : Fin 1536} {s : State} (h : Keeps r0 s) : Answers r0 (execPipScale
    k p s) := by
  refine answers_next ?_
  repeat' (first
    | with_reducible assumption | with_reducible apply onPip_keeps | with_reducible apply rowOp_keeps
    | (intro; try dsimp -zeta only))

theorem execPipStat_keeps {r0 : State} {k : Fin 8} {p : Fin 1536} {s : State} (h : Keeps r0 s) : Answers r0 (execPipStat k
    p s) := by
  refine answers_next ?_
  repeat' (first | with_reducible assumption | with_reducible apply onPip_keeps | with_reducible apply pipStat_keeps)

theorem execPipNorm_keeps {r0 : State} {k : Fin 8} {p : Fin 1536} {s : State} (h : Keeps r0 s) : Answers r0 (execPipNorm k
    p s) := by
  refine answers_next ?_
  repeat' (first | with_reducible assumption | with_reducible apply pipNorm_keeps | with_reducible apply onPip_keeps)

theorem execPipGemv_keeps {r0 : State} {k : Fin 8} {p : Fin 1536} {s : State} (h : Keeps r0 s) : Answers r0 (execPipGemv k
    p s) := by
  refine answers_next ?_
  repeat' (first | with_reducible assumption | with_reducible apply onPip_keeps | with_reducible apply pipGemv_keeps)

theorem execPipClr_keeps {r0 : State} {k : Fin 8} {p : Fin 1536} {s : State} (h : Keeps r0 s) : Answers r0 (execPipClr k p
    s) := by
  refine answers_next ?_
  repeat' (first
    | with_reducible assumption | with_reducible apply State_modPipUnit_keeps | with_reducible apply pipNext_keeps
    | with_reducible apply onPip_keeps | (intro; try dsimp -zeta only))

theorem execPipReduce_keeps {r0 : State} {k : Fin 8} {p : Fin 1536} {s : State} (h : Keeps r0 s) : Answers r0
    (execPipReduce k p s) := by
  refine answers_next ?_
  repeat' (first | with_reducible assumption | with_reducible apply pipReduce_keeps | with_reducible apply onPip_keeps)

theorem execBiasToHost_keeps {r0 : State} {s : State} (h : Keeps r0 s) : Answers r0 (execBiasToHost s) := by
  refine answers_next ?_
  repeat' (first | with_reducible assumption | with_reducible apply hostRegWrite_keeps)

theorem execBiasToDevice_keeps {r0 : State} {s : State} (h : Keeps r0 s) : Answers r0 (execBiasToDevice s) := by
  refine answers_next ?_
  repeat' (first | with_reducible assumption | with_reducible apply hostRegWrite_keeps)

theorem execBiasComplete_keeps {r0 : State} {s : State} (h : Keeps r0 s) : Answers r0 (execBiasComplete s) := by
  refine answers_next ?_
  repeat' (first
    | with_reducible assumption | with_reducible apply whenReleased_keeps | with_reducible apply biasDone_keeps)

theorem execHdmDecoderCommit_keeps {r0 : State} {d : Fin 4} {commit : Bool} {hpaBase : Nat} {size : Nat} {ways : Nat}
    {gran : Nat} {dpaSkip : Nat} {s : State} (h : Keeps r0 s) : Answers r0 (execHdmDecoderCommit d commit hpaBase size
    ways gran dpaSkip s) := by
  refine answers_next ?_
  repeat' (first | with_reducible assumption | with_reducible apply decoderCommit_keeps | split)

theorem execCxlMemRead_keeps {r0 : State} {hpa : Nat} {errs : List SymErr} {s : State} (h : Keeps r0 s) : Answers r0
    (execCxlMemRead hpa errs s) := by
  refine answers_next ?_
  repeat' (first
    | with_reducible assumption | with_reducible apply addErrs_keeps | with_reducible apply cxlAccess_keeps
    | with_reducible apply onLine_keeps | (intro; try dsimp -zeta only))

theorem execCxlMemWrite_keeps {r0 : State} {hpa : Nat} {data : List Byte} {poison : Bool} {s : State} (h : Keeps r0 s) :
    Answers r0 (execCxlMemWrite hpa data poison s) := by
  refine answers_next ?_
  repeat' (first
    | with_reducible assumption | with_reducible apply cxlAccess_keeps | with_reducible apply onLine_keeps
    | (intro; try dsimp -zeta only))

theorem execSnoopResponse_keeps {r0 : State} {line : Nat} {s : State} (h : Keeps r0 s) : Answers r0 (execSnoopResponse
    line s) := by
  refine answers_next ?_
  repeat' (first | with_reducible assumption | with_reducible apply send_keeps | split)

theorem execCollectBroadcast_keeps {r0 : State} {w : Fin 16} {n : U32} {errs : List SymErr} {s : State} (h : Keeps r0 s) :
    Answers r0 (execCollectBroadcast w n errs s) := by
  refine answers_next ?_
  repeat' (first | with_reducible assumption | with_reducible apply onCollect_keeps)

theorem execCollectSum_keeps {r0 : State} {w : Fin 16} {n : U32} {errs : List SymErr} {s : State} (h : Keeps r0 s) :
    Answers r0 (execCollectSum w n errs s) := by
  refine answers_next ?_
  repeat' (first | with_reducible assumption | with_reducible apply onCollect_keeps)

theorem execCollectMax_keeps {r0 : State} {w : Fin 16} {n : U32} {errs : List SymErr} {s : State} (h : Keeps r0 s) :
    Answers r0 (execCollectMax w n errs s) := by
  refine answers_next ?_
  repeat' (first | with_reducible assumption | with_reducible apply onCollect_keeps)

theorem execCollectMin_keeps {r0 : State} {w : Fin 16} {n : U32} {errs : List SymErr} {s : State} (h : Keeps r0 s) :
    Answers r0 (execCollectMin w n errs s) := by
  refine answers_next ?_
  repeat' (first | with_reducible assumption | with_reducible apply onCollect_keeps)

theorem execCollectGather_keeps {r0 : State} {w : Fin 16} {n : U32} {errs : List SymErr} {s : State} (h : Keeps r0 s) :
    Answers r0 (execCollectGather w n errs s) := by
  refine answers_next ?_
  repeat' (first | with_reducible assumption | with_reducible apply onCollect_keeps)

theorem execPipLoad_keeps {r0 : State} {w : Fin 16} {n : U32} {src : Src} {s : State} (h : Keeps r0 s) : Answers r0
    (execPipLoad w n src s) := by
  refine answers_next ?_
  repeat' (first
    | with_reducible assumption | with_reducible apply pipLoad_keeps | with_reducible apply onRecord_keeps
    | (intro; try dsimp -zeta only))

theorem execPipRun_keeps {r0 : State} {w : Fin 16} {n : U32} {s : State} (h : Keeps r0 s) : Answers r0 (execPipRun w n s)
    := by
  refine answers_next ?_
  repeat' (first
    | with_reducible assumption | with_reducible apply onRecord_keeps | with_reducible apply pipRun_keeps
    | (intro; try dsimp -zeta only))

theorem execPipStatus_keeps {r0 : State} {w : Fin 16} {n : U32} {s : State} (h : Keeps r0 s) : Answers r0 (execPipStatus w
    n s) := by
  refine answers_next ?_
  repeat' (first | with_reducible assumption | with_reducible apply onOp_keeps | with_reducible apply pipStatus_keeps)

theorem execPipSliceStart_keeps {r0 : State} {k : Fin 8} {s : State} (h : Keeps r0 s) : Answers r0 (execPipSliceStart k s)
    := by
  refine answers_next ?_
  repeat' (first
    | with_reducible assumption | with_reducible apply whenReleased_keeps | with_reducible apply sliceStart_keeps)

theorem execPipRunRebuild_keeps {r0 : State} {k : Fin 8} {slot : Fin 16} {s : State} (h : Keeps r0 s) : Answers r0
    (execPipRunRebuild k slot s) := by
  refine answers_next ?_
  repeat' (first
    | with_reducible assumption | with_reducible apply whenReleased_keeps | with_reducible apply runRebuild_keeps)

theorem execStackTempSample_keeps {r0 : State} {s : Fin 16} {temp : Nat} {st : State} (h : Keeps r0 st) : Answers r0
    (execStackTempSample s temp st) := by
  refine answers_next ?_
  repeat' (first | with_reducible assumption | with_reducible apply stackTemp_keeps | split)

theorem execPipSliceEnd_keeps {r0 : State} {k : Fin 8} {s : State} (h : Keeps r0 s) : Answers r0 (execPipSliceEnd k s) := by
  refine answers_next ?_
  repeat' (first
    | with_reducible assumption | with_reducible apply whenReleased_keeps | with_reducible apply sliceEnd_keeps
    | with_reducible apply riseNow_keeps | (intro; try dsimp -zeta only))

theorem execStackThermalStepdown_keeps {r0 : State} {s : Fin 16} {st : State} (h : Keeps r0 st) : Answers r0
    (execStackThermalStepdown s st) := by
  refine answers_next ?_
  repeat' (first
    | with_reducible assumption | with_reducible apply whenReleased_keeps | with_reducible apply thermalDown_keeps)

theorem execRefreshStepdown_keeps {r0 : State} {s : Fin 16} {st : State} (h : Keeps r0 st) : Answers r0
    (execRefreshStepdown s st) := by
  refine answers_next ?_
  repeat' (first
    | with_reducible assumption | with_reducible apply whenReleased_keeps | with_reducible apply refreshDown_keeps)

theorem execRefreshDue_keeps {r0 : State} {s : Fin 16} {st : State} (h : Keeps r0 st) : Answers r0 (execRefreshDue s st)
    := by
  refine answers_next ?_
  repeat' (first
    | with_reducible assumption | with_reducible apply whenReleased_keeps | with_reducible apply refreshDue_keeps)

theorem execDieThermalStepdown_keeps {r0 : State} {w : Fin 4} {s : State} (h : Keeps r0 s) : Answers r0
    (execDieThermalStepdown w s) := by
  refine answers_next ?_
  repeat' (first | with_reducible assumption | with_reducible apply whenReleased_keeps | with_reducible apply dieDown_keeps)

theorem execPowerSample_keeps {r0 : State} {watts : Nat} {s : State} (h : Keeps r0 s) : Answers r0 (execPowerSample watts
    s) := by
  refine answers_next ?_
  repeat' (first
    | with_reducible assumption | with_reducible apply whenReleased_keeps | with_reducible apply powerSample_keeps)

theorem execCapStepUp_keeps {r0 : State} {s : State} (h : Keeps r0 s) : Answers r0 (execCapStepUp s) := by
  refine answers_next ?_
  repeat' (first
    | with_reducible assumption | with_reducible apply whenReleased_keeps | with_reducible apply capStepUp_keeps)

theorem execPowerCapUnmet_keeps {r0 : State} {s : State} (h : Keeps r0 s) : Answers r0 (execPowerCapUnmet s) := by
  refine answers_next ?_
  repeat' (first
    | with_reducible assumption | with_reducible apply whenReleased_keeps | with_reducible apply capUnmet_keeps)

theorem execStageMonitorMeasure_keeps {r0 : State} {ps : List Nat} {s : State} (h : Keeps r0 s) : Answers r0
    (execStageMonitorMeasure ps s) := by
  refine answers_next ?_
  repeat' (first | with_reducible assumption | with_reducible apply stageMeasure_keeps)

theorem execNop_keeps {r0 : State} {w : Fin 16} {n : U32} {s : State} (h : Keeps r0 s) : Answers r0 (execNop w n s) := by
  refine answers_next ?_
  repeat' (first
    | with_reducible assumption | with_reducible apply complete_keeps | with_reducible apply onOp_keeps
    | (intro; try dsimp -zeta only) | extract_lets)

theorem execFenceWindow_keeps {r0 : State} {w : Fin 16} {n : U32} {s : State} (h : Keeps r0 s) : Answers r0
    (execFenceWindow w n s) := by
  refine answers_next ?_
  repeat' (first
    | with_reducible assumption | with_reducible apply fenceBegin_keeps | with_reducible apply onRecord_keeps
    | (intro; try dsimp -zeta only))

theorem execFenceModule_keeps {r0 : State} {w : Fin 16} {n : U32} {s : State} (h : Keeps r0 s) : Answers r0
    (execFenceModule w n s) := by
  refine answers_next ?_
  repeat' (first
    | with_reducible assumption | with_reducible apply fenceBegin_keeps | with_reducible apply onRecord_keeps
    | (intro; try dsimp -zeta only))

theorem execFenceCascade_keeps {r0 : State} {w : Fin 16} {n : U32} {s : State} (h : Keeps r0 s) : Answers r0
    (execFenceCascade w n s) := by
  refine answers_next ?_
  repeat' (first
    | with_reducible assumption | with_reducible apply askGroupFence_keeps | with_reducible apply fenceBegin_keeps
    | with_reducible apply onRecord_keeps | (intro; try dsimp -zeta only) | extract_lets | split)

theorem execFenceRelease_keeps {r0 : State} {w : Fin 16} {n : U32} {s : State} (h : Keeps r0 s) : Answers r0
    (execFenceRelease w n s) := by
  refine answers_next ?_
  repeat' (first | with_reducible assumption | with_reducible apply fenceRelease_keeps)

theorem execQuery_keeps {r0 : State} {w : Fin 16} {n : U32} {s : State} (h : Keeps r0 s) : Answers r0 (execQuery w n s) := by
  refine answers_next ?_
  repeat' (first | with_reducible assumption | with_reducible apply onOp_keeps | with_reducible apply query_keeps)

theorem execAttest_keeps {r0 : State} {w : Fin 16} {n : U32} {s : State} (h : Keeps r0 s) : Answers r0 (execAttest w n s)
    := by
  refine answers_next ?_
  repeat' (first | with_reducible assumption | with_reducible apply onOp_keeps | with_reducible apply attest_keeps)

theorem execFwStageWrite_keeps {r0 : State} {w : Fin 16} {n : U32} {src : Src} {flashOk : Bool} {s : State} (h : Keeps r0
    s) : Answers r0 (execFwStageWrite w n src flashOk s) := by
  refine answers_next ?_
  repeat' (first
    | with_reducible assumption | with_reducible apply stageWrite_keeps | with_reducible apply onRecord_keeps
    | (intro; try dsimp -zeta only))

theorem execFwStageClear_keeps {r0 : State} {w : Fin 16} {n : U32} {flashOk : Bool} {s : State} (h : Keeps r0 s) : Answers
    r0 (execFwStageClear w n flashOk s) := by
  refine answers_next ?_
  repeat' (first
    | with_reducible assumption | with_reducible apply stageClear_keeps | with_reducible apply onRecord_keeps
    | (intro; try dsimp -zeta only))

theorem execFwCommitSelect_keeps {r0 : State} {w : Fin 16} {n : U32} {s : State} (h : Keeps r0 s) : Answers r0
    (execFwCommitSelect w n s) := by
  refine answers_next ?_
  repeat' (first
    | with_reducible assumption | with_reducible apply commitSelect_keeps | with_reducible apply onCommit_keeps)

theorem execFwCommitConfirm_keeps {r0 : State} {w : Fin 16} {n : U32} {s : State} (h : Keeps r0 s) : Answers r0
    (execFwCommitConfirm w n s) := by
  refine answers_next ?_
  repeat' (first
    | with_reducible assumption | with_reducible apply commitConfirm_keeps | with_reducible apply onCommit_keeps)

theorem execFwCommitAbandon_keeps {r0 : State} {w : Fin 16} {n : U32} {s : State} (h : Keeps r0 s) : Answers r0
    (execFwCommitAbandon w n s) := by
  refine answers_next ?_
  repeat' (first
    | with_reducible assumption | with_reducible apply commitAbandon_keeps | with_reducible apply onCommit_keeps)

theorem execCodecTableLoad_keeps {r0 : State} {w : Fin 16} {n : U32} {src : Src} {s : State} (h : Keeps r0 s) : Answers r0
    (execCodecTableLoad w n src s) := by
  refine answers_next ?_
  repeat' (first
    | with_reducible assumption | with_reducible apply inOrder_keeps | with_reducible apply codecLoad_keeps
    | (intro; try dsimp -zeta only))

theorem execCodecTableSwap_keeps {r0 : State} {w : Fin 16} {n : U32} {s : State} (h : Keeps r0 s) : Answers r0
    (execCodecTableSwap w n s) := by
  refine answers_next ?_
  repeat' (first
    | with_reducible assumption | with_reducible apply inOrder_keeps | with_reducible apply codecSwap_keeps
    | (intro; try dsimp -zeta only))

theorem execSeqPark_keeps {r0 : State} {w : Fin 16} {n : U32} {s : State} (h : Keeps r0 s) : Answers r0 (execSeqPark w n
    s) := by
  refine answers_next ?_
  repeat' (first
    | with_reducible assumption | with_reducible apply inOrder_keeps | with_reducible apply seqPark_keeps
    | (intro; try dsimp -zeta only))

theorem execParkImageWrite_keeps {r0 : State} {q : Fin 4096} {errs : List SymErr} {s : State} (h : Keeps r0 s) : Answers
    r0 (execParkImageWrite q errs s) := by
  refine answers_next ?_
  repeat' (first
    | with_reducible assumption | with_reducible apply whenReleased_keeps | with_reducible apply parkImage_keeps)

theorem execCodecStreamEncode_keeps {r0 : State} {codec : Fin 8} {s : State} (h : Keeps r0 s) : Answers r0
    (execCodecStreamEncode codec s) := by
  refine answers_next ?_
  repeat' (first
    | with_reducible assumption | with_reducible apply whenReleased_keeps | with_reducible apply codecEncode_keeps
    | (intro; try dsimp -zeta only) | split)

theorem execParkDurable_keeps {r0 : State} {q : Fin 4096} {s : State} (h : Keeps r0 s) : Answers r0 (execParkDurable q s)
    := by
  refine answers_next ?_
  repeat' (first
    | with_reducible assumption | with_reducible apply whenReleased_keeps | with_reducible apply parkDurable_keeps)

theorem execSeqResumeResume_keeps {r0 : State} {w : Fin 16} {n : U32} {s : State} (h : Keeps r0 s) : Answers r0
    (execSeqResumeResume w n s) := by
  refine answers_next ?_
  repeat' (first
    | with_reducible assumption | with_reducible apply inOrder_keeps | with_reducible apply seqResume_keeps
    | (intro; try dsimp -zeta only))

theorem execSeqResumeDrop_keeps {r0 : State} {w : Fin 16} {n : U32} {s : State} (h : Keeps r0 s) : Answers r0
    (execSeqResumeDrop w n s) := by
  refine answers_next ?_
  repeat' (first
    | with_reducible assumption | with_reducible apply inOrder_keeps | with_reducible apply seqDrop_keeps
    | (intro; try dsimp -zeta only))

theorem execCodecStreamDecode_keeps {r0 : State} {codec : Fin 8} {s : State} (h : Keeps r0 s) : Answers r0
    (execCodecStreamDecode codec s) := by
  refine answers_next ?_
  repeat' (first
    | with_reducible assumption | with_reducible apply whenReleased_keeps | with_reducible apply codecDecode_keeps
    | (intro; try dsimp -zeta only) | split)

theorem execResumeComplete_keeps {r0 : State} {q : Fin 4096} {s : State} (h : Keeps r0 s) : Answers r0 (execResumeComplete
    q s) := by
  refine answers_next ?_
  repeat' (first
    | with_reducible assumption | with_reducible apply whenReleased_keeps | with_reducible apply resumeComplete_keeps
    | extract_lets)

theorem execParkExpiryScan_keeps {r0 : State} {s : State} (h : Keeps r0 s) : Answers r0 (execParkExpiryScan s) := by
  refine answers_next ?_
  repeat' (first
    | with_reducible assumption | with_reducible apply whenReleased_keeps | with_reducible apply expiryScan_keeps)

theorem execPunnetBind_keeps {r0 : State} {w : Fin 16} {n : U32} {facts : PunnetFacts} {s : State} (h : Keeps r0 s) :
    Answers r0 (execPunnetBind w n facts s) := by
  refine answers_next ?_
  repeat' (first
    | with_reducible assumption | with_reducible apply inOrder_keeps | with_reducible apply punnetBind_keeps
    | (intro; try dsimp -zeta only))

theorem execPunnetQuery_keeps {r0 : State} {w : Fin 16} {n : U32} {s : State} (h : Keeps r0 s) : Answers r0
    (execPunnetQuery w n s) := by
  refine answers_next ?_
  repeat' (first
    | with_reducible assumption | with_reducible apply complete_keeps | with_reducible apply onOp_keeps
    | (intro; try dsimp -zeta only) | extract_lets)

theorem execPunnetRetireDrain_keeps {r0 : State} {w : Fin 16} {n : U32} {s : State} (h : Keeps r0 s) : Answers r0
    (execPunnetRetireDrain w n s) := by
  refine answers_next ?_
  repeat' (first
    | with_reducible assumption | with_reducible apply retireDrain_keeps | with_reducible apply onRecord_keeps
    | (intro; try dsimp -zeta only))

theorem execPunnetRetireNow_keeps {r0 : State} {w : Fin 16} {n : U32} {s : State} (h : Keeps r0 s) : Answers r0
    (execPunnetRetireNow w n s) := by
  refine answers_next ?_
  repeat' (first
    | with_reducible assumption | with_reducible apply retireNow_keeps | with_reducible apply onRecord_keeps
    | (intro; try dsimp -zeta only))

theorem execPunnetInsert_keeps {r0 : State} {port : Fin 4} {rate : Nat} {width : Nat} {s : State} (h : Keeps r0 s) :
    Answers r0 (execPunnetInsert port rate width s) := by
  refine answers_next ?_
  repeat' (first
    | with_reducible assumption | with_reducible apply whenReleased_keeps | with_reducible apply punnetInsert_keeps)

theorem execPunnetRemoval_keeps {r0 : State} {port : Fin 4} {s : State} (h : Keeps r0 s) : Answers r0 (execPunnetRemoval
    port s) := by
  refine answers_next ?_
  repeat' (first
    | with_reducible assumption | with_reducible apply whenReleased_keeps | with_reducible apply punnetRemoval_keeps)

theorem execPunnetCmdTimeout_keeps {r0 : State} {port : Fin 4} {cid : Nat} {s : State} (h : Keeps r0 s) : Answers r0
    (execPunnetCmdTimeout port cid s) := by
  refine answers_next ?_
  repeat' (first
    | with_reducible assumption | with_reducible apply whenReleased_keeps | with_reducible apply cmdTimeout_keeps)

theorem execPunnetAbortTimeout_keeps {r0 : State} {port : Fin 4} {s : State} (h : Keeps r0 s) : Answers r0
    (execPunnetAbortTimeout port s) := by
  refine answers_next ?_
  repeat' (first
    | with_reducible assumption | with_reducible apply whenReleased_keeps | with_reducible apply abortTimeout_keeps)

theorem execPunnetControllerReady_keeps {r0 : State} {port : Fin 4} {s : State} (h : Keeps r0 s) : Answers r0
    (execPunnetControllerReady port s) := by
  refine answers_next ?_
  repeat' (first
    | with_reducible assumption | with_reducible apply whenReleased_keeps | with_reducible apply controllerReady_keeps)

theorem execPunnetReadyTimeout_keeps {r0 : State} {port : Fin 4} {s : State} (h : Keeps r0 s) : Answers r0
    (execPunnetReadyTimeout port s) := by
  refine answers_next ?_
  repeat' (first
    | with_reducible assumption | with_reducible apply whenReleased_keeps | with_reducible apply readyTimeout_keeps)

theorem execNvmeCompletion_keeps {r0 : State} {port : Fin 4} {cid : Nat} {status : BitVec 15} {s : State} (h : Keeps r0 s)
    : Answers r0 (execNvmeCompletion port cid status s) := by
  refine answers_next ?_
  repeat' (first
    | with_reducible assumption | with_reducible apply whenReleased_keeps | with_reducible apply nvmeCompletion_keeps
    | extract_lets)

theorem execWearPoll_keeps {r0 : State} {port : Fin 4} {dataUnitsWritten : Nat} {mediaReadOnly : Bool} {s : State} (h :
    Keeps r0 s) : Answers r0 (execWearPoll port dataUnitsWritten mediaReadOnly s) := by
  refine answers_next ?_
  repeat' (first
    | with_reducible assumption | with_reducible apply whenReleased_keeps | with_reducible apply wearPoll_keeps)

theorem execPowerSet_keeps {r0 : State} {w : Fin 16} {n : U32} {s : State} (h : Keeps r0 s) : Answers r0 (execPowerSet w n
    s) := by
  refine answers_next ?_
  repeat' (first | with_reducible assumption | with_reducible apply onOp_keeps | with_reducible apply powerSet_keeps)

theorem execPowerDescend_keeps {r0 : State} {s : State} (h : Keeps r0 s) : Answers r0 (execPowerDescend s) := by
  refine answers_next ?_
  repeat' (first
    | with_reducible assumption | with_reducible apply whenReleased_keeps | with_reducible apply powerDescend_keeps)

theorem execPowerSubstateReached_keeps {r0 : State} {s : State} (h : Keeps r0 s) : Answers r0 (execPowerSubstateReached s)
    := by
  refine answers_next ?_
  repeat' (first
    | with_reducible assumption | with_reducible apply whenReleased_keeps | with_reducible apply substateReached_keeps)

theorem execPowerSelfWake_keeps {r0 : State} {s : State} (h : Keeps r0 s) : Answers r0 (execPowerSelfWake s) := by
  refine answers_next ?_
  repeat' (first
    | with_reducible assumption | with_reducible apply whenReleased_keeps | with_reducible apply selfWake_keeps)

theorem execStep_keeps {r0 : State} {w : Fin 16} {n : U32} {s : State} (h : Keeps r0 s) : Answers r0 (execStep w n s) := by
  refine answers_next ?_
  repeat' (first
    | with_reducible assumption | with_reducible apply inOrder_keeps | with_reducible apply stepRecord_keeps
    | (intro; try dsimp -zeta only))

theorem execStepHeading_keeps {r0 : State} {id : Nat} {s : State} (h : Keeps r0 s) : Answers r0 (execStepHeading id s) := by
  refine answers_next ?_
  repeat' (first | with_reducible assumption | with_reducible apply stepHeading_keeps)

theorem execStepForm_keeps {r0 : State} {id : Nat} {s : State} (h : Keeps r0 s) : Answers r0 (execStepForm id s) := by
  refine answers_next ?_
  repeat' (first | with_reducible assumption | with_reducible apply stepForm_keeps)

theorem execStepLayer_keeps {r0 : State} {id : Nat} {errs : List SymErr} {own : OwnReads} {s : State} (h : Keeps r0 s) :
    Answers r0 (execStepLayer id errs own s) := by
  refine answers_next ?_
  repeat' (first
    | with_reducible assumption | with_reducible apply whenReleased_keeps | with_reducible apply stepLayer_keeps)

theorem execStepBoundary_keeps {r0 : State} {id : Nat} {s : State} (h : Keeps r0 s) : Answers r0 (execStepBoundary id s)
    := by
  refine answers_next ?_
  repeat' (first
    | with_reducible assumption | with_reducible apply whenReleased_keeps | with_reducible apply stepBoundary_keeps)

theorem execChunkStart_keeps {r0 : State} {model : Fin 16} {s : State} (h : Keeps r0 s) : Answers r0 (execChunkStart model
    s) := by
  refine answers_next ?_
  repeat' (first | with_reducible assumption | with_reducible apply chunkStart_keeps)

theorem execChunkComplete_keeps {r0 : State} {id : Nat} {errs : List SymErr} {own : OwnReads} {s : State} (h : Keeps r0 s)
    : Answers r0 (execChunkComplete id errs own s) := by
  refine answers_next ?_
  repeat' (first
    | with_reducible assumption | with_reducible apply whenReleased_keeps | with_reducible apply chunkComplete_keeps
    | extract_lets)

theorem execRepairDeadline_keeps {r0 : State} {id : Nat} {s : State} (h : Keeps r0 s) : Answers r0 (execRepairDeadline id
    s) := by
  refine answers_next ?_
  repeat' (first
    | with_reducible assumption | with_reducible apply whenReleased_keeps | with_reducible apply repairDeadline_keeps)

theorem execMirrorRepair_keeps {r0 : State} {block : Nat} {errs : List SymErr} {s : State} (h : Keeps r0 s) : Answers r0
    (execMirrorRepair block errs s) := by
  refine answers_next ?_
  repeat' (first
    | with_reducible assumption | with_reducible apply whenReleased_keeps | with_reducible apply mirrorRepair_keeps)

theorem execLeaseRenew_keeps {r0 : State} {cls : Nat} {holder : Nat} {res : Nat} {s : State} (h : Keeps r0 s) : Answers r0
    (execLeaseRenew cls holder res s) := by
  refine answers_next ?_
  repeat' (first
    | with_reducible assumption | with_reducible apply whenReleased_keeps | with_reducible apply leaseRenew_keeps)

theorem execLeaseRevoke_keeps {r0 : State} {cls : Nat} {holder : Nat} {res : Nat} {s : State} (h : Keeps r0 s) : Answers
    r0 (execLeaseRevoke cls holder res s) := by
  refine answers_next ?_
  repeat' (first
    | with_reducible assumption | with_reducible apply whenReleased_keeps | with_reducible apply leaseRevoke_keeps)

theorem execHeartbeat_keeps {r0 : State} {c : Fin 8} {s : State} (h : Keeps r0 s) : Answers r0 (execHeartbeat c s) := by
  refine answers_next ?_
  repeat' (first
    | with_reducible assumption | with_reducible apply State_modCore_keeps | with_reducible apply whenReleased_keeps
    | (intro; try dsimp -zeta only) | split)

theorem execWatchdogReset_keeps {r0 : State} {c : Fin 8} {s : State} (h : Keeps r0 s) : Answers r0 (execWatchdogReset c s)
    := by
  refine answers_next ?_
  repeat' (first
    | with_reducible assumption | with_reducible apply whenReleased_keeps | with_reducible apply watchdogReset_keeps)

theorem execStoneCoreRestart_keeps {r0 : State} {c : Fin 8} {s : State} (h : Keeps r0 s) : Answers r0
    (execStoneCoreRestart c s) := by
  refine answers_next ?_
  repeat' (first
    | with_reducible assumption | with_reducible apply whenReleased_keeps | with_reducible apply coreBack_keeps)

theorem execUnitReset_keeps {r0 : State} {w : Fin 16} {n : U32} {s : State} (h : Keeps r0 s) : Answers r0 (execUnitReset w
    n s) := by
  refine answers_next ?_
  repeat' (first | with_reducible assumption | with_reducible apply onOp_keeps | with_reducible apply unitReset_keeps)

theorem execUnitReturnToService_keeps {r0 : State} {kind : Nat} {index : Nat} {s : State} (h : Keeps r0 s) : Answers r0
    (execUnitReturnToService kind index s) := by
  refine answers_next ?_
  repeat' (first
    | with_reducible assumption | with_reducible apply whenReleased_keeps | with_reducible apply unitReturn_keeps)

theorem execModelLoadPlace_keeps {r0 : State} {w : Fin 16} {n : U32} {plan : Placement} {s : State} (h : Keeps r0 s) :
    Answers r0 (execModelLoadPlace w n plan s) := by
  refine answers_next ?_
  repeat' (first
    | with_reducible assumption | with_reducible apply inOrder_keeps | with_reducible apply modelPlace_keeps
    | (intro; try dsimp -zeta only))

theorem execLayerDesc_keeps {r0 : State} {w : Fin 16} {n : U32} {s : State} (h : Keeps r0 s) : Answers r0 (execLayerDesc w
    n s) := by
  refine answers_next ?_
  repeat' (first
    | with_reducible assumption | with_reducible apply inOrder_keeps | with_reducible apply layerDesc_keeps
    | (intro; try dsimp -zeta only))

theorem execScaleLoadRowScales_keeps {r0 : State} {w : Fin 16} {n : U32} {src : Src} {s : State} (h : Keeps r0 s) :
    Answers r0 (execScaleLoadRowScales w n src s) := by
  refine answers_next ?_
  repeat' (first
    | with_reducible assumption | with_reducible apply inOrder_keeps | with_reducible apply scaleLoad_keeps
    | (intro; try dsimp -zeta only))

theorem execScaleLoadInputScales_keeps {r0 : State} {w : Fin 16} {n : U32} {src : Src} {s : State} (h : Keeps r0 s) :
    Answers r0 (execScaleLoadInputScales w n src s) := by
  refine answers_next ?_
  repeat' (first
    | with_reducible assumption | with_reducible apply inOrder_keeps | with_reducible apply scaleLoad_keeps
    | (intro; try dsimp -zeta only))

theorem execScaleLoadInputRanges_keeps {r0 : State} {w : Fin 16} {n : U32} {src : Src} {s : State} (h : Keeps r0 s) :
    Answers r0 (execScaleLoadInputRanges w n src s) := by
  refine answers_next ?_
  repeat' (first
    | with_reducible assumption | with_reducible apply inOrder_keeps | with_reducible apply scaleLoad_keeps
    | (intro; try dsimp -zeta only))

theorem execVariantLoad_keeps {r0 : State} {w : Fin 16} {n : U32} {src : Src} {plan : DeltaPlacement} {s : State} (h :
    Keeps r0 s) : Answers r0 (execVariantLoad w n src plan s) := by
  refine answers_next ?_
  repeat' (first
    | with_reducible assumption | with_reducible apply inOrder_keeps | with_reducible apply variantLoad_keeps
    | (intro; try dsimp -zeta only))

theorem execVariantDrop_keeps {r0 : State} {w : Fin 16} {n : U32} {s : State} (h : Keeps r0 s) : Answers r0
    (execVariantDrop w n s) := by
  refine answers_next ?_
  repeat' (first
    | with_reducible assumption | with_reducible apply inOrder_keeps | with_reducible apply variantDrop_keeps
    | (intro; try dsimp -zeta only))

theorem execModelLoadDrop_keeps {r0 : State} {w : Fin 16} {n : U32} {s : State} (h : Keeps r0 s) : Answers r0
    (execModelLoadDrop w n s) := by
  refine answers_next ?_
  repeat' (first
    | with_reducible assumption | with_reducible apply inOrder_keeps | with_reducible apply modelDrop_keeps
    | (intro; try dsimp -zeta only))

theorem execFunctionLevelReset_keeps {r0 : State} {s : State} (h : Keeps r0 s) : Answers r0 (execFunctionLevelReset s) := by
  refine answers_next ?_
  repeat' (first | with_reducible assumption | with_reducible apply commandReset_keeps | split)

theorem execHotReset_keeps {r0 : State} {s : State} (h : Keeps r0 s) : Answers r0 (execHotReset s) := by
  refine answers_next ?_
  repeat' (first | with_reducible assumption | with_reducible apply commandReset_keeps | split)

theorem execHostLinkDown_keeps {r0 : State} {s : State} (h : Keeps r0 s) : Answers r0 (execHostLinkDown s) := by
  refine answers_next ?_
  repeat' (first
    | with_reducible assumption | with_reducible apply commandReset_keeps | with_reducible apply linkLost_keeps | split)

theorem execPerst_keeps {r0 : State} {s : State} (h : Keeps r0 s) : Answers r0 (execPerst s) := by
  refine answers_next ?_
  repeat' (first
    | with_reducible assumption | with_reducible apply commandReset_keeps | with_reducible apply linkLost_keeps
    | with_reducible apply keeps_setHost | extract_lets)

theorem execCxlReset_keeps {r0 : State} {s : State} (h : Keeps r0 s) : Answers r0 (execCxlReset s) :=
  answers_next (keeps_ite h (keeps_ite (cxlReset_keeps h) (commandReset_keeps h)))

theorem execHostLinkTrain_keeps {r0 : State} {proto : HostProto} {rate : Nat} {width : Nat} {cacheEn : Bool} {memEn :
    Bool} {s : State} (h : Keeps r0 s) : Answers r0 (execHostLinkTrain proto rate width cacheEn memEn s) := by
  refine answers_next ?_
  repeat' (first | with_reducible assumption | with_reducible apply linkTrain_keeps)

theorem execHostLinkError_keeps {r0 : State} {found : LinkErrors} {s : State} (h : Keeps r0 s) : Answers r0
    (execHostLinkError found s) := by
  refine answers_next ?_
  repeat' (first
    | with_reducible assumption | with_reducible apply logErr_keeps | with_reducible apply keeps_setHost | split)

theorem execConfigurationRequest_keeps {r0 : State} {busMaster : Option Bool} {memSpace : Option Bool} {s : State} (h :
    Keeps r0 s) : Answers r0 (execConfigurationRequest busMaster memSpace s) := by
  refine answers_next ?_
  repeat' (first | with_reducible assumption | with_reducible apply configRequest_keeps)

theorem execVineTrain_keeps {r0 : State} {p : Fin 12} {peerSerial : U64} {peer : Option Nat} {lanesOk : BitVec 8} {s :
    State} (h : Keeps r0 s) : Answers r0 (execVineTrain p peerSerial peer lanesOk s) := by
  refine answers_next ?_
  repeat' (first
    | with_reducible assumption | with_reducible apply whenReleased_keeps | with_reducible apply vineTrain_keeps)

theorem execVineTrainRetry_keeps {r0 : State} {p : Fin 12} {s : State} (h : Keeps r0 s) : Answers r0 (execVineTrainRetry p
    s) := by
  refine answers_next ?_
  repeat' (first
    | with_reducible assumption | with_reducible apply whenReleased_keeps | with_reducible apply vineRetry_keeps)

theorem execVineDeadTimeout_keeps {r0 : State} {p : Fin 12} {replayFailed : Bool} {s : State} (h : Keeps r0 s) : Answers
    r0 (execVineDeadTimeout p replayFailed s) := by
  refine answers_next ?_
  repeat' (first
    | with_reducible assumption | with_reducible apply whenReleased_keeps | with_reducible apply vineDead_keeps)

theorem execVineCreditTimeout_keeps {r0 : State} {p : Fin 12} {vc : Fin 3} {s : State} (h : Keeps r0 s) : Answers r0
    (execVineCreditTimeout p vc s) := by
  refine answers_next ?_
  repeat' (first
    | with_reducible assumption | with_reducible apply whenReleased_keeps | with_reducible apply vineCredit_keeps)

theorem execVineFrame_keeps {r0 : State} {p : Fin 12} {f : VineFrame} {s : State} (h : Keeps r0 s) : Answers r0
    (execVineFrame p f s) := by
  refine answers_next ?_
  repeat' (first
    | with_reducible assumption | with_reducible apply whenReleased_keeps | with_reducible apply vineFrame_keeps)

theorem execPwrEnRise_keeps {r0 : State} {inputInRange : Bool} {s : State} (h : Keeps r0 s) : Answers r0 (execPwrEnRise
    inputInRange s) := by
  refine answers_next ?_
  repeat' (first | with_reducible assumption | with_reducible apply keeps_setBoot | extract_lets | split | rfl)

theorem execChannelFailure_keeps {r0 : State} {s : Fin 16} {c : Fin 32} {st : State} (h : Keeps r0 st) : Answers r0
    (execChannelFailure s c st) := by
  refine answers_next ?_
  repeat' (first
    | with_reducible assumption | with_reducible apply whenReleased_keeps | with_reducible apply channelFails_keeps)

theorem execClaim_keeps {r0 : State} {m : VineMsg} {prio : Nat} {serial : U64} {s : State} (h : Keeps r0 s) : Answers r0
    (execClaim m prio serial s) := by
  refine answers_next ?_
  repeat' (first
    | with_reducible assumption | with_reducible apply claimArrive_keeps | with_reducible apply lostQuietly_keeps
    | with_reducible apply onMessage_keeps | (intro; try dsimp -zeta only))

theorem execElectionWindowEnd_keeps {r0 : State} {s : State} (h : Keeps r0 s) : Answers r0 (execElectionWindowEnd s) := by
  refine answers_next ?_
  repeat' (first
    | with_reducible assumption | with_reducible apply whenReleased_keeps | with_reducible apply electionEnd_keeps)

theorem execElectionRetry_keeps {r0 : State} {s : State} (h : Keeps r0 s) : Answers r0 (execElectionRetry s) := by
  refine answers_next ?_
  repeat' (first
    | with_reducible assumption | with_reducible apply whenReleased_keeps | with_reducible apply electionRetry_keeps)

theorem execQuorumTimeout_keeps {r0 : State} {s : State} (h : Keeps r0 s) : Answers r0 (execQuorumTimeout s) := by
  refine answers_next ?_
  repeat' (first
    | with_reducible assumption | with_reducible apply whenReleased_keeps | with_reducible apply quorumTimeout_keeps)

theorem execConfirm_keeps {r0 : State} {m : VineMsg} {members : List Nat} {size : Nat} {s : State} (h : Keeps r0 s) :
    Answers r0 (execConfirm m members size s) := by
  refine answers_next ?_
  repeat' (first
    | with_reducible assumption | with_reducible apply confirmArrive_keeps | with_reducible apply lostQuietly_keeps
    | with_reducible apply onMessage_keeps | (intro; try dsimp -zeta only))

theorem execConfirmAck_keeps {r0 : State} {m : VineMsg} {mirror : List Nat} {s : State} (h : Keeps r0 s) : Answers r0
    (execConfirmAck m mirror s) := by
  refine answers_next ?_
  repeat' (first
    | with_reducible assumption | with_reducible apply ackArrive_keeps | with_reducible apply lostQuietly_keeps
    | with_reducible apply onMessage_keeps | (intro; try dsimp -zeta only))

theorem execKey_keeps {r0 : State} {m : VineMsg} {secret : List Byte} {s : State} (h : Keeps r0 s) : Answers r0 (execKey m
    secret s) := by
  refine answers_next ?_
  repeat' (first
    | with_reducible assumption | with_reducible apply lostQuietly_keeps | with_reducible apply keyArrive_keeps
    | with_reducible apply onMessage_keeps | (intro; try dsimp -zeta only))

theorem execLive_keeps {r0 : State} {m : VineMsg} {s : State} (h : Keeps r0 s) : Answers r0 (execLive m s) := by
  refine answers_next ?_
  repeat' (first
    | with_reducible assumption | with_reducible apply lostQuietly_keeps | with_reducible apply onMessage_keeps
    | (intro; try dsimp -zeta only))

theorem execMemberLeaseExpire_keeps {r0 : State} {member : Nat} {s : State} (h : Keeps r0 s) : Answers r0
    (execMemberLeaseExpire member s) := by
  refine answers_next ?_
  repeat' (first
    | with_reducible assumption | with_reducible apply whenReleased_keeps | with_reducible apply memberExpire_keeps)

theorem execStemLeaseExpire_keeps {r0 : State} {s : State} (h : Keeps r0 s) : Answers r0 (execStemLeaseExpire s) := by
  refine answers_next ?_
  repeat' (first
    | with_reducible assumption | with_reducible apply whenReleased_keeps | with_reducible apply stemExpire_keeps)

theorem execStemDemote_keeps {r0 : State} {s : State} (h : Keeps r0 s) : Answers r0 (execStemDemote s) := by
  refine answers_next ?_
  repeat' (first
    | with_reducible assumption | with_reducible apply whenReleased_keeps | with_reducible apply stemDemote_keeps)

theorem execVineJoin_keeps {r0 : State} {w : Fin 16} {n : U32} {src : Src} {s : State} (h : Keeps r0 s) : Answers r0
    (execVineJoin w n src s) := by
  refine answers_next ?_
  repeat' (first
    | with_reducible assumption | with_reducible apply vineJoin_keeps | with_reducible apply onRecord_keeps
    | (intro; try dsimp -zeta only))

theorem execVineJoinTimeout_keeps {r0 : State} {s : State} (h : Keeps r0 s) : Answers r0 (execVineJoinTimeout s) := by
  refine answers_next ?_
  repeat' (first
    | with_reducible assumption | with_reducible apply whenReleased_keeps | with_reducible apply joinTimeout_keeps)

theorem execVineRolePriority_keeps {r0 : State} {w : Fin 16} {n : U32} {s : State} (h : Keeps r0 s) : Answers r0
    (execVineRolePriority w n s) := by
  refine answers_next ?_
  repeat' (first
    | with_reducible assumption | with_reducible apply vineRole_keeps | with_reducible apply onRecord_keeps
    | with_reducible apply keeps_setVine | (intro; try dsimp -zeta only))

theorem execVineRoleElect_keeps {r0 : State} {w : Fin 16} {n : U32} {s : State} (h : Keeps r0 s) : Answers r0
    (execVineRoleElect w n s) := by
  refine answers_next ?_
  repeat' (first
    | with_reducible assumption | with_reducible apply startElection_keeps | with_reducible apply vineRole_keeps
    | with_reducible apply onRecord_keeps | (intro; try dsimp -zeta only))

theorem execVineLeaveDrain_keeps {r0 : State} {w : Fin 16} {n : U32} {s : State} (h : Keeps r0 s) : Answers r0
    (execVineLeaveDrain w n s) := by
  refine answers_next ?_
  repeat' (first
    | with_reducible assumption | with_reducible apply checked_keeps | with_reducible apply beginLeave_keeps
    | with_reducible apply onRecord_keeps | (intro; try dsimp -zeta only))

theorem execVineLeaveForce_keeps {r0 : State} {w : Fin 16} {n : U32} {s : State} (h : Keeps r0 s) : Answers r0
    (execVineLeaveForce w n s) := by
  refine answers_next ?_
  repeat' (first
    | with_reducible assumption | with_reducible apply checked_keeps | with_reducible apply endReplica_keeps
    | with_reducible apply beginLeave_keeps | with_reducible apply onRecord_keeps | (intro; try dsimp -zeta only) | split)

theorem execLeave_keeps {r0 : State} {m : VineMsg} {s : State} (h : Keeps r0 s) : Answers r0 (execLeave m s) := by
  refine answers_next ?_
  repeat' (first
    | with_reducible assumption | with_reducible apply leaveArrive_keeps | with_reducible apply lostQuietly_keeps
    | with_reducible apply onMessage_keeps | (intro; try dsimp -zeta only))

theorem execPlan_keeps {r0 : State} {m : VineMsg} {stepNo : Nat} {model : Nat} {chunk : Bool} {seqs : List (Nat × Nat)}
    {record : List Byte} {sroundEn : Bool} {sroundKey : U32} {force : Nat} {defaultLimit : Nat} {s : State} (h : Keeps r0
    s) : Answers r0 (execPlan m stepNo model chunk seqs record sroundEn sroundKey force defaultLimit s) := by
  refine answers_next ?_
  repeat' (first
    | with_reducible assumption | with_reducible apply planArrive_keeps | with_reducible apply lostStep_keeps
    | with_reducible apply fromStem_keeps | with_reducible apply lostQuietly_keeps | with_reducible apply onMessage_keeps
    | (intro; try dsimp -zeta only) | extract_lets | split)

theorem execAct_keeps {r0 : State} {m : VineMsg} {stepNo : Nat} {hidden : List (List F32)} {wideSoFar : Nat} {s : State}
    (h : Keeps r0 s) : Answers r0 (execAct m stepNo hidden wideSoFar s) := by
  refine answers_next ?_
  repeat' (first
    | with_reducible assumption | with_reducible apply lostStep_keeps | with_reducible apply actArrive_keeps
    | with_reducible apply onMessage_keeps | (intro; try dsimp -zeta only))

theorem execPart_keeps {r0 : State} {m : VineMsg} {stepNo : Nat} {layer : Nat} {mat : Nat} {rank : Nat} {sums : List F32}
    {s : State} (h : Keeps r0 s) : Answers r0 (execPart m stepNo layer mat rank sums s) := by
  refine answers_next ?_
  repeat' (first
    | with_reducible assumption | with_reducible apply onShare_keeps | with_reducible apply lostStep_keeps
    | with_reducible apply onMessage_keeps | (intro; try dsimp -zeta only))

theorem execTokens_keeps {r0 : State} {m : VineMsg} {stepNo : Nat} {toks : List SlotToken} {wideLayers : Nat} {s : State}
    (h : Keeps r0 s) : Answers r0 (execTokens m stepNo toks wideLayers s) := by
  refine answers_next ?_
  repeat' (first
    | with_reducible assumption | with_reducible apply tokensArrive_keeps | with_reducible apply lostStep_keeps
    | with_reducible apply atStem_keeps | with_reducible apply onMessage_keeps | (intro; try dsimp -zeta only))

theorem execFault_keeps {r0 : State} {m : VineMsg} {stepNo : Nat} {status : Nat} {layer : Nat} {stack : Nat} {s : State}
    (h : Keeps r0 s) : Answers r0 (execFault m stepNo status layer stack s) := by
  refine answers_next ?_
  repeat' (first
    | with_reducible assumption | with_reducible apply lostStep_keeps | with_reducible apply atStem_keeps
    | with_reducible apply onMessage_keeps | with_reducible apply faultReport_keeps | (intro; try dsimp -zeta only))

theorem execCommit_keeps {r0 : State} {m : VineMsg} {ordinal : U64} {stamp : U64} {stepNo : Nat} {outcomes : List Nat}
    {toks : List SlotToken} {charges : List (Nat × Nat)} {s : State} (h : Keeps r0 s) : Answers r0 (execCommit m ordinal
    stamp stepNo outcomes toks charges s) := by
  refine answers_next ?_
  repeat' (first
    | with_reducible assumption | with_reducible apply fromStem_keeps | with_reducible apply lostQuietly_keeps
    | with_reducible apply onMessage_keeps | with_reducible apply applyCommit_keeps | (intro; try dsimp -zeta only))

theorem execCommitAck_keeps {r0 : State} {m : VineMsg} {ordinal : U64} {lackingSeqs : List Nat} {s : State} (h : Keeps r0
    s) : Answers r0 (execCommitAck m ordinal lackingSeqs s) := by
  refine answers_next ?_
  repeat' (first
    | with_reducible assumption | with_reducible apply atStem_keeps | with_reducible apply lostQuietly_keeps
    | with_reducible apply onMessage_keeps | with_reducible apply keeps_setVine | (intro; try dsimp -zeta only))

theorem execFenceReq_keeps {r0 : State} {m : VineMsg} {fence : Nat} {s : State} (h : Keeps r0 s) : Answers r0
    (execFenceReq m fence s) := by
  refine answers_next ?_
  repeat' (first
    | with_reducible assumption | with_reducible apply fenceAsked_keeps | with_reducible apply queueGroupFence_keeps
    | with_reducible apply fromStem_keeps | with_reducible apply lostQuietly_keeps | with_reducible apply onMessage_keeps
    | (intro; try dsimp -zeta only) | split)

theorem execFenceDone_keeps {r0 : State} {m : VineMsg} {fence : Nat} {s : State} (h : Keeps r0 s) : Answers r0
    (execFenceDone m fence s) := by
  refine answers_next ?_
  repeat' (first
    | with_reducible assumption | with_reducible apply fromStem_keeps | with_reducible apply fenceAnswered_keeps
    | with_reducible apply lostQuietly_keeps | with_reducible apply fenceOver_keeps | with_reducible apply onMessage_keeps
    | (intro; try dsimp -zeta only) | split)

theorem execHold_keeps {r0 : State} {m : VineMsg} {stack : Nat} {s : State} (h : Keeps r0 s) : Answers r0 (execHold m
    stack s) := by
  refine answers_next ?_
  repeat' (first
    | with_reducible assumption | with_reducible apply holdMember_keeps | with_reducible apply atStem_keeps
    | with_reducible apply lostQuietly_keeps | with_reducible apply onMessage_keeps | (intro; try dsimp -zeta only))

theorem execCool_keeps {r0 : State} {m : VineMsg} {s : State} (h : Keeps r0 s) : Answers r0 (execCool m s) := by
  refine answers_next ?_
  repeat' (first
    | with_reducible assumption | with_reducible apply coolMember_keeps | with_reducible apply atStem_keeps
    | with_reducible apply lostQuietly_keeps | with_reducible apply onMessage_keeps | (intro; try dsimp -zeta only))

theorem execStop_keeps {r0 : State} {m : VineMsg} {stack : Nat} {s : State} (h : Keeps r0 s) : Answers r0 (execStop m
    stack s) := by
  refine answers_next ?_
  repeat' (first
    | with_reducible assumption | with_reducible apply atStem_keeps | with_reducible apply stopArrive_keeps
    | with_reducible apply lostQuietly_keeps | with_reducible apply onMessage_keeps | (intro; try dsimp -zeta only))

theorem execBulk_keeps {r0 : State} {m : VineMsg} {w : Fin 16} {n : U32} {data : List Byte} {s : State} (h : Keeps r0 s) :
    Answers r0 (execBulk m w n data s) := by
  refine answers_next ?_
  repeat' (first
    | with_reducible assumption | with_reducible apply lostBulk_keeps | with_reducible apply bulkArrive_keeps
    | with_reducible apply onMessage_keeps | (intro; try dsimp -zeta only))

theorem execMemCopy_keeps {r0 : State} {w : Fin 16} {n : U32} {src : Src} {s : State} (h : Keeps r0 s) : Answers r0
    (execMemCopy w n src s) := by
  refine answers_next ?_
  repeat' (first | with_reducible assumption | with_reducible apply onOp_keeps | with_reducible apply memCopy_keeps)

theorem execMemFill_keeps {r0 : State} {w : Fin 16} {n : U32} {s : State} (h : Keeps r0 s) : Answers r0 (execMemFill w n
    s) := by
  refine answers_next ?_
  repeat' (first | with_reducible assumption | with_reducible apply onOp_keeps | with_reducible apply memFill_keeps)

theorem execRegionSetMakeCompute_keeps {r0 : State} {w : Fin 16} {n : U32} {errs : List SymErr} {s : State} (h : Keeps r0
    s) : Answers r0 (execRegionSetMakeCompute w n errs s) := by
  refine answers_next ?_
  repeat' (first
    | with_reducible assumption | with_reducible apply onRecord_keeps | with_reducible apply regionCompute_keeps
    | (intro; try dsimp -zeta only))

theorem execRegionSetSetMirror_keeps {r0 : State} {w : Fin 16} {n : U32} {errs : List SymErr} {s : State} (h : Keeps r0 s)
    : Answers r0 (execRegionSetSetMirror w n errs s) := by
  refine answers_next ?_
  repeat' (first
    | with_reducible assumption | with_reducible apply setMirror_keeps | with_reducible apply onRecord_keeps
    | (intro; try dsimp -zeta only))

theorem execRegionSetClearMirror_keeps {r0 : State} {w : Fin 16} {n : U32} {s : State} (h : Keeps r0 s) : Answers r0
    (execRegionSetClearMirror w n s) := by
  refine answers_next ?_
  repeat' (first
    | with_reducible assumption | with_reducible apply onRecord_keeps | with_reducible apply clearMirror_keeps
    | (intro; try dsimp -zeta only))

theorem execRegionSeal_keeps {r0 : State} {w : Fin 16} {n : U32} {errs : List SymErr} {s : State} (h : Keeps r0 s) :
    Answers r0 (execRegionSeal w n errs s) := by
  refine answers_next ?_
  repeat' (first | with_reducible assumption | with_reducible apply onRecord_keeps | with_reducible apply regionSeal_keeps)

theorem execScrub_keeps {r0 : State} {w : Fin 16} {n : U32} {errs : List SymErr} {s : State} (h : Keeps r0 s) : Answers r0
    (execScrub w n errs s) := by
  refine answers_next ?_
  repeat' (first
    | with_reducible assumption | with_reducible apply scrub_keeps | with_reducible apply onRecord_keeps
    | (intro; try dsimp -zeta only))

theorem execScrubProtectedSweep_keeps {r0 : State} {errs : List SymErr} {s : State} (h : Keeps r0 s) : Answers r0
    (execScrubProtectedSweep errs s) := by
  refine answers_next ?_
  repeat' (first
    | with_reducible assumption | with_reducible apply whenReleased_keeps | with_reducible apply sweepProtected_keeps)

theorem execScrubComputeSweep_keeps {r0 : State} {errs : List SymErr} {s : State} (h : Keeps r0 s) : Answers r0
    (execScrubComputeSweep errs s) := by
  refine answers_next ?_
  repeat' (first
    | with_reducible assumption | with_reducible apply whenReleased_keeps | with_reducible apply sweepCompute_keeps)

theorem execFlushAck_keeps {r0 : State} {w : Fin 16} {n : U32} {s : State} (h : Keeps r0 s) : Answers r0 (execFlushAck w n
    s) := by
  refine answers_next ?_
  repeat' (first
    | with_reducible assumption | with_reducible apply complete_keeps | with_reducible apply onRecord_keeps
    | with_reducible apply landRange_keeps | (intro; try dsimp -zeta only) | extract_lets)

theorem execMgmtWrite_keeps {r0 : State} {off : Nat} {v : U32} {s : State} (h : Keeps r0 s) : Answers r0 (execMgmtWrite
    off v s) := by
  refine answers_next ?_
  repeat' (first | with_reducible assumption | with_reducible apply mgmtWrite_keeps | split)

theorem execExtest_keeps {r0 : State} {s : State} (h : Keeps r0 s) : Answers r0 (execExtest s) := by
  refine answers_next ?_
  repeat' (first | with_reducible assumption | with_reducible apply tapTakes_keeps)

theorem execIntest_keeps {r0 : State} {s : State} (h : Keeps r0 s) : Answers r0 (execIntest s) := by
  refine answers_next ?_
  repeat' (first | with_reducible assumption | with_reducible apply tapTakes_keeps)

theorem execClamp_keeps {r0 : State} {s : State} (h : Keeps r0 s) : Answers r0 (execClamp s) := by
  refine answers_next ?_
  repeat' (first | with_reducible assumption | with_reducible apply tapTakes_keeps)

theorem execBypass_keeps {r0 : State} {tdi : Bool} {s : State} (h : Keeps r0 s) : Answers r0 (execBypass tdi s) := by
  refine answers_next ?_
  repeat' (first | with_reducible assumption | with_reducible apply tapShift_keeps | split)

theorem execTableLoadTable_keeps {r0 : State} {w : Fin 16} {n : U32} {src : Src} {s : State} (h : Keeps r0 s) : Answers r0
    (execTableLoadTable w n src s) := by
  refine answers_next ?_
  repeat' (first
    | with_reducible assumption | with_reducible apply tableLoad_keeps | with_reducible apply onRecord_keeps
    | (intro; try dsimp -zeta only))

theorem execTableLoadProgram_keeps {r0 : State} {w : Fin 16} {n : U32} {src : Src} {s : State} (h : Keeps r0 s) : Answers
    r0 (execTableLoadProgram w n src s) := by
  refine answers_next ?_
  repeat' (first
    | with_reducible assumption | with_reducible apply programLoad_keeps | with_reducible apply onRecord_keeps
    | (intro; try dsimp -zeta only))

theorem execTableLoadGain_keeps {r0 : State} {w : Fin 16} {n : U32} {src : Src} {s : State} (h : Keeps r0 s) : Answers r0
    (execTableLoadGain w n src s) := by
  refine answers_next ?_
  repeat' (first
    | with_reducible assumption | with_reducible apply inOrder_keeps | with_reducible apply gainLoad_keeps
    | (intro; try dsimp -zeta only))

theorem execTableSwap_keeps {r0 : State} {w : Fin 16} {n : U32} {s : State} (h : Keeps r0 s) : Answers r0 (execTableSwap w
    n s) := by
  refine answers_next ?_
  repeat' (first | with_reducible assumption | with_reducible apply onOp_keeps | with_reducible apply tableSwap_keeps)

theorem execTableSwapProceed_keeps {r0 : State} {s : State} (h : Keeps r0 s) : Answers r0 (execTableSwapProceed s) := by
  refine answers_next ?_
  repeat' (first | with_reducible assumption | with_reducible apply swapNext_keeps)

theorem execTableSwapCopy_keeps {r0 : State} {s : State} (h : Keeps r0 s) : Answers r0 (execTableSwapCopy s) := by
  refine answers_next ?_
  repeat' (first
    | with_reducible assumption | with_reducible apply whenReleased_keeps | with_reducible apply swapCopy_keeps)

theorem execZestJob_keeps {r0 : State} {sec : Fin 32} {slot : Fin 32} {in0 : F32} {in1 : F32} {own : OwnReads} {s : State}
    (h : Keeps r0 s) : Answers r0 (execZestJob sec slot in0 in1 own s) := by
  refine answers_next ?_
  repeat' (first
    | with_reducible assumption | with_reducible apply whenPowered_keeps | with_reducible apply zestStart_keeps)

theorem execZestEnd_keeps {r0 : State} {sec : Fin 32} {s : State} (h : Keeps r0 s) : Answers r0 (execZestEnd sec s) := by
  refine answers_next ?_
  repeat' (first
    | with_reducible assumption | with_reducible apply zestEndAt_keeps | with_reducible apply whenPowered_keeps)

theorem execZestLdi_keeps {r0 : State} {sec : Fin 32} {s : State} (h : Keeps r0 s) : Answers r0 (execZestLdi sec s) := by
  refine answers_next ?_
  repeat' (first | with_reducible assumption | with_reducible apply zestRun_keeps | with_reducible apply whenPowered_keeps)

theorem execZestMadd_keeps {r0 : State} {sec : Fin 32} {s : State} (h : Keeps r0 s) : Answers r0 (execZestMadd sec s) := by
  refine answers_next ?_
  repeat' (first | with_reducible assumption | with_reducible apply zestRun_keeps | with_reducible apply whenPowered_keeps)

theorem execZestExp2_keeps {r0 : State} {sec : Fin 32} {s : State} (h : Keeps r0 s) : Answers r0 (execZestExp2 sec s) := by
  refine answers_next ?_
  repeat' (first | with_reducible assumption | with_reducible apply zestRun_keeps | with_reducible apply whenPowered_keeps)

theorem execZestLog2_keeps {r0 : State} {sec : Fin 32} {s : State} (h : Keeps r0 s) : Answers r0 (execZestLog2 sec s) := by
  refine answers_next ?_
  repeat' (first | with_reducible assumption | with_reducible apply zestRun_keeps | with_reducible apply whenPowered_keeps)

theorem execZestRecip_keeps {r0 : State} {sec : Fin 32} {s : State} (h : Keeps r0 s) : Answers r0 (execZestRecip sec s) := by
  refine answers_next ?_
  repeat' (first | with_reducible assumption | with_reducible apply zestRun_keeps | with_reducible apply whenPowered_keeps)

theorem execZestRsqrt_keeps {r0 : State} {sec : Fin 32} {s : State} (h : Keeps r0 s) : Answers r0 (execZestRsqrt sec s) := by
  refine answers_next ?_
  repeat' (first | with_reducible assumption | with_reducible apply zestRun_keeps | with_reducible apply whenPowered_keeps)

theorem execZestCmpsel_keeps {r0 : State} {sec : Fin 32} {s : State} (h : Keeps r0 s) : Answers r0 (execZestCmpsel sec s)
    := by
  refine answers_next ?_
  repeat' (first | with_reducible assumption | with_reducible apply zestRun_keeps | with_reducible apply whenPowered_keeps)

theorem execZestSign_keeps {r0 : State} {sec : Fin 32} {s : State} (h : Keeps r0 s) : Answers r0 (execZestSign sec s) := by
  refine answers_next ?_
  repeat' (first | with_reducible assumption | with_reducible apply zestRun_keeps | with_reducible apply whenPowered_keeps)

theorem execZestLut_keeps {r0 : State} {sec : Fin 32} {s : State} (h : Keeps r0 s) : Answers r0 (execZestLut sec s) := by
  refine answers_next ?_
  repeat' (first | with_reducible assumption | with_reducible apply zestRun_keeps | with_reducible apply whenPowered_keeps)

theorem execZestTanh_keeps {r0 : State} {sec : Fin 32} {s : State} (h : Keeps r0 s) : Answers r0 (execZestTanh sec s) := by
  refine answers_next ?_
  repeat' (first | with_reducible assumption | with_reducible apply zestRun_keeps | with_reducible apply whenPowered_keeps)

theorem execZestLogistic_keeps {r0 : State} {sec : Fin 32} {s : State} (h : Keeps r0 s) : Answers r0 (execZestLogistic sec
    s) := by
  refine answers_next ?_
  repeat' (first | with_reducible assumption | with_reducible apply zestRun_keeps | with_reducible apply whenPowered_keeps)

theorem execBar2Write_keeps {r0 : State} {off : Nat} {data : List Byte} {s : State} (h : Keeps r0 s) : Answers r0
    (execBar2Write off data s) := by
  refine answers_next ?_
  repeat' (first | with_reducible assumption | with_reducible apply bar2Write_keeps)

theorem execRecordTake_keeps {r0 : State} {w : Fin 16} {src : Src} {s : State} (h : Keeps r0 s) : Answers r0
    (execRecordTake w src s) := by
  refine answers_next ?_
  repeat' (first | with_reducible assumption | with_reducible apply takeRecord_keeps)

theorem execIrqDelayExpire_keeps {r0 : State} {w : Fin 16} {s : State} (h : Keeps r0 s) : Answers r0 (execIrqDelayExpire w
    s) := by
  refine answers_next ?_
  repeat' (first | with_reducible assumption | with_reducible apply irqDelay_keeps)

theorem execWinEnable_keeps {r0 : State} {w : Fin 16} {v : U32} {s : State} (h : Keeps r0 s) : Answers r0 (execWinEnable w
    v s) := by
  refine answers_next ?_
  repeat' (first | with_reducible assumption | with_reducible apply hostRegWrite_keeps)

theorem execWinDisable_keeps {r0 : State} {w : Fin 16} {v : U32} {s : State} (h : Keeps r0 s) : Answers r0 (execWinDisable
    w v s) := by
  refine answers_next ?_
  repeat' (first | with_reducible assumption | with_reducible apply hostRegWrite_keeps)

theorem execWinReset_keeps {r0 : State} {w : Fin 16} {v : U32} {s : State} (h : Keeps r0 s) : Answers r0 (execWinReset w v
    s) := by
  refine answers_next ?_
  repeat' (first | with_reducible assumption | with_reducible apply hostRegWrite_keeps)

theorem execWinReplyHeadWrite_keeps {r0 : State} {w : Fin 16} {v : U32} {s : State} (h : Keeps r0 s) : Answers r0
    (execWinReplyHeadWrite w v s) := by
  refine answers_next ?_
  repeat' (first | with_reducible assumption | with_reducible apply hostRegWrite_keeps)

theorem execWinOutHeadWrite_keeps {r0 : State} {w : Fin 16} {v : U32} {s : State} (h : Keeps r0 s) : Answers r0
    (execWinOutHeadWrite w v s) := by
  refine answers_next ?_
  repeat' (first | with_reducible assumption | with_reducible apply hostRegWrite_keeps)

theorem execModErrHeadWrite_keeps {r0 : State} {v : U32} {s : State} (h : Keeps r0 s) : Answers r0 (execModErrHeadWrite v
    s) := by
  refine answers_next ?_
  repeat' (first | with_reducible assumption | with_reducible apply hostRegWrite_keeps)

theorem execModEngBalWrite_keeps {r0 : State} {v : U32} {s : State} (h : Keeps r0 s) : Answers r0 (execModEngBalWrite v s)
    := by
  refine answers_next ?_
  repeat' (first | with_reducible assumption | with_reducible apply hostRegWrite_keeps)

theorem execDbgPrsInstrLatch_keeps {r0 : State} {e : Fin 8} {s : State} (h : Keeps r0 s) : Answers r0
    (execDbgPrsInstrLatch e s) := by
  refine answers_next ?_
  repeat' (first | with_reducible assumption | with_reducible apply hostRegRead_keeps)

theorem execRegisterWrite_keeps {r0 : State} {off : Nat} {size : Nat} {v : U64} {s : State} (h : Keeps r0 s) : Answers r0
    (execRegisterWrite off size v s) := by
  refine answers_next ?_
  repeat' (first | with_reducible assumption | with_reducible apply hostRegWrite_keeps)

theorem execBadAccess_keeps {r0 : State} {off : Nat} {size : Nat} {write : Bool} {v : U64} {s : State} (h : Keeps r0 s) :
    Answers r0 (execBadAccess off size write v s) := by
  refine answers_next ?_
  repeat' (first
    | with_reducible assumption | with_reducible apply hostRegWrite_keeps | with_reducible apply hostRegRead_keeps | split)

theorem execRcRead_keeps {r0 : State} {off : Nat} {size : Nat} {s : State} (h : Keeps r0 s) : Answers r0 (execRcRead off
    size s) := by
  refine answers_next ?_
  repeat' (first | with_reducible assumption | with_reducible apply hostRegRead_keeps)

end Sys2Proof.Laws
end

