-- ==== Sys2Proof/Laws/Memory.lean ====
section
/-! SUPPORT. What a write and a read of device memory do where nothing stands in their way: no mirror, hole, stopped stack, quarantined
block, compute granule or bias (R100, R126, R127, R418). -/

namespace Sys2Proof.Laws

open Sys2Proof Sys2Proof.Machine

/-- Bursts of n from b on hold plain memory: no mirror, no hole, no stopped stack, no quarantined block, no compute granule, no bias. -/
def Plain (b n : Nat) (s : State) : Prop :=
  s.host.hostBias = [] ∧ ∀ i, i < n → s.inMirror (32 * (b + i)) = false ∧ s.mirrorPair (32 * (b + i)) = none ∧ s.hole (32 * (b + i)) = false ∧
    (s.stack (s.stackOf (32 * (b + i)))).thermal ≠ 4 ∧ s.quarSlot ((b + i) / 128) = none ∧ s.isCompute (32 * (b + i)) = false

/-- They have neither errors nor poison, and their channels answer. -/
def Clean (b n : Nat) (s : State) : Prop :=
  ∀ i, i < n → s.errsOf (b + i) = [] ∧ s.mem.poison.contains (b + i) = false ∧
    (s.fold (32 * (b + i))).all (fun p => !bit (s.stack p.1).failedCh p.2) = true

theorem stack_of_hbm {s v : State} (h : v.mem.hbm = s.mem.hbm) (j : Nat) : v.stack j = s.stack j := by unfold State.stack; rw [h]

theorem chan_of_hbm {s v : State} (h : v.mem.hbm = s.mem.hbm) (j : Nat) : v.plainChannels j = s.plainChannels j := by
  unfold State.plainChannels; rw [stack_of_hbm h]

theorem caps_of_hbm {s v : State} (h : v.mem.hbm = s.mem.hbm) : v.plainCaps = s.plainCaps := by
  unfold State.plainCaps
  exact List.map_congr_left (fun j _ => by rw [chan_of_hbm h])

/-- The address fold depends on the stacks alone. -/
theorem fold_of_hbm {s v : State} (h : v.mem.hbm = s.mem.hbm) (a : Nat) : v.fold a = s.fold a := by
  unfold State.fold State.place State.plainPlace
  rw [caps_of_hbm h, show v.stack = s.stack from funext (stack_of_hbm h), show v.plainChannels = s.plainChannels from funext (chan_of_hbm h)]

theorem plain_of {s v : State} {b n : Nat} (hb : v.host.hostBias = []) (h1 : v.mem.mirrors = s.mem.mirrors)
    (h2 : v.mem.quarantine = s.mem.quarantine) (h3 : v.mem.hbm = s.mem.hbm) (h4 : v.mem.compute = s.mem.compute) (h : Plain b n s) :
    Plain b n v := by
  refine ⟨hb, fun i hi => ?_⟩
  obtain ⟨a1, a2, a3, a4, a5, a6⟩ := h.2 i hi
  refine ⟨?_, ?_, ?_, ?_, ?_, ?_⟩
  · unfold State.inMirror at *; rw [h1]; exact a1
  · unfold State.mirrorPair at *; rw [h1]; exact a2
  · unfold State.hole at *; rw [fold_of_hbm h3]; exact a3
  · unfold State.stackOf at *; rw [fold_of_hbm h3, stack_of_hbm h3]; exact a4
  · unfold State.quarSlot at *; rw [h2]; exact a5
  · unfold State.isCompute at *; rw [h4]; exact a6

/-- Plain and clean in every state with the same memory and bias. -/
theorem plain_of_mem {s v : State} {b n : Nat} (hm : v.mem = s.mem) (hh : v.host = s.host) (h : Plain b n s) : Plain b n v :=
  plain_of (hh ▸ h.1) (by rw [hm]) (by rw [hm]) (by rw [hm]) (by rw [hm]) h

theorem clean_of_mem {s v : State} {b n : Nat} (hm : v.mem = s.mem) (h : Clean b n s) : Clean b n v := by
  intro i hi
  obtain ⟨a1, a2, a3⟩ := h i hi
  refine ⟨?_, ?_, ?_⟩
  · unfold State.errsOf at *; rw [hm]; exact a1
  · rw [hm]; exact a2
  · rw [fold_of_hbm (s := s) (by rw [hm]), show v.stack = s.stack from funext (stack_of_hbm (by rw [hm]))]; exact a3

theorem plain_one {unit b n : Nat} {d : List Byte} {s : State} (h : Plain b (n + 1) s) :
    writeBurst unit b d false s = (true, storeBurst b d s) := by
  obtain ⟨h2, h3, h4, h5, h6, h7⟩ := h.2 0 (Nat.succ_pos n)
  simp only [Nat.add_zero] at h2 h3 h4 h5 h6 h7
  have h8 : (storeBurst b d s).quarSlot (b / 128) = none := h6
  have h9 : (storeBurst b d s).isCompute (32 * b) = false := h7
  have hp : putBurst b d false s = (true, storeBurst b d s) := by
    simp [putBurst, h4, h5, openOnRewrite, h6, landBurst, h7, queueBurst, h9, markRewrite, h8]
  simp [writeBurst, h2, h3, hp]

theorem plain_rest {b n : Nat} {d : List Byte} {s : State} (h : Plain b (n + 1) s) : Plain (b + 1) n (storeBurst b d s) := by
  refine plain_of (s := s) h.1 rfl rfl rfl rfl ⟨h.1, fun i hi => ?_⟩
  have := h.2 (i + 1) (Nat.succ_lt_succ hi)
  rwa [show b + (i + 1) = b + 1 + i by omega] at this

/-- Every burst of a list is written, and memory alone changes. -/
theorem writeBursts_plain {unit : Nat} (ds : List (List Byte)) : ∀ {b : Nat} {s : State}, Plain b ds.length s →
    ∃ m, writeBursts unit b ds s = (ds.length, { s with mem := m }) := by
  induction ds with
  | nil => intro b s _; exact ⟨s.mem, rfl⟩
  | cons d ds ih =>
    intro b s h
    obtain ⟨m, hm⟩ := ih (plain_rest (d := d) h)
    exact ⟨m, by simp only [writeBursts, plain_one h, hm]; rfl⟩

/-- A write of whole bursts lands, and memory alone changes. -/
theorem writeMem_plain {unit b n : Nat} {d : List Byte} {s : State} (hn : 0 < n) (hl : d.length = 32 * n) (h : Plain b n s) :
    ∃ m, writeMem unit (32 * b) d s = (true, { s with mem := m }) := by
  have hd : d.isEmpty = false := by
    cases d with
    | nil => simp at hl; omega
    | cons _ _ => rfl
  have hr : recallRange (32 * b) (32 * n) s = s := by simp [recallRange, h.1]
  have hc : (chunksOf 32 d).length = n := by simp [chunksOf, hl]; omega
  have hm : (32 * b + 32 * n) % 32 = 0 := by omega
  obtain ⟨m, hw⟩ := writeBursts_plain (unit := unit) (chunksOf 32 d) (b := b) (s := s) (by rw [hc]; exact h)
  refine ⟨m, ?_⟩
  simp [writeMem, hd, hl, hr, hm, hw]

/-- Clean plain bursts read as they are, and reading changes nothing. -/
theorem readBursts_clean {r : ReadBy} (n : Nat) : ∀ {b : Nat} {s : State}, Plain b n s → Clean b n s →
    readBursts r b n s = ({ bytes := (List.range n).flatMap (fun i => s.plainBurst (b + i)), bad := none }, s) := by
  induction n with
  | zero => intro b s _ _; rfl
  | succ n ih =>
    intro b s h hc
    obtain ⟨h2, h3, h4, h5, h6, h7⟩ := h.2 0 (Nat.succ_pos n)
    obtain ⟨c1, c2, c3⟩ := hc 0 (Nat.succ_pos n)
    simp only [Nat.add_zero] at h2 h3 h4 h5 h6 h7 c1 c2 c3
    have hd : s.diverted b = false := by simp [State.diverted, h3]
    have hs : s.stopped (32 * b) = false := by simp [State.stopped, h5]
    have hy : symRead r b s = (some (s.plainBurst b), s) := by
      unfold State.hole at h4
      cases hf : s.fold (32 * b) with
      | none => rw [hf] at h4; simp at h4
      | some p => rw [hf] at c3; simp at c3 c2; simp [symRead, hf, c3, h7, c1, c2]
    have ho : readOnce r b s = (some (s.plainBurst b), s) := by simp [readOnce, h7, hy]
    have hb : readBurst r b s = (some (s.plainBurst b), s) := by simp [readBurst, hd, h6, hs, ho]
    have hs : ∀ i, b + 1 + i = b + (i + 1) := fun i => by omega
    have hi := ih (b := b + 1) (s := s) ⟨h.1, fun i hi => by rw [hs]; exact h.2 (i + 1) (Nat.succ_lt_succ hi)⟩
      (fun i hi => by rw [hs]; exact hc (i + 1) (Nat.succ_lt_succ hi))
    simp only [readBursts, hb, hi]
    simp [List.range_succ_eq_map, List.flatMap_map, hs]

@[simp] theorem plainBurst_length (s : State) (b : Nat) : (s.plainBurst b).length = 32 := by
  simp only [State.plainBurst]
  split <;> simp [State.rawBurst, tslice]

theorem keyAt_of_mem {s v : State} (hm : v.mem = s.mem) (a : Nat) : v.keyAt a = s.keyAt a := by
  unfold State.keyAt State.poolPage
  rw [caps_of_hbm (s := s) (by rw [hm]), hm]

/-- The plaintext of a burst depends on memory and on which bring-up the module is in. -/
theorem plainBurst_of_mem {s v : State} (hm : v.mem = s.mem) (hs : v.sec = s.sec) (b : Nat) : v.plainBurst b = s.plainBurst b := by
  unfold State.plainBurst State.rawBurst State.isCompute
  rw [keyAt_of_mem hm, hm, hs]

/-- A module read of clean plain bursts gives their bytes and changes nothing. -/
theorem moduleRead_clean {r : ReadBy} {b n : Nat} {s : State} (h : Plain b n s) (hc : Clean b n s) :
    moduleRead r (32 * b) (32 * n) s =
      ({ bytes := (List.range n).flatMap (fun i => s.plainBurst (b + i)), bad := none }, s) := by
  have hr : recallRange (32 * b) (32 * n) s = s := by simp [recallRange, h.1]
  have hl : ((List.range n).flatMap (fun i => s.plainBurst (b + i))).length ≤ 32 * n := by
    simp [List.length_flatMap, List.map_const', List.sum_replicate_nat]; omega
  have hn : ceilDiv (32 * n) 32 = n := by unfold ceilDiv; omega
  simp [moduleRead, hr, readMem, hn, readBursts_clean n h hc, List.take_of_length_le hl]

end Sys2Proof.Laws
end

