-- ==== Sys2Proof/Laws/State.lean ====
section
/-! SUPPORT. What each update of a part of the state gives and leaves: one lemma per part of the state and per update. -/

namespace Sys2Proof.Laws

open Sys2Proof Sys2Proof.Machine

/-! ## A part replaced -/

@[simp] theorem setCtl_ctl (s : State) (v : Control) : (s.setCtl v).ctl = v := rfl
@[simp] theorem setCtl_pending (s : State) (v : Control) : (s.setCtl v).pending = s.pending := rfl
@[simp] theorem setCtl_freeCtr (s : State) (v : Control) : (s.setCtl v).freeCtr = s.freeCtr := rfl
@[simp] theorem setCtl_boot (s : State) (v : Control) : (s.setCtl v).boot = s.boot := rfl
@[simp] theorem setCtl_host (s : State) (v : Control) : (s.setCtl v).host = s.host := rfl
@[simp] theorem setCtl_wins (s : State) (v : Control) : (s.setCtl v).wins = s.wins := rfl
@[simp] theorem setCtl_lastWin (s : State) (v : Control) : (s.setCtl v).lastWin = s.lastWin := rfl
@[simp] theorem setCtl_bar2 (s : State) (v : Control) : (s.setCtl v).bar2 = s.bar2 := rfl
@[simp] theorem setCtl_log (s : State) (v : Control) : (s.setCtl v).log = s.log := rfl
@[simp] theorem setCtl_mem (s : State) (v : Control) : (s.setCtl v).mem = s.mem := rfl
@[simp] theorem setCtl_pips (s : State) (v : Control) : (s.setCtl v).pips = s.pips := rfl
@[simp] theorem setCtl_drupe (s : State) (v : Control) : (s.setCtl v).drupe = s.drupe := rfl
@[simp] theorem setCtl_press (s : State) (v : Control) : (s.setCtl v).press = s.press := rfl
@[simp] theorem setCtl_zest (s : State) (v : Control) : (s.setCtl v).zest = s.zest := rfl
@[simp] theorem setCtl_orchard (s : State) (v : Control) : (s.setCtl v).orchard = s.orchard := rfl
@[simp] theorem setCtl_seqs (s : State) (v : Control) : (s.setCtl v).seqs = s.seqs := rfl
@[simp] theorem setCtl_codec (s : State) (v : Control) : (s.setCtl v).codec = s.codec := rfl
@[simp] theorem setCtl_pun (s : State) (v : Control) : (s.setCtl v).pun = s.pun := rfl
@[simp] theorem setCtl_vine (s : State) (v : Control) : (s.setCtl v).vine = s.vine := rfl
@[simp] theorem setCtl_sec (s : State) (v : Control) : (s.setCtl v).sec = s.sec := rfl
@[simp] theorem setCtl_pwr (s : State) (v : Control) : (s.setCtl v).pwr = s.pwr := rfl

@[simp] theorem setBoot_boot (s : State) (v : Boot) : (s.setBoot v).boot = v := rfl
@[simp] theorem setBoot_pending (s : State) (v : Boot) : (s.setBoot v).pending = s.pending := rfl
@[simp] theorem setBoot_freeCtr (s : State) (v : Boot) : (s.setBoot v).freeCtr = s.freeCtr := rfl
@[simp] theorem setBoot_ctl (s : State) (v : Boot) : (s.setBoot v).ctl = s.ctl := rfl
@[simp] theorem setBoot_host (s : State) (v : Boot) : (s.setBoot v).host = s.host := rfl
@[simp] theorem setBoot_wins (s : State) (v : Boot) : (s.setBoot v).wins = s.wins := rfl
@[simp] theorem setBoot_lastWin (s : State) (v : Boot) : (s.setBoot v).lastWin = s.lastWin := rfl
@[simp] theorem setBoot_bar2 (s : State) (v : Boot) : (s.setBoot v).bar2 = s.bar2 := rfl
@[simp] theorem setBoot_log (s : State) (v : Boot) : (s.setBoot v).log = s.log := rfl
@[simp] theorem setBoot_mem (s : State) (v : Boot) : (s.setBoot v).mem = s.mem := rfl
@[simp] theorem setBoot_pips (s : State) (v : Boot) : (s.setBoot v).pips = s.pips := rfl
@[simp] theorem setBoot_drupe (s : State) (v : Boot) : (s.setBoot v).drupe = s.drupe := rfl
@[simp] theorem setBoot_press (s : State) (v : Boot) : (s.setBoot v).press = s.press := rfl
@[simp] theorem setBoot_zest (s : State) (v : Boot) : (s.setBoot v).zest = s.zest := rfl
@[simp] theorem setBoot_orchard (s : State) (v : Boot) : (s.setBoot v).orchard = s.orchard := rfl
@[simp] theorem setBoot_seqs (s : State) (v : Boot) : (s.setBoot v).seqs = s.seqs := rfl
@[simp] theorem setBoot_codec (s : State) (v : Boot) : (s.setBoot v).codec = s.codec := rfl
@[simp] theorem setBoot_pun (s : State) (v : Boot) : (s.setBoot v).pun = s.pun := rfl
@[simp] theorem setBoot_vine (s : State) (v : Boot) : (s.setBoot v).vine = s.vine := rfl
@[simp] theorem setBoot_sec (s : State) (v : Boot) : (s.setBoot v).sec = s.sec := rfl
@[simp] theorem setBoot_pwr (s : State) (v : Boot) : (s.setBoot v).pwr = s.pwr := rfl

@[simp] theorem setHost_host (s : State) (v : HostPort) : (s.setHost v).host = v := rfl
@[simp] theorem setHost_pending (s : State) (v : HostPort) : (s.setHost v).pending = s.pending := rfl
@[simp] theorem setHost_freeCtr (s : State) (v : HostPort) : (s.setHost v).freeCtr = s.freeCtr := rfl
@[simp] theorem setHost_ctl (s : State) (v : HostPort) : (s.setHost v).ctl = s.ctl := rfl
@[simp] theorem setHost_boot (s : State) (v : HostPort) : (s.setHost v).boot = s.boot := rfl
@[simp] theorem setHost_wins (s : State) (v : HostPort) : (s.setHost v).wins = s.wins := rfl
@[simp] theorem setHost_lastWin (s : State) (v : HostPort) : (s.setHost v).lastWin = s.lastWin := rfl
@[simp] theorem setHost_bar2 (s : State) (v : HostPort) : (s.setHost v).bar2 = s.bar2 := rfl
@[simp] theorem setHost_log (s : State) (v : HostPort) : (s.setHost v).log = s.log := rfl
@[simp] theorem setHost_mem (s : State) (v : HostPort) : (s.setHost v).mem = s.mem := rfl
@[simp] theorem setHost_pips (s : State) (v : HostPort) : (s.setHost v).pips = s.pips := rfl
@[simp] theorem setHost_drupe (s : State) (v : HostPort) : (s.setHost v).drupe = s.drupe := rfl
@[simp] theorem setHost_press (s : State) (v : HostPort) : (s.setHost v).press = s.press := rfl
@[simp] theorem setHost_zest (s : State) (v : HostPort) : (s.setHost v).zest = s.zest := rfl
@[simp] theorem setHost_orchard (s : State) (v : HostPort) : (s.setHost v).orchard = s.orchard := rfl
@[simp] theorem setHost_seqs (s : State) (v : HostPort) : (s.setHost v).seqs = s.seqs := rfl
@[simp] theorem setHost_codec (s : State) (v : HostPort) : (s.setHost v).codec = s.codec := rfl
@[simp] theorem setHost_pun (s : State) (v : HostPort) : (s.setHost v).pun = s.pun := rfl
@[simp] theorem setHost_vine (s : State) (v : HostPort) : (s.setHost v).vine = s.vine := rfl
@[simp] theorem setHost_sec (s : State) (v : HostPort) : (s.setHost v).sec = s.sec := rfl
@[simp] theorem setHost_pwr (s : State) (v : HostPort) : (s.setHost v).pwr = s.pwr := rfl

@[simp] theorem setLog_log (s : State) (v : ErrLog) : (s.setLog v).log = v := rfl
@[simp] theorem setLog_pending (s : State) (v : ErrLog) : (s.setLog v).pending = s.pending := rfl
@[simp] theorem setLog_freeCtr (s : State) (v : ErrLog) : (s.setLog v).freeCtr = s.freeCtr := rfl
@[simp] theorem setLog_ctl (s : State) (v : ErrLog) : (s.setLog v).ctl = s.ctl := rfl
@[simp] theorem setLog_boot (s : State) (v : ErrLog) : (s.setLog v).boot = s.boot := rfl
@[simp] theorem setLog_host (s : State) (v : ErrLog) : (s.setLog v).host = s.host := rfl
@[simp] theorem setLog_wins (s : State) (v : ErrLog) : (s.setLog v).wins = s.wins := rfl
@[simp] theorem setLog_lastWin (s : State) (v : ErrLog) : (s.setLog v).lastWin = s.lastWin := rfl
@[simp] theorem setLog_bar2 (s : State) (v : ErrLog) : (s.setLog v).bar2 = s.bar2 := rfl
@[simp] theorem setLog_mem (s : State) (v : ErrLog) : (s.setLog v).mem = s.mem := rfl
@[simp] theorem setLog_pips (s : State) (v : ErrLog) : (s.setLog v).pips = s.pips := rfl
@[simp] theorem setLog_drupe (s : State) (v : ErrLog) : (s.setLog v).drupe = s.drupe := rfl
@[simp] theorem setLog_press (s : State) (v : ErrLog) : (s.setLog v).press = s.press := rfl
@[simp] theorem setLog_zest (s : State) (v : ErrLog) : (s.setLog v).zest = s.zest := rfl
@[simp] theorem setLog_orchard (s : State) (v : ErrLog) : (s.setLog v).orchard = s.orchard := rfl
@[simp] theorem setLog_seqs (s : State) (v : ErrLog) : (s.setLog v).seqs = s.seqs := rfl
@[simp] theorem setLog_codec (s : State) (v : ErrLog) : (s.setLog v).codec = s.codec := rfl
@[simp] theorem setLog_pun (s : State) (v : ErrLog) : (s.setLog v).pun = s.pun := rfl
@[simp] theorem setLog_vine (s : State) (v : ErrLog) : (s.setLog v).vine = s.vine := rfl
@[simp] theorem setLog_sec (s : State) (v : ErrLog) : (s.setLog v).sec = s.sec := rfl
@[simp] theorem setLog_pwr (s : State) (v : ErrLog) : (s.setLog v).pwr = s.pwr := rfl

@[simp] theorem setMem_mem (s : State) (v : Mem) : (s.setMem v).mem = v := rfl
@[simp] theorem setMem_pending (s : State) (v : Mem) : (s.setMem v).pending = s.pending := rfl
@[simp] theorem setMem_freeCtr (s : State) (v : Mem) : (s.setMem v).freeCtr = s.freeCtr := rfl
@[simp] theorem setMem_ctl (s : State) (v : Mem) : (s.setMem v).ctl = s.ctl := rfl
@[simp] theorem setMem_boot (s : State) (v : Mem) : (s.setMem v).boot = s.boot := rfl
@[simp] theorem setMem_host (s : State) (v : Mem) : (s.setMem v).host = s.host := rfl
@[simp] theorem setMem_wins (s : State) (v : Mem) : (s.setMem v).wins = s.wins := rfl
@[simp] theorem setMem_lastWin (s : State) (v : Mem) : (s.setMem v).lastWin = s.lastWin := rfl
@[simp] theorem setMem_bar2 (s : State) (v : Mem) : (s.setMem v).bar2 = s.bar2 := rfl
@[simp] theorem setMem_log (s : State) (v : Mem) : (s.setMem v).log = s.log := rfl
@[simp] theorem setMem_pips (s : State) (v : Mem) : (s.setMem v).pips = s.pips := rfl
@[simp] theorem setMem_drupe (s : State) (v : Mem) : (s.setMem v).drupe = s.drupe := rfl
@[simp] theorem setMem_press (s : State) (v : Mem) : (s.setMem v).press = s.press := rfl
@[simp] theorem setMem_zest (s : State) (v : Mem) : (s.setMem v).zest = s.zest := rfl
@[simp] theorem setMem_orchard (s : State) (v : Mem) : (s.setMem v).orchard = s.orchard := rfl
@[simp] theorem setMem_seqs (s : State) (v : Mem) : (s.setMem v).seqs = s.seqs := rfl
@[simp] theorem setMem_codec (s : State) (v : Mem) : (s.setMem v).codec = s.codec := rfl
@[simp] theorem setMem_pun (s : State) (v : Mem) : (s.setMem v).pun = s.pun := rfl
@[simp] theorem setMem_vine (s : State) (v : Mem) : (s.setMem v).vine = s.vine := rfl
@[simp] theorem setMem_sec (s : State) (v : Mem) : (s.setMem v).sec = s.sec := rfl
@[simp] theorem setMem_pwr (s : State) (v : Mem) : (s.setMem v).pwr = s.pwr := rfl

@[simp] theorem setDrupe_drupe (s : State) (v : Drupe) : (s.setDrupe v).drupe = v := rfl
@[simp] theorem setDrupe_pending (s : State) (v : Drupe) : (s.setDrupe v).pending = s.pending := rfl
@[simp] theorem setDrupe_freeCtr (s : State) (v : Drupe) : (s.setDrupe v).freeCtr = s.freeCtr := rfl
@[simp] theorem setDrupe_ctl (s : State) (v : Drupe) : (s.setDrupe v).ctl = s.ctl := rfl
@[simp] theorem setDrupe_boot (s : State) (v : Drupe) : (s.setDrupe v).boot = s.boot := rfl
@[simp] theorem setDrupe_host (s : State) (v : Drupe) : (s.setDrupe v).host = s.host := rfl
@[simp] theorem setDrupe_wins (s : State) (v : Drupe) : (s.setDrupe v).wins = s.wins := rfl
@[simp] theorem setDrupe_lastWin (s : State) (v : Drupe) : (s.setDrupe v).lastWin = s.lastWin := rfl
@[simp] theorem setDrupe_bar2 (s : State) (v : Drupe) : (s.setDrupe v).bar2 = s.bar2 := rfl
@[simp] theorem setDrupe_log (s : State) (v : Drupe) : (s.setDrupe v).log = s.log := rfl
@[simp] theorem setDrupe_mem (s : State) (v : Drupe) : (s.setDrupe v).mem = s.mem := rfl
@[simp] theorem setDrupe_pips (s : State) (v : Drupe) : (s.setDrupe v).pips = s.pips := rfl
@[simp] theorem setDrupe_press (s : State) (v : Drupe) : (s.setDrupe v).press = s.press := rfl
@[simp] theorem setDrupe_zest (s : State) (v : Drupe) : (s.setDrupe v).zest = s.zest := rfl
@[simp] theorem setDrupe_orchard (s : State) (v : Drupe) : (s.setDrupe v).orchard = s.orchard := rfl
@[simp] theorem setDrupe_seqs (s : State) (v : Drupe) : (s.setDrupe v).seqs = s.seqs := rfl
@[simp] theorem setDrupe_codec (s : State) (v : Drupe) : (s.setDrupe v).codec = s.codec := rfl
@[simp] theorem setDrupe_pun (s : State) (v : Drupe) : (s.setDrupe v).pun = s.pun := rfl
@[simp] theorem setDrupe_vine (s : State) (v : Drupe) : (s.setDrupe v).vine = s.vine := rfl
@[simp] theorem setDrupe_sec (s : State) (v : Drupe) : (s.setDrupe v).sec = s.sec := rfl
@[simp] theorem setDrupe_pwr (s : State) (v : Drupe) : (s.setDrupe v).pwr = s.pwr := rfl

@[simp] theorem setPress_press (s : State) (v : Press) : (s.setPress v).press = v := rfl
@[simp] theorem setPress_pending (s : State) (v : Press) : (s.setPress v).pending = s.pending := rfl
@[simp] theorem setPress_freeCtr (s : State) (v : Press) : (s.setPress v).freeCtr = s.freeCtr := rfl
@[simp] theorem setPress_ctl (s : State) (v : Press) : (s.setPress v).ctl = s.ctl := rfl
@[simp] theorem setPress_boot (s : State) (v : Press) : (s.setPress v).boot = s.boot := rfl
@[simp] theorem setPress_host (s : State) (v : Press) : (s.setPress v).host = s.host := rfl
@[simp] theorem setPress_wins (s : State) (v : Press) : (s.setPress v).wins = s.wins := rfl
@[simp] theorem setPress_lastWin (s : State) (v : Press) : (s.setPress v).lastWin = s.lastWin := rfl
@[simp] theorem setPress_bar2 (s : State) (v : Press) : (s.setPress v).bar2 = s.bar2 := rfl
@[simp] theorem setPress_log (s : State) (v : Press) : (s.setPress v).log = s.log := rfl
@[simp] theorem setPress_mem (s : State) (v : Press) : (s.setPress v).mem = s.mem := rfl
@[simp] theorem setPress_pips (s : State) (v : Press) : (s.setPress v).pips = s.pips := rfl
@[simp] theorem setPress_drupe (s : State) (v : Press) : (s.setPress v).drupe = s.drupe := rfl
@[simp] theorem setPress_zest (s : State) (v : Press) : (s.setPress v).zest = s.zest := rfl
@[simp] theorem setPress_orchard (s : State) (v : Press) : (s.setPress v).orchard = s.orchard := rfl
@[simp] theorem setPress_seqs (s : State) (v : Press) : (s.setPress v).seqs = s.seqs := rfl
@[simp] theorem setPress_codec (s : State) (v : Press) : (s.setPress v).codec = s.codec := rfl
@[simp] theorem setPress_pun (s : State) (v : Press) : (s.setPress v).pun = s.pun := rfl
@[simp] theorem setPress_vine (s : State) (v : Press) : (s.setPress v).vine = s.vine := rfl
@[simp] theorem setPress_sec (s : State) (v : Press) : (s.setPress v).sec = s.sec := rfl
@[simp] theorem setPress_pwr (s : State) (v : Press) : (s.setPress v).pwr = s.pwr := rfl

@[simp] theorem setZest_zest (s : State) (v : Zest) : (s.setZest v).zest = v := rfl
@[simp] theorem setZest_pending (s : State) (v : Zest) : (s.setZest v).pending = s.pending := rfl
@[simp] theorem setZest_freeCtr (s : State) (v : Zest) : (s.setZest v).freeCtr = s.freeCtr := rfl
@[simp] theorem setZest_ctl (s : State) (v : Zest) : (s.setZest v).ctl = s.ctl := rfl
@[simp] theorem setZest_boot (s : State) (v : Zest) : (s.setZest v).boot = s.boot := rfl
@[simp] theorem setZest_host (s : State) (v : Zest) : (s.setZest v).host = s.host := rfl
@[simp] theorem setZest_wins (s : State) (v : Zest) : (s.setZest v).wins = s.wins := rfl
@[simp] theorem setZest_lastWin (s : State) (v : Zest) : (s.setZest v).lastWin = s.lastWin := rfl
@[simp] theorem setZest_bar2 (s : State) (v : Zest) : (s.setZest v).bar2 = s.bar2 := rfl
@[simp] theorem setZest_log (s : State) (v : Zest) : (s.setZest v).log = s.log := rfl
@[simp] theorem setZest_mem (s : State) (v : Zest) : (s.setZest v).mem = s.mem := rfl
@[simp] theorem setZest_pips (s : State) (v : Zest) : (s.setZest v).pips = s.pips := rfl
@[simp] theorem setZest_drupe (s : State) (v : Zest) : (s.setZest v).drupe = s.drupe := rfl
@[simp] theorem setZest_press (s : State) (v : Zest) : (s.setZest v).press = s.press := rfl
@[simp] theorem setZest_orchard (s : State) (v : Zest) : (s.setZest v).orchard = s.orchard := rfl
@[simp] theorem setZest_seqs (s : State) (v : Zest) : (s.setZest v).seqs = s.seqs := rfl
@[simp] theorem setZest_codec (s : State) (v : Zest) : (s.setZest v).codec = s.codec := rfl
@[simp] theorem setZest_pun (s : State) (v : Zest) : (s.setZest v).pun = s.pun := rfl
@[simp] theorem setZest_vine (s : State) (v : Zest) : (s.setZest v).vine = s.vine := rfl
@[simp] theorem setZest_sec (s : State) (v : Zest) : (s.setZest v).sec = s.sec := rfl
@[simp] theorem setZest_pwr (s : State) (v : Zest) : (s.setZest v).pwr = s.pwr := rfl

@[simp] theorem setSeqs_seqs (s : State) (v : Seqs) : (s.setSeqs v).seqs = v := rfl
@[simp] theorem setSeqs_pending (s : State) (v : Seqs) : (s.setSeqs v).pending = s.pending := rfl
@[simp] theorem setSeqs_freeCtr (s : State) (v : Seqs) : (s.setSeqs v).freeCtr = s.freeCtr := rfl
@[simp] theorem setSeqs_ctl (s : State) (v : Seqs) : (s.setSeqs v).ctl = s.ctl := rfl
@[simp] theorem setSeqs_boot (s : State) (v : Seqs) : (s.setSeqs v).boot = s.boot := rfl
@[simp] theorem setSeqs_host (s : State) (v : Seqs) : (s.setSeqs v).host = s.host := rfl
@[simp] theorem setSeqs_wins (s : State) (v : Seqs) : (s.setSeqs v).wins = s.wins := rfl
@[simp] theorem setSeqs_lastWin (s : State) (v : Seqs) : (s.setSeqs v).lastWin = s.lastWin := rfl
@[simp] theorem setSeqs_bar2 (s : State) (v : Seqs) : (s.setSeqs v).bar2 = s.bar2 := rfl
@[simp] theorem setSeqs_log (s : State) (v : Seqs) : (s.setSeqs v).log = s.log := rfl
@[simp] theorem setSeqs_mem (s : State) (v : Seqs) : (s.setSeqs v).mem = s.mem := rfl
@[simp] theorem setSeqs_pips (s : State) (v : Seqs) : (s.setSeqs v).pips = s.pips := rfl
@[simp] theorem setSeqs_drupe (s : State) (v : Seqs) : (s.setSeqs v).drupe = s.drupe := rfl
@[simp] theorem setSeqs_press (s : State) (v : Seqs) : (s.setSeqs v).press = s.press := rfl
@[simp] theorem setSeqs_zest (s : State) (v : Seqs) : (s.setSeqs v).zest = s.zest := rfl
@[simp] theorem setSeqs_orchard (s : State) (v : Seqs) : (s.setSeqs v).orchard = s.orchard := rfl
@[simp] theorem setSeqs_codec (s : State) (v : Seqs) : (s.setSeqs v).codec = s.codec := rfl
@[simp] theorem setSeqs_pun (s : State) (v : Seqs) : (s.setSeqs v).pun = s.pun := rfl
@[simp] theorem setSeqs_vine (s : State) (v : Seqs) : (s.setSeqs v).vine = s.vine := rfl
@[simp] theorem setSeqs_sec (s : State) (v : Seqs) : (s.setSeqs v).sec = s.sec := rfl
@[simp] theorem setSeqs_pwr (s : State) (v : Seqs) : (s.setSeqs v).pwr = s.pwr := rfl

@[simp] theorem setCodec_codec (s : State) (v : Codec) : (s.setCodec v).codec = v := rfl
@[simp] theorem setCodec_pending (s : State) (v : Codec) : (s.setCodec v).pending = s.pending := rfl
@[simp] theorem setCodec_freeCtr (s : State) (v : Codec) : (s.setCodec v).freeCtr = s.freeCtr := rfl
@[simp] theorem setCodec_ctl (s : State) (v : Codec) : (s.setCodec v).ctl = s.ctl := rfl
@[simp] theorem setCodec_boot (s : State) (v : Codec) : (s.setCodec v).boot = s.boot := rfl
@[simp] theorem setCodec_host (s : State) (v : Codec) : (s.setCodec v).host = s.host := rfl
@[simp] theorem setCodec_wins (s : State) (v : Codec) : (s.setCodec v).wins = s.wins := rfl
@[simp] theorem setCodec_lastWin (s : State) (v : Codec) : (s.setCodec v).lastWin = s.lastWin := rfl
@[simp] theorem setCodec_bar2 (s : State) (v : Codec) : (s.setCodec v).bar2 = s.bar2 := rfl
@[simp] theorem setCodec_log (s : State) (v : Codec) : (s.setCodec v).log = s.log := rfl
@[simp] theorem setCodec_mem (s : State) (v : Codec) : (s.setCodec v).mem = s.mem := rfl
@[simp] theorem setCodec_pips (s : State) (v : Codec) : (s.setCodec v).pips = s.pips := rfl
@[simp] theorem setCodec_drupe (s : State) (v : Codec) : (s.setCodec v).drupe = s.drupe := rfl
@[simp] theorem setCodec_press (s : State) (v : Codec) : (s.setCodec v).press = s.press := rfl
@[simp] theorem setCodec_zest (s : State) (v : Codec) : (s.setCodec v).zest = s.zest := rfl
@[simp] theorem setCodec_orchard (s : State) (v : Codec) : (s.setCodec v).orchard = s.orchard := rfl
@[simp] theorem setCodec_seqs (s : State) (v : Codec) : (s.setCodec v).seqs = s.seqs := rfl
@[simp] theorem setCodec_pun (s : State) (v : Codec) : (s.setCodec v).pun = s.pun := rfl
@[simp] theorem setCodec_vine (s : State) (v : Codec) : (s.setCodec v).vine = s.vine := rfl
@[simp] theorem setCodec_sec (s : State) (v : Codec) : (s.setCodec v).sec = s.sec := rfl
@[simp] theorem setCodec_pwr (s : State) (v : Codec) : (s.setCodec v).pwr = s.pwr := rfl

@[simp] theorem setPun_pun (s : State) (v : Punnets) : (s.setPun v).pun = v := rfl
@[simp] theorem setPun_pending (s : State) (v : Punnets) : (s.setPun v).pending = s.pending := rfl
@[simp] theorem setPun_freeCtr (s : State) (v : Punnets) : (s.setPun v).freeCtr = s.freeCtr := rfl
@[simp] theorem setPun_ctl (s : State) (v : Punnets) : (s.setPun v).ctl = s.ctl := rfl
@[simp] theorem setPun_boot (s : State) (v : Punnets) : (s.setPun v).boot = s.boot := rfl
@[simp] theorem setPun_host (s : State) (v : Punnets) : (s.setPun v).host = s.host := rfl
@[simp] theorem setPun_wins (s : State) (v : Punnets) : (s.setPun v).wins = s.wins := rfl
@[simp] theorem setPun_lastWin (s : State) (v : Punnets) : (s.setPun v).lastWin = s.lastWin := rfl
@[simp] theorem setPun_bar2 (s : State) (v : Punnets) : (s.setPun v).bar2 = s.bar2 := rfl
@[simp] theorem setPun_log (s : State) (v : Punnets) : (s.setPun v).log = s.log := rfl
@[simp] theorem setPun_mem (s : State) (v : Punnets) : (s.setPun v).mem = s.mem := rfl
@[simp] theorem setPun_pips (s : State) (v : Punnets) : (s.setPun v).pips = s.pips := rfl
@[simp] theorem setPun_drupe (s : State) (v : Punnets) : (s.setPun v).drupe = s.drupe := rfl
@[simp] theorem setPun_press (s : State) (v : Punnets) : (s.setPun v).press = s.press := rfl
@[simp] theorem setPun_zest (s : State) (v : Punnets) : (s.setPun v).zest = s.zest := rfl
@[simp] theorem setPun_orchard (s : State) (v : Punnets) : (s.setPun v).orchard = s.orchard := rfl
@[simp] theorem setPun_seqs (s : State) (v : Punnets) : (s.setPun v).seqs = s.seqs := rfl
@[simp] theorem setPun_codec (s : State) (v : Punnets) : (s.setPun v).codec = s.codec := rfl
@[simp] theorem setPun_vine (s : State) (v : Punnets) : (s.setPun v).vine = s.vine := rfl
@[simp] theorem setPun_sec (s : State) (v : Punnets) : (s.setPun v).sec = s.sec := rfl
@[simp] theorem setPun_pwr (s : State) (v : Punnets) : (s.setPun v).pwr = s.pwr := rfl

@[simp] theorem setVine_vine (s : State) (v : Vine) : (s.setVine v).vine = v := rfl
@[simp] theorem setVine_pending (s : State) (v : Vine) : (s.setVine v).pending = s.pending := rfl
@[simp] theorem setVine_freeCtr (s : State) (v : Vine) : (s.setVine v).freeCtr = s.freeCtr := rfl
@[simp] theorem setVine_ctl (s : State) (v : Vine) : (s.setVine v).ctl = s.ctl := rfl
@[simp] theorem setVine_boot (s : State) (v : Vine) : (s.setVine v).boot = s.boot := rfl
@[simp] theorem setVine_host (s : State) (v : Vine) : (s.setVine v).host = s.host := rfl
@[simp] theorem setVine_wins (s : State) (v : Vine) : (s.setVine v).wins = s.wins := rfl
@[simp] theorem setVine_lastWin (s : State) (v : Vine) : (s.setVine v).lastWin = s.lastWin := rfl
@[simp] theorem setVine_bar2 (s : State) (v : Vine) : (s.setVine v).bar2 = s.bar2 := rfl
@[simp] theorem setVine_log (s : State) (v : Vine) : (s.setVine v).log = s.log := rfl
@[simp] theorem setVine_mem (s : State) (v : Vine) : (s.setVine v).mem = s.mem := rfl
@[simp] theorem setVine_pips (s : State) (v : Vine) : (s.setVine v).pips = s.pips := rfl
@[simp] theorem setVine_drupe (s : State) (v : Vine) : (s.setVine v).drupe = s.drupe := rfl
@[simp] theorem setVine_press (s : State) (v : Vine) : (s.setVine v).press = s.press := rfl
@[simp] theorem setVine_zest (s : State) (v : Vine) : (s.setVine v).zest = s.zest := rfl
@[simp] theorem setVine_orchard (s : State) (v : Vine) : (s.setVine v).orchard = s.orchard := rfl
@[simp] theorem setVine_seqs (s : State) (v : Vine) : (s.setVine v).seqs = s.seqs := rfl
@[simp] theorem setVine_codec (s : State) (v : Vine) : (s.setVine v).codec = s.codec := rfl
@[simp] theorem setVine_pun (s : State) (v : Vine) : (s.setVine v).pun = s.pun := rfl
@[simp] theorem setVine_sec (s : State) (v : Vine) : (s.setVine v).sec = s.sec := rfl
@[simp] theorem setVine_pwr (s : State) (v : Vine) : (s.setVine v).pwr = s.pwr := rfl

@[simp] theorem setSec_sec (s : State) (v : Sec) : (s.setSec v).sec = v := rfl
@[simp] theorem setSec_pending (s : State) (v : Sec) : (s.setSec v).pending = s.pending := rfl
@[simp] theorem setSec_freeCtr (s : State) (v : Sec) : (s.setSec v).freeCtr = s.freeCtr := rfl
@[simp] theorem setSec_ctl (s : State) (v : Sec) : (s.setSec v).ctl = s.ctl := rfl
@[simp] theorem setSec_boot (s : State) (v : Sec) : (s.setSec v).boot = s.boot := rfl
@[simp] theorem setSec_host (s : State) (v : Sec) : (s.setSec v).host = s.host := rfl
@[simp] theorem setSec_wins (s : State) (v : Sec) : (s.setSec v).wins = s.wins := rfl
@[simp] theorem setSec_lastWin (s : State) (v : Sec) : (s.setSec v).lastWin = s.lastWin := rfl
@[simp] theorem setSec_bar2 (s : State) (v : Sec) : (s.setSec v).bar2 = s.bar2 := rfl
@[simp] theorem setSec_log (s : State) (v : Sec) : (s.setSec v).log = s.log := rfl
@[simp] theorem setSec_mem (s : State) (v : Sec) : (s.setSec v).mem = s.mem := rfl
@[simp] theorem setSec_pips (s : State) (v : Sec) : (s.setSec v).pips = s.pips := rfl
@[simp] theorem setSec_drupe (s : State) (v : Sec) : (s.setSec v).drupe = s.drupe := rfl
@[simp] theorem setSec_press (s : State) (v : Sec) : (s.setSec v).press = s.press := rfl
@[simp] theorem setSec_zest (s : State) (v : Sec) : (s.setSec v).zest = s.zest := rfl
@[simp] theorem setSec_orchard (s : State) (v : Sec) : (s.setSec v).orchard = s.orchard := rfl
@[simp] theorem setSec_seqs (s : State) (v : Sec) : (s.setSec v).seqs = s.seqs := rfl
@[simp] theorem setSec_codec (s : State) (v : Sec) : (s.setSec v).codec = s.codec := rfl
@[simp] theorem setSec_pun (s : State) (v : Sec) : (s.setSec v).pun = s.pun := rfl
@[simp] theorem setSec_vine (s : State) (v : Sec) : (s.setSec v).vine = s.vine := rfl
@[simp] theorem setSec_pwr (s : State) (v : Sec) : (s.setSec v).pwr = s.pwr := rfl

@[simp] theorem setPwr_pwr (s : State) (v : Power) : (s.setPwr v).pwr = v := rfl
@[simp] theorem setPwr_pending (s : State) (v : Power) : (s.setPwr v).pending = s.pending := rfl
@[simp] theorem setPwr_freeCtr (s : State) (v : Power) : (s.setPwr v).freeCtr = s.freeCtr := rfl
@[simp] theorem setPwr_ctl (s : State) (v : Power) : (s.setPwr v).ctl = s.ctl := rfl
@[simp] theorem setPwr_boot (s : State) (v : Power) : (s.setPwr v).boot = s.boot := rfl
@[simp] theorem setPwr_host (s : State) (v : Power) : (s.setPwr v).host = s.host := rfl
@[simp] theorem setPwr_wins (s : State) (v : Power) : (s.setPwr v).wins = s.wins := rfl
@[simp] theorem setPwr_lastWin (s : State) (v : Power) : (s.setPwr v).lastWin = s.lastWin := rfl
@[simp] theorem setPwr_bar2 (s : State) (v : Power) : (s.setPwr v).bar2 = s.bar2 := rfl
@[simp] theorem setPwr_log (s : State) (v : Power) : (s.setPwr v).log = s.log := rfl
@[simp] theorem setPwr_mem (s : State) (v : Power) : (s.setPwr v).mem = s.mem := rfl
@[simp] theorem setPwr_pips (s : State) (v : Power) : (s.setPwr v).pips = s.pips := rfl
@[simp] theorem setPwr_drupe (s : State) (v : Power) : (s.setPwr v).drupe = s.drupe := rfl
@[simp] theorem setPwr_press (s : State) (v : Power) : (s.setPwr v).press = s.press := rfl
@[simp] theorem setPwr_zest (s : State) (v : Power) : (s.setPwr v).zest = s.zest := rfl
@[simp] theorem setPwr_orchard (s : State) (v : Power) : (s.setPwr v).orchard = s.orchard := rfl
@[simp] theorem setPwr_seqs (s : State) (v : Power) : (s.setPwr v).seqs = s.seqs := rfl
@[simp] theorem setPwr_codec (s : State) (v : Power) : (s.setPwr v).codec = s.codec := rfl
@[simp] theorem setPwr_pun (s : State) (v : Power) : (s.setPwr v).pun = s.pun := rfl
@[simp] theorem setPwr_vine (s : State) (v : Power) : (s.setPwr v).vine = s.vine := rfl
@[simp] theorem setPwr_sec (s : State) (v : Power) : (s.setPwr v).sec = s.sec := rfl

/-! ## One numbered entry changed -/

@[simp] theorem modStack_pending (s : State) (i : Nat) (f : Stack → Stack) : (s.modStack i f).pending = s.pending := rfl
@[simp] theorem modStack_freeCtr (s : State) (i : Nat) (f : Stack → Stack) : (s.modStack i f).freeCtr = s.freeCtr := rfl
@[simp] theorem modStack_ctl (s : State) (i : Nat) (f : Stack → Stack) : (s.modStack i f).ctl = s.ctl := rfl
@[simp] theorem modStack_boot (s : State) (i : Nat) (f : Stack → Stack) : (s.modStack i f).boot = s.boot := rfl
@[simp] theorem modStack_host (s : State) (i : Nat) (f : Stack → Stack) : (s.modStack i f).host = s.host := rfl
@[simp] theorem modStack_wins (s : State) (i : Nat) (f : Stack → Stack) : (s.modStack i f).wins = s.wins := rfl
@[simp] theorem modStack_lastWin (s : State) (i : Nat) (f : Stack → Stack) : (s.modStack i f).lastWin = s.lastWin := rfl
@[simp] theorem modStack_bar2 (s : State) (i : Nat) (f : Stack → Stack) : (s.modStack i f).bar2 = s.bar2 := rfl
@[simp] theorem modStack_log (s : State) (i : Nat) (f : Stack → Stack) : (s.modStack i f).log = s.log := rfl
@[simp] theorem modStack_pips (s : State) (i : Nat) (f : Stack → Stack) : (s.modStack i f).pips = s.pips := rfl
@[simp] theorem modStack_drupe (s : State) (i : Nat) (f : Stack → Stack) : (s.modStack i f).drupe = s.drupe := rfl
@[simp] theorem modStack_press (s : State) (i : Nat) (f : Stack → Stack) : (s.modStack i f).press = s.press := rfl
@[simp] theorem modStack_zest (s : State) (i : Nat) (f : Stack → Stack) : (s.modStack i f).zest = s.zest := rfl
@[simp] theorem modStack_orchard (s : State) (i : Nat) (f : Stack → Stack) : (s.modStack i f).orchard = s.orchard := rfl
@[simp] theorem modStack_seqs (s : State) (i : Nat) (f : Stack → Stack) : (s.modStack i f).seqs = s.seqs := rfl
@[simp] theorem modStack_codec (s : State) (i : Nat) (f : Stack → Stack) : (s.modStack i f).codec = s.codec := rfl
@[simp] theorem modStack_pun (s : State) (i : Nat) (f : Stack → Stack) : (s.modStack i f).pun = s.pun := rfl
@[simp] theorem modStack_vine (s : State) (i : Nat) (f : Stack → Stack) : (s.modStack i f).vine = s.vine := rfl
@[simp] theorem modStack_sec (s : State) (i : Nat) (f : Stack → Stack) : (s.modStack i f).sec = s.sec := rfl
@[simp] theorem modStack_pwr (s : State) (i : Nat) (f : Stack → Stack) : (s.modStack i f).pwr = s.pwr := rfl

@[simp] theorem modPip_pending (s : State) (i : Nat) (f : PipStack → PipStack) : (s.modPip i f).pending = s.pending := rfl
@[simp] theorem modPip_freeCtr (s : State) (i : Nat) (f : PipStack → PipStack) : (s.modPip i f).freeCtr = s.freeCtr := rfl
@[simp] theorem modPip_ctl (s : State) (i : Nat) (f : PipStack → PipStack) : (s.modPip i f).ctl = s.ctl := rfl
@[simp] theorem modPip_boot (s : State) (i : Nat) (f : PipStack → PipStack) : (s.modPip i f).boot = s.boot := rfl
@[simp] theorem modPip_host (s : State) (i : Nat) (f : PipStack → PipStack) : (s.modPip i f).host = s.host := rfl
@[simp] theorem modPip_wins (s : State) (i : Nat) (f : PipStack → PipStack) : (s.modPip i f).wins = s.wins := rfl
@[simp] theorem modPip_lastWin (s : State) (i : Nat) (f : PipStack → PipStack) : (s.modPip i f).lastWin = s.lastWin := rfl
@[simp] theorem modPip_bar2 (s : State) (i : Nat) (f : PipStack → PipStack) : (s.modPip i f).bar2 = s.bar2 := rfl
@[simp] theorem modPip_log (s : State) (i : Nat) (f : PipStack → PipStack) : (s.modPip i f).log = s.log := rfl
@[simp] theorem modPip_mem (s : State) (i : Nat) (f : PipStack → PipStack) : (s.modPip i f).mem = s.mem := rfl
@[simp] theorem modPip_drupe (s : State) (i : Nat) (f : PipStack → PipStack) : (s.modPip i f).drupe = s.drupe := rfl
@[simp] theorem modPip_press (s : State) (i : Nat) (f : PipStack → PipStack) : (s.modPip i f).press = s.press := rfl
@[simp] theorem modPip_zest (s : State) (i : Nat) (f : PipStack → PipStack) : (s.modPip i f).zest = s.zest := rfl
@[simp] theorem modPip_orchard (s : State) (i : Nat) (f : PipStack → PipStack) : (s.modPip i f).orchard = s.orchard := rfl
@[simp] theorem modPip_seqs (s : State) (i : Nat) (f : PipStack → PipStack) : (s.modPip i f).seqs = s.seqs := rfl
@[simp] theorem modPip_codec (s : State) (i : Nat) (f : PipStack → PipStack) : (s.modPip i f).codec = s.codec := rfl
@[simp] theorem modPip_pun (s : State) (i : Nat) (f : PipStack → PipStack) : (s.modPip i f).pun = s.pun := rfl
@[simp] theorem modPip_vine (s : State) (i : Nat) (f : PipStack → PipStack) : (s.modPip i f).vine = s.vine := rfl
@[simp] theorem modPip_sec (s : State) (i : Nat) (f : PipStack → PipStack) : (s.modPip i f).sec = s.sec := rfl
@[simp] theorem modPip_pwr (s : State) (i : Nat) (f : PipStack → PipStack) : (s.modPip i f).pwr = s.pwr := rfl

@[simp] theorem modSeq_pending (s : State) (i : Nat) (f : SeqEntry → SeqEntry) : (s.modSeq i f).pending = s.pending := rfl
@[simp] theorem modSeq_freeCtr (s : State) (i : Nat) (f : SeqEntry → SeqEntry) : (s.modSeq i f).freeCtr = s.freeCtr := rfl
@[simp] theorem modSeq_ctl (s : State) (i : Nat) (f : SeqEntry → SeqEntry) : (s.modSeq i f).ctl = s.ctl := rfl
@[simp] theorem modSeq_boot (s : State) (i : Nat) (f : SeqEntry → SeqEntry) : (s.modSeq i f).boot = s.boot := rfl
@[simp] theorem modSeq_host (s : State) (i : Nat) (f : SeqEntry → SeqEntry) : (s.modSeq i f).host = s.host := rfl
@[simp] theorem modSeq_wins (s : State) (i : Nat) (f : SeqEntry → SeqEntry) : (s.modSeq i f).wins = s.wins := rfl
@[simp] theorem modSeq_lastWin (s : State) (i : Nat) (f : SeqEntry → SeqEntry) : (s.modSeq i f).lastWin = s.lastWin := rfl
@[simp] theorem modSeq_bar2 (s : State) (i : Nat) (f : SeqEntry → SeqEntry) : (s.modSeq i f).bar2 = s.bar2 := rfl
@[simp] theorem modSeq_log (s : State) (i : Nat) (f : SeqEntry → SeqEntry) : (s.modSeq i f).log = s.log := rfl
@[simp] theorem modSeq_mem (s : State) (i : Nat) (f : SeqEntry → SeqEntry) : (s.modSeq i f).mem = s.mem := rfl
@[simp] theorem modSeq_pips (s : State) (i : Nat) (f : SeqEntry → SeqEntry) : (s.modSeq i f).pips = s.pips := rfl
@[simp] theorem modSeq_drupe (s : State) (i : Nat) (f : SeqEntry → SeqEntry) : (s.modSeq i f).drupe = s.drupe := rfl
@[simp] theorem modSeq_press (s : State) (i : Nat) (f : SeqEntry → SeqEntry) : (s.modSeq i f).press = s.press := rfl
@[simp] theorem modSeq_zest (s : State) (i : Nat) (f : SeqEntry → SeqEntry) : (s.modSeq i f).zest = s.zest := rfl
@[simp] theorem modSeq_orchard (s : State) (i : Nat) (f : SeqEntry → SeqEntry) : (s.modSeq i f).orchard = s.orchard := rfl
@[simp] theorem modSeq_codec (s : State) (i : Nat) (f : SeqEntry → SeqEntry) : (s.modSeq i f).codec = s.codec := rfl
@[simp] theorem modSeq_pun (s : State) (i : Nat) (f : SeqEntry → SeqEntry) : (s.modSeq i f).pun = s.pun := rfl
@[simp] theorem modSeq_vine (s : State) (i : Nat) (f : SeqEntry → SeqEntry) : (s.modSeq i f).vine = s.vine := rfl
@[simp] theorem modSeq_sec (s : State) (i : Nat) (f : SeqEntry → SeqEntry) : (s.modSeq i f).sec = s.sec := rfl
@[simp] theorem modSeq_pwr (s : State) (i : Nat) (f : SeqEntry → SeqEntry) : (s.modSeq i f).pwr = s.pwr := rfl

@[simp] theorem modModel_pending (s : State) (i : Nat) (f : Model → Model) : (s.modModel i f).pending = s.pending := rfl
@[simp] theorem modModel_freeCtr (s : State) (i : Nat) (f : Model → Model) : (s.modModel i f).freeCtr = s.freeCtr := rfl
@[simp] theorem modModel_ctl (s : State) (i : Nat) (f : Model → Model) : (s.modModel i f).ctl = s.ctl := rfl
@[simp] theorem modModel_boot (s : State) (i : Nat) (f : Model → Model) : (s.modModel i f).boot = s.boot := rfl
@[simp] theorem modModel_host (s : State) (i : Nat) (f : Model → Model) : (s.modModel i f).host = s.host := rfl
@[simp] theorem modModel_wins (s : State) (i : Nat) (f : Model → Model) : (s.modModel i f).wins = s.wins := rfl
@[simp] theorem modModel_lastWin (s : State) (i : Nat) (f : Model → Model) : (s.modModel i f).lastWin = s.lastWin := rfl
@[simp] theorem modModel_bar2 (s : State) (i : Nat) (f : Model → Model) : (s.modModel i f).bar2 = s.bar2 := rfl
@[simp] theorem modModel_log (s : State) (i : Nat) (f : Model → Model) : (s.modModel i f).log = s.log := rfl
@[simp] theorem modModel_mem (s : State) (i : Nat) (f : Model → Model) : (s.modModel i f).mem = s.mem := rfl
@[simp] theorem modModel_pips (s : State) (i : Nat) (f : Model → Model) : (s.modModel i f).pips = s.pips := rfl
@[simp] theorem modModel_drupe (s : State) (i : Nat) (f : Model → Model) : (s.modModel i f).drupe = s.drupe := rfl
@[simp] theorem modModel_press (s : State) (i : Nat) (f : Model → Model) : (s.modModel i f).press = s.press := rfl
@[simp] theorem modModel_zest (s : State) (i : Nat) (f : Model → Model) : (s.modModel i f).zest = s.zest := rfl
@[simp] theorem modModel_orchard (s : State) (i : Nat) (f : Model → Model) : (s.modModel i f).orchard = s.orchard := rfl
@[simp] theorem modModel_codec (s : State) (i : Nat) (f : Model → Model) : (s.modModel i f).codec = s.codec := rfl
@[simp] theorem modModel_pun (s : State) (i : Nat) (f : Model → Model) : (s.modModel i f).pun = s.pun := rfl
@[simp] theorem modModel_vine (s : State) (i : Nat) (f : Model → Model) : (s.modModel i f).vine = s.vine := rfl
@[simp] theorem modModel_sec (s : State) (i : Nat) (f : Model → Model) : (s.modModel i f).sec = s.sec := rfl
@[simp] theorem modModel_pwr (s : State) (i : Nat) (f : Model → Model) : (s.modModel i f).pwr = s.pwr := rfl

@[simp] theorem modPun_pending (s : State) (i : Nat) (f : PunPort → PunPort) : (s.modPun i f).pending = s.pending := rfl
@[simp] theorem modPun_freeCtr (s : State) (i : Nat) (f : PunPort → PunPort) : (s.modPun i f).freeCtr = s.freeCtr := rfl
@[simp] theorem modPun_ctl (s : State) (i : Nat) (f : PunPort → PunPort) : (s.modPun i f).ctl = s.ctl := rfl
@[simp] theorem modPun_boot (s : State) (i : Nat) (f : PunPort → PunPort) : (s.modPun i f).boot = s.boot := rfl
@[simp] theorem modPun_host (s : State) (i : Nat) (f : PunPort → PunPort) : (s.modPun i f).host = s.host := rfl
@[simp] theorem modPun_wins (s : State) (i : Nat) (f : PunPort → PunPort) : (s.modPun i f).wins = s.wins := rfl
@[simp] theorem modPun_lastWin (s : State) (i : Nat) (f : PunPort → PunPort) : (s.modPun i f).lastWin = s.lastWin := rfl
@[simp] theorem modPun_bar2 (s : State) (i : Nat) (f : PunPort → PunPort) : (s.modPun i f).bar2 = s.bar2 := rfl
@[simp] theorem modPun_log (s : State) (i : Nat) (f : PunPort → PunPort) : (s.modPun i f).log = s.log := rfl
@[simp] theorem modPun_mem (s : State) (i : Nat) (f : PunPort → PunPort) : (s.modPun i f).mem = s.mem := rfl
@[simp] theorem modPun_pips (s : State) (i : Nat) (f : PunPort → PunPort) : (s.modPun i f).pips = s.pips := rfl
@[simp] theorem modPun_drupe (s : State) (i : Nat) (f : PunPort → PunPort) : (s.modPun i f).drupe = s.drupe := rfl
@[simp] theorem modPun_press (s : State) (i : Nat) (f : PunPort → PunPort) : (s.modPun i f).press = s.press := rfl
@[simp] theorem modPun_zest (s : State) (i : Nat) (f : PunPort → PunPort) : (s.modPun i f).zest = s.zest := rfl
@[simp] theorem modPun_orchard (s : State) (i : Nat) (f : PunPort → PunPort) : (s.modPun i f).orchard = s.orchard := rfl
@[simp] theorem modPun_seqs (s : State) (i : Nat) (f : PunPort → PunPort) : (s.modPun i f).seqs = s.seqs := rfl
@[simp] theorem modPun_codec (s : State) (i : Nat) (f : PunPort → PunPort) : (s.modPun i f).codec = s.codec := rfl
@[simp] theorem modPun_vine (s : State) (i : Nat) (f : PunPort → PunPort) : (s.modPun i f).vine = s.vine := rfl
@[simp] theorem modPun_sec (s : State) (i : Nat) (f : PunPort → PunPort) : (s.modPun i f).sec = s.sec := rfl
@[simp] theorem modPun_pwr (s : State) (i : Nat) (f : PunPort → PunPort) : (s.modPun i f).pwr = s.pwr := rfl

@[simp] theorem modVinePort_pending (s : State) (i : Nat) (f : VinePort → VinePort) : (s.modVinePort i f).pending = s.pending := rfl
@[simp] theorem modVinePort_freeCtr (s : State) (i : Nat) (f : VinePort → VinePort) : (s.modVinePort i f).freeCtr = s.freeCtr := rfl
@[simp] theorem modVinePort_ctl (s : State) (i : Nat) (f : VinePort → VinePort) : (s.modVinePort i f).ctl = s.ctl := rfl
@[simp] theorem modVinePort_boot (s : State) (i : Nat) (f : VinePort → VinePort) : (s.modVinePort i f).boot = s.boot := rfl
@[simp] theorem modVinePort_host (s : State) (i : Nat) (f : VinePort → VinePort) : (s.modVinePort i f).host = s.host := rfl
@[simp] theorem modVinePort_wins (s : State) (i : Nat) (f : VinePort → VinePort) : (s.modVinePort i f).wins = s.wins := rfl
@[simp] theorem modVinePort_lastWin (s : State) (i : Nat) (f : VinePort → VinePort) : (s.modVinePort i f).lastWin = s.lastWin := rfl
@[simp] theorem modVinePort_bar2 (s : State) (i : Nat) (f : VinePort → VinePort) : (s.modVinePort i f).bar2 = s.bar2 := rfl
@[simp] theorem modVinePort_log (s : State) (i : Nat) (f : VinePort → VinePort) : (s.modVinePort i f).log = s.log := rfl
@[simp] theorem modVinePort_mem (s : State) (i : Nat) (f : VinePort → VinePort) : (s.modVinePort i f).mem = s.mem := rfl
@[simp] theorem modVinePort_pips (s : State) (i : Nat) (f : VinePort → VinePort) : (s.modVinePort i f).pips = s.pips := rfl
@[simp] theorem modVinePort_drupe (s : State) (i : Nat) (f : VinePort → VinePort) : (s.modVinePort i f).drupe = s.drupe := rfl
@[simp] theorem modVinePort_press (s : State) (i : Nat) (f : VinePort → VinePort) : (s.modVinePort i f).press = s.press := rfl
@[simp] theorem modVinePort_zest (s : State) (i : Nat) (f : VinePort → VinePort) : (s.modVinePort i f).zest = s.zest := rfl
@[simp] theorem modVinePort_orchard (s : State) (i : Nat) (f : VinePort → VinePort) : (s.modVinePort i f).orchard = s.orchard := rfl
@[simp] theorem modVinePort_seqs (s : State) (i : Nat) (f : VinePort → VinePort) : (s.modVinePort i f).seqs = s.seqs := rfl
@[simp] theorem modVinePort_codec (s : State) (i : Nat) (f : VinePort → VinePort) : (s.modVinePort i f).codec = s.codec := rfl
@[simp] theorem modVinePort_pun (s : State) (i : Nat) (f : VinePort → VinePort) : (s.modVinePort i f).pun = s.pun := rfl
@[simp] theorem modVinePort_sec (s : State) (i : Nat) (f : VinePort → VinePort) : (s.modVinePort i f).sec = s.sec := rfl
@[simp] theorem modVinePort_pwr (s : State) (i : Nat) (f : VinePort → VinePort) : (s.modVinePort i f).pwr = s.pwr := rfl

@[simp] theorem modCore_pending (s : State) (i : Nat) (f : StoneCore → StoneCore) : (s.modCore i f).pending = s.pending := rfl
@[simp] theorem modCore_freeCtr (s : State) (i : Nat) (f : StoneCore → StoneCore) : (s.modCore i f).freeCtr = s.freeCtr := rfl
@[simp] theorem modCore_boot (s : State) (i : Nat) (f : StoneCore → StoneCore) : (s.modCore i f).boot = s.boot := rfl
@[simp] theorem modCore_host (s : State) (i : Nat) (f : StoneCore → StoneCore) : (s.modCore i f).host = s.host := rfl
@[simp] theorem modCore_wins (s : State) (i : Nat) (f : StoneCore → StoneCore) : (s.modCore i f).wins = s.wins := rfl
@[simp] theorem modCore_lastWin (s : State) (i : Nat) (f : StoneCore → StoneCore) : (s.modCore i f).lastWin = s.lastWin := rfl
@[simp] theorem modCore_bar2 (s : State) (i : Nat) (f : StoneCore → StoneCore) : (s.modCore i f).bar2 = s.bar2 := rfl
@[simp] theorem modCore_log (s : State) (i : Nat) (f : StoneCore → StoneCore) : (s.modCore i f).log = s.log := rfl
@[simp] theorem modCore_mem (s : State) (i : Nat) (f : StoneCore → StoneCore) : (s.modCore i f).mem = s.mem := rfl
@[simp] theorem modCore_pips (s : State) (i : Nat) (f : StoneCore → StoneCore) : (s.modCore i f).pips = s.pips := rfl
@[simp] theorem modCore_drupe (s : State) (i : Nat) (f : StoneCore → StoneCore) : (s.modCore i f).drupe = s.drupe := rfl
@[simp] theorem modCore_press (s : State) (i : Nat) (f : StoneCore → StoneCore) : (s.modCore i f).press = s.press := rfl
@[simp] theorem modCore_zest (s : State) (i : Nat) (f : StoneCore → StoneCore) : (s.modCore i f).zest = s.zest := rfl
@[simp] theorem modCore_orchard (s : State) (i : Nat) (f : StoneCore → StoneCore) : (s.modCore i f).orchard = s.orchard := rfl
@[simp] theorem modCore_seqs (s : State) (i : Nat) (f : StoneCore → StoneCore) : (s.modCore i f).seqs = s.seqs := rfl
@[simp] theorem modCore_codec (s : State) (i : Nat) (f : StoneCore → StoneCore) : (s.modCore i f).codec = s.codec := rfl
@[simp] theorem modCore_pun (s : State) (i : Nat) (f : StoneCore → StoneCore) : (s.modCore i f).pun = s.pun := rfl
@[simp] theorem modCore_vine (s : State) (i : Nat) (f : StoneCore → StoneCore) : (s.modCore i f).vine = s.vine := rfl
@[simp] theorem modCore_sec (s : State) (i : Nat) (f : StoneCore → StoneCore) : (s.modCore i f).sec = s.sec := rfl
@[simp] theorem modCore_pwr (s : State) (i : Nat) (f : StoneCore → StoneCore) : (s.modCore i f).pwr = s.pwr := rfl

@[simp] theorem modWedge_pending (s : State) (i : Nat) (f : WedgePower → WedgePower) : (s.modWedge i f).pending = s.pending := rfl
@[simp] theorem modWedge_freeCtr (s : State) (i : Nat) (f : WedgePower → WedgePower) : (s.modWedge i f).freeCtr = s.freeCtr := rfl
@[simp] theorem modWedge_ctl (s : State) (i : Nat) (f : WedgePower → WedgePower) : (s.modWedge i f).ctl = s.ctl := rfl
@[simp] theorem modWedge_boot (s : State) (i : Nat) (f : WedgePower → WedgePower) : (s.modWedge i f).boot = s.boot := rfl
@[simp] theorem modWedge_host (s : State) (i : Nat) (f : WedgePower → WedgePower) : (s.modWedge i f).host = s.host := rfl
@[simp] theorem modWedge_wins (s : State) (i : Nat) (f : WedgePower → WedgePower) : (s.modWedge i f).wins = s.wins := rfl
@[simp] theorem modWedge_lastWin (s : State) (i : Nat) (f : WedgePower → WedgePower) : (s.modWedge i f).lastWin = s.lastWin := rfl
@[simp] theorem modWedge_bar2 (s : State) (i : Nat) (f : WedgePower → WedgePower) : (s.modWedge i f).bar2 = s.bar2 := rfl
@[simp] theorem modWedge_log (s : State) (i : Nat) (f : WedgePower → WedgePower) : (s.modWedge i f).log = s.log := rfl
@[simp] theorem modWedge_mem (s : State) (i : Nat) (f : WedgePower → WedgePower) : (s.modWedge i f).mem = s.mem := rfl
@[simp] theorem modWedge_pips (s : State) (i : Nat) (f : WedgePower → WedgePower) : (s.modWedge i f).pips = s.pips := rfl
@[simp] theorem modWedge_drupe (s : State) (i : Nat) (f : WedgePower → WedgePower) : (s.modWedge i f).drupe = s.drupe := rfl
@[simp] theorem modWedge_press (s : State) (i : Nat) (f : WedgePower → WedgePower) : (s.modWedge i f).press = s.press := rfl
@[simp] theorem modWedge_zest (s : State) (i : Nat) (f : WedgePower → WedgePower) : (s.modWedge i f).zest = s.zest := rfl
@[simp] theorem modWedge_orchard (s : State) (i : Nat) (f : WedgePower → WedgePower) : (s.modWedge i f).orchard = s.orchard := rfl
@[simp] theorem modWedge_seqs (s : State) (i : Nat) (f : WedgePower → WedgePower) : (s.modWedge i f).seqs = s.seqs := rfl
@[simp] theorem modWedge_codec (s : State) (i : Nat) (f : WedgePower → WedgePower) : (s.modWedge i f).codec = s.codec := rfl
@[simp] theorem modWedge_pun (s : State) (i : Nat) (f : WedgePower → WedgePower) : (s.modWedge i f).pun = s.pun := rfl
@[simp] theorem modWedge_vine (s : State) (i : Nat) (f : WedgePower → WedgePower) : (s.modWedge i f).vine = s.vine := rfl
@[simp] theorem modWedge_sec (s : State) (i : Nat) (f : WedgePower → WedgePower) : (s.modWedge i f).sec = s.sec := rfl

/-! ## Entries after an update -/

@[simp] theorem stack_modStack (s : State) (i : Nat) (f : Stack → Stack) : (s.modStack i f).stack i = f (s.stack i) :=
  tget_tmod_same _ _ _ _

@[simp] theorem stack_modStack_ne (s : State) {i j : Nat} (h : j ≠ i) (f : Stack → Stack) : (s.modStack i f).stack j = s.stack j :=
  tget_tmod_ne _ _ h _

@[simp] theorem pip_modPip (s : State) (i : Nat) (f : PipStack → PipStack) : (s.modPip i f).pip i = f (s.pip i) :=
  tget_tmod_same _ _ _ _

@[simp] theorem pip_modPip_ne (s : State) {i j : Nat} (h : j ≠ i) (f : PipStack → PipStack) : (s.modPip i f).pip j = s.pip j :=
  tget_tmod_ne _ _ h _

@[simp] theorem seq_modSeq (s : State) (i : Nat) (f : SeqEntry → SeqEntry) : (s.modSeq i f).seq i = f (s.seq i) :=
  tget_tmod_same _ _ _ _

@[simp] theorem seq_modSeq_ne (s : State) {i j : Nat} (h : j ≠ i) (f : SeqEntry → SeqEntry) : (s.modSeq i f).seq j = s.seq j :=
  tget_tmod_ne _ _ h _

@[simp] theorem model_modModel (s : State) (i : Nat) (f : Model → Model) : (s.modModel i f).model i = f (s.model i) :=
  tget_tmod_same _ _ _ _

@[simp] theorem model_modModel_ne (s : State) {i j : Nat} (h : j ≠ i) (f : Model → Model) : (s.modModel i f).model j = s.model j :=
  tget_tmod_ne _ _ h _

@[simp] theorem punPort_modPun (s : State) (i : Nat) (f : PunPort → PunPort) : (s.modPun i f).punPort i = f (s.punPort i) :=
  tget_tmod_same _ _ _ _

@[simp] theorem punPort_modPun_ne (s : State) {i j : Nat} (h : j ≠ i) (f : PunPort → PunPort) : (s.modPun i f).punPort j = s.punPort j :=
  tget_tmod_ne _ _ h _

@[simp] theorem vinePort_modVinePort (s : State) (i : Nat) (f : VinePort → VinePort) : (s.modVinePort i f).vinePort i = f (s.vinePort i) :=
  tget_tmod_same _ _ _ _

@[simp] theorem vinePort_modVinePort_ne (s : State) {i j : Nat} (h : j ≠ i) (f : VinePort → VinePort) : (s.modVinePort i f).vinePort j = s.vinePort j :=
  tget_tmod_ne _ _ h _

@[simp] theorem core_modCore (s : State) (i : Nat) (f : StoneCore → StoneCore) : (s.modCore i f).core i = f (s.core i) :=
  tget_tmod_same _ _ _ _

@[simp] theorem core_modCore_ne (s : State) {i j : Nat} (h : j ≠ i) (f : StoneCore → StoneCore) : (s.modCore i f).core j = s.core j :=
  tget_tmod_ne _ _ h _

@[simp] theorem wedge_modWedge (s : State) (i : Nat) (f : WedgePower → WedgePower) : (s.modWedge i f).wedge i = f (s.wedge i) :=
  tget_tmod_same _ _ _ _

@[simp] theorem wedge_modWedge_ne (s : State) {i j : Nat} (h : j ≠ i) (f : WedgePower → WedgePower) : (s.modWedge i f).wedge j = s.wedge j :=
  tget_tmod_ne _ _ h _

/-! ## Windows -/

@[simp] theorem win_setWin (s : State) (w : Nat) (v : Window) : (s.setWin w v).win w = v := tget_tset_same _ _ _ _

@[simp] theorem win_setWin_ne (s : State) {w o : Nat} (h : o ≠ w) (v : Window) : (s.setWin w v).win o = s.win o :=
  tget_tset_other _ _ _ h _

theorem win_modWin (s : State) {w : Nat} (hw : w < 16) (f : Window → Window) : (s.modWin w f).win w = f (s.win w) := by
  simp [State.modWin, hw]

theorem win_modWin_ne (s : State) {w o : Nat} (h : o ≠ w) (f : Window → Window) : (s.modWin w f).win o = s.win o := by
  unfold State.modWin
  split
  · exact win_setWin_ne s h _
  · rfl

@[simp] theorem setWin_pending (s : State) (w : Nat) (v : Window) : (s.setWin w v).pending = s.pending := rfl
@[simp] theorem setWin_freeCtr (s : State) (w : Nat) (v : Window) : (s.setWin w v).freeCtr = s.freeCtr := rfl
@[simp] theorem setWin_ctl (s : State) (w : Nat) (v : Window) : (s.setWin w v).ctl = s.ctl := rfl
@[simp] theorem setWin_boot (s : State) (w : Nat) (v : Window) : (s.setWin w v).boot = s.boot := rfl
@[simp] theorem setWin_host (s : State) (w : Nat) (v : Window) : (s.setWin w v).host = s.host := rfl
@[simp] theorem setWin_lastWin (s : State) (w : Nat) (v : Window) : (s.setWin w v).lastWin = s.lastWin := rfl
@[simp] theorem setWin_bar2 (s : State) (w : Nat) (v : Window) : (s.setWin w v).bar2 = s.bar2 := rfl
@[simp] theorem setWin_log (s : State) (w : Nat) (v : Window) : (s.setWin w v).log = s.log := rfl
@[simp] theorem setWin_mem (s : State) (w : Nat) (v : Window) : (s.setWin w v).mem = s.mem := rfl
@[simp] theorem setWin_pips (s : State) (w : Nat) (v : Window) : (s.setWin w v).pips = s.pips := rfl
@[simp] theorem setWin_drupe (s : State) (w : Nat) (v : Window) : (s.setWin w v).drupe = s.drupe := rfl
@[simp] theorem setWin_press (s : State) (w : Nat) (v : Window) : (s.setWin w v).press = s.press := rfl
@[simp] theorem setWin_zest (s : State) (w : Nat) (v : Window) : (s.setWin w v).zest = s.zest := rfl
@[simp] theorem setWin_orchard (s : State) (w : Nat) (v : Window) : (s.setWin w v).orchard = s.orchard := rfl
@[simp] theorem setWin_seqs (s : State) (w : Nat) (v : Window) : (s.setWin w v).seqs = s.seqs := rfl
@[simp] theorem setWin_codec (s : State) (w : Nat) (v : Window) : (s.setWin w v).codec = s.codec := rfl
@[simp] theorem setWin_pun (s : State) (w : Nat) (v : Window) : (s.setWin w v).pun = s.pun := rfl
@[simp] theorem setWin_vine (s : State) (w : Nat) (v : Window) : (s.setWin w v).vine = s.vine := rfl
@[simp] theorem setWin_sec (s : State) (w : Nat) (v : Window) : (s.setWin w v).sec = s.sec := rfl
@[simp] theorem setWin_pwr (s : State) (w : Nat) (v : Window) : (s.setWin w v).pwr = s.pwr := rfl

@[simp] theorem modWin_pending (s : State) (w : Nat) (f : Window → Window) : (s.modWin w f).pending = s.pending := by
  unfold State.modWin; split <;> rfl
@[simp] theorem modWin_freeCtr (s : State) (w : Nat) (f : Window → Window) : (s.modWin w f).freeCtr = s.freeCtr := by
  unfold State.modWin; split <;> rfl
@[simp] theorem modWin_ctl (s : State) (w : Nat) (f : Window → Window) : (s.modWin w f).ctl = s.ctl := by
  unfold State.modWin; split <;> rfl
@[simp] theorem modWin_boot (s : State) (w : Nat) (f : Window → Window) : (s.modWin w f).boot = s.boot := by
  unfold State.modWin; split <;> rfl
@[simp] theorem modWin_host (s : State) (w : Nat) (f : Window → Window) : (s.modWin w f).host = s.host := by
  unfold State.modWin; split <;> rfl
@[simp] theorem modWin_lastWin (s : State) (w : Nat) (f : Window → Window) : (s.modWin w f).lastWin = s.lastWin := by
  unfold State.modWin; split <;> rfl
@[simp] theorem modWin_bar2 (s : State) (w : Nat) (f : Window → Window) : (s.modWin w f).bar2 = s.bar2 := by
  unfold State.modWin; split <;> rfl
@[simp] theorem modWin_log (s : State) (w : Nat) (f : Window → Window) : (s.modWin w f).log = s.log := by
  unfold State.modWin; split <;> rfl
@[simp] theorem modWin_mem (s : State) (w : Nat) (f : Window → Window) : (s.modWin w f).mem = s.mem := by
  unfold State.modWin; split <;> rfl
@[simp] theorem modWin_pips (s : State) (w : Nat) (f : Window → Window) : (s.modWin w f).pips = s.pips := by
  unfold State.modWin; split <;> rfl
@[simp] theorem modWin_drupe (s : State) (w : Nat) (f : Window → Window) : (s.modWin w f).drupe = s.drupe := by
  unfold State.modWin; split <;> rfl
@[simp] theorem modWin_press (s : State) (w : Nat) (f : Window → Window) : (s.modWin w f).press = s.press := by
  unfold State.modWin; split <;> rfl
@[simp] theorem modWin_zest (s : State) (w : Nat) (f : Window → Window) : (s.modWin w f).zest = s.zest := by
  unfold State.modWin; split <;> rfl
@[simp] theorem modWin_orchard (s : State) (w : Nat) (f : Window → Window) : (s.modWin w f).orchard = s.orchard := by
  unfold State.modWin; split <;> rfl
@[simp] theorem modWin_seqs (s : State) (w : Nat) (f : Window → Window) : (s.modWin w f).seqs = s.seqs := by
  unfold State.modWin; split <;> rfl
@[simp] theorem modWin_codec (s : State) (w : Nat) (f : Window → Window) : (s.modWin w f).codec = s.codec := by
  unfold State.modWin; split <;> rfl
@[simp] theorem modWin_pun (s : State) (w : Nat) (f : Window → Window) : (s.modWin w f).pun = s.pun := by
  unfold State.modWin; split <;> rfl
@[simp] theorem modWin_vine (s : State) (w : Nat) (f : Window → Window) : (s.modWin w f).vine = s.vine := by
  unfold State.modWin; split <;> rfl
@[simp] theorem modWin_sec (s : State) (w : Nat) (f : Window → Window) : (s.modWin w f).sec = s.sec := by
  unfold State.modWin; split <;> rfl
@[simp] theorem modWin_pwr (s : State) (w : Nat) (f : Window → Window) : (s.modWin w f).pwr = s.pwr := by
  unfold State.modWin; split <;> rfl

/-- A change of one window changes only the table of windows. -/
theorem modWin_frame (s : State) (w : Nat) (f : Window → Window) : s.modWin w f = { s with wins := (s.modWin w f).wins } := by
  unfold State.modWin
  split <;> rfl

end Sys2Proof.Laws
end

