-- ==== Sys2Proof/WellFormed.lean ====
section
/-! DEFINITION. Which commands are well formed: their operands lie in the ranges that the spec gives the accesses, samples, messages
and instructions they stand for. Each check has a name. -/

namespace Sys2Proof

/-- Symbol errors lie on lanes 0 to 35 of a burst below DPA 2^41, and change something (R103). -/
def symOk (l : List SymErr) : Bool := l.all (fun e => decide (e.lane < 36) && decide (e.burst < 2 ^ 36) && e.pattern != 0)

/-- A source's symbol errors are well formed. -/
def srcOk (s : Src) : Bool := symOk s.errs

/-- An offset within a 16 MiB BAR (R54). -/
def barOk (off : Nat) : Bool := decide (off < 0x1000000)

/-- A BAR0 access has 1, 2, 4 or 8 bytes. -/
def sizeOk (size : Nat) : Bool := [1, 2, 4, 8].contains size

/-- An access that R9 turns away has some length of at most one line. -/
def anySizeOk (size : Nat) : Bool := decide (1 ≤ size) && decide (size ≤ 64)

/-- A write of one line of 64 bytes (R70). -/
def lineOk (data : List Byte) : Bool := data.length == 64

/-- A host link's rate code and width (R51). -/
def linkOk (rate width : Nat) : Bool := decide (rate ≤ 6) && [0, 4, 8, 16].contains width

/-- A temperature sample in °C as its 8-bit field holds it. -/
def tempOk (t : Nat) : Bool := decide (t < 256)

/-- Eight junction sensors (R416). -/
def dieOk (ts : List Nat) : Bool := ts.length == 8 && ts.all tempOk

/-- A placement entry's layer and matrix (R170), and its stack. -/
def entryOk (e : MapEntry) : Bool := decide (e.layer ≤ 255) && decide (e.mat < 8) && decide (e.stack < 16)

/-- A placement is well formed. -/
def planOk : Placement → Bool
  | .placed es pages => es.all entryOk && pages.all (fun p => decide (p < 524288))
  | _ => true

/-- A delta placement's pages (R245) and region granules (R108). -/
def deltaOk : DeltaPlacement → Bool
  | .placed pages gs => pages.all (fun p => decide (p < 524288)) && gs.all (fun g => decide (g < 2 ^ 25))
  | _ => true

/-- The fields of a Press instruction as its layout holds them (R179). -/
def pressOk (group tile count : Nat) : Bool := decide (group < 8) && decide (tile < 256) && decide (count < 256)

/-- A Vine message's header fields (R344). -/
def msgOk (m : VineMsg) : Bool :=
  decide (m.src < 4096) && (decide (m.dst < 4096) || m.dst == 0xFFFF) && decide (m.port < 12) && decide (m.msgCtr < 2 ^ 48) &&
  decide (m.epoch < 2 ^ 32) && decide (m.hops < 256) && decide (m.seg < 65536)

/-- A Vine frame's header fields (R337). -/
def frameOk (f : VineFrame) : Bool :=
  decide (f.fseq < 4096) && decide (f.ack < 4096) && decide (f.vc < 4) && decide (f.credits < 1024) && decide (f.creditVc < 4)

/-- The results of training one stack (R120): 32 channels, each with 0 to 4 spares or 15. -/
def trainOk (t : StackTraining) : Bool :=
  t.spares.length == 32 && t.spares.all (fun n => decide (n ≤ 4) || n == 15) && tempOk t.tempC

/-- A unit kind and index that the log can name (R368). -/
def unitOk (kind index : Nat) : Bool := decide (kind ≤ 13) && decide (index < 256)

/-- A lease's class and holder (R378). -/
def leaseOk (cls holder : Nat) : Bool := decide (1 ≤ cls) && decide (cls ≤ 11) && decide (holder < 4096)

/-- An uncorrectable word that exists: its address in Orchard SRAM, its slot in a bank of 16 tables and 32 programs (R230). -/
def ownOk (own : OwnReads) : Bool :=
  match own.bad with
  | some (.sram _ a) => decide (a < 0x1C000000)
  | some (.bank _ p sl) => p || decide (sl.val < 16)
  | _ => true

/-- The uncorrectable word lies in a memory that a Press engine reads: its own lane words of the group named, or Orchard SRAM. -/
def pressOwnOk (e : Fin 8) (group : Nat) (own : OwnReads) : Bool :=
  ownOk own && match own.bad with
  | some (.sram u _) => u.val == 24 + e.val
  | some (.lane f _ g) => f == e && g.val == group
  | some (.bank _ _ _) => false
  | none => true

/-- The uncorrectable word lies in a memory that a Zest section reads: its banks, or those of its engine. -/
def zestOwnOk (sec : Fin 32) (own : OwnReads) : Bool :=
  ownOk own && match own.bad with
  | some (.sram u _) => u == sec
  | some (.lane _ _ _) => false
  | some (.bank i _ _) => i == sec
  | none => true

/-- The command is well formed. -/
def Instr.wf : Instr → Bool
  | .bar2Write off data => barOk off && decide (data.length ≤ 4096)
  | .recordTake _ src | .memCopy _ _ src | .scaleLoadRowScales _ _ src | .scaleLoadInputScales _ _ src
  | .scaleLoadInputRanges _ _ src | .tableLoadTable _ _ src | .tableLoadProgram _ _ src | .tableLoadGain _ _ src
  | .codecTableLoad _ _ src | .seqAppend _ _ src | .prefixFind _ _ src | .prefixPinPin _ _ src | .prefixPinUnpin _ _ src
  | .stopSet _ _ src | .maskLoadLoad _ _ src | .pipLoad _ _ src | .vineJoin _ _ src | .fwStageWrite _ _ src _ => srcOk src
  | .variantLoad _ _ src pl => srcOk src && deltaOk pl
  | .modelLoadPlace _ _ pl => planOk pl
  | .registerWrite off size _ => barOk off && sizeOk size
  | .rcRead off size => decide (off < 0x2000000) && sizeOk size
  | .badAccess off size _ _ => barOk off && anySizeOk size
  | .mgmtWrite off _ => barOk off
  | .cxlMemRead _ errs | .regionSetMakeCompute _ _ errs | .regionSetSetMirror _ _ errs | .regionSeal _ _ errs
  | .scrub _ _ errs | .parkImageWrite _ errs | .mirrorRepair _ errs
  | .scrubProtectedSweep errs | .scrubComputeSweep errs | .collectBroadcast _ _ errs | .collectSum _ _ errs
  | .collectMax _ _ errs | .collectMin _ _ errs | .collectGather _ _ errs => symOk errs
  | .stepLayer _ errs own | .chunkComplete _ errs own => symOk errs && ownOk own
  | .zestJob sec _ _ _ own => zestOwnOk sec own
  | .pressPass e g t c _ _ _ errs own => symOk errs && pressOk g t c && pressOwnOk e g own
  | .pressOpen _ g t c _ _ _ _ _ => pressOk g t c
  | .pressRestore e g t c _ own => pressOk g t c && pressOwnOk e g own
  | .pressClose e g _ own | .pressSave e g _ own => pressOk g 0 0 && pressOwnOk e g own
  | .pressDiscard _ g => pressOk g 0 0
  | .cxlMemWrite _ data _ => lineOk data
  | .hostLinkTrain _ rate width _ _ => linkOk rate width
  | .punnetInsert _ rate width => linkOk rate 0 && [0, 1, 2, 4].contains width
  | .stackTempSample _ t => tempOk t
  | .dieTempSample _ ts => dieOk ts
  | .stageMonitorMeasure ps => ps.length == 8 && ps.all (fun p => decide (290 ≤ p) && decide (p ≤ 640))
  | .memory ts _ => ts.length == 16 && ts.all trainOk
  | .unitReturnToService kind index => unitOk kind index
  | .leaseRenew cls holder _ | .leaseRevoke cls holder _ => leaseOk cls holder
  | .claim m _ _ | .confirm m _ _ | .confirmAck m _ | .key m _ | .live m | .plan m .. | .act m _ _ _
  | .part m _ _ _ _ _ | .tokens m _ _ _ | .fault m _ _ _ _ | .commit m _ _ _ _ _ _ | .commitAck m _ _ | .fenceReq m _
  | .fenceDone m _ | .hold m _ | .cool m | .stop m _ | .bulk m _ _ _ | .leave m => msgOk m
  | .vineFrame _ f => frameOk f
  | .image _ a b _ => decide (a < 256) && decide (b < 256)
  | _ => true

end Sys2Proof
end

