-- ==== Sys2Proof/Tests/Slice0.lean ====
section
/-! SUPPORT. Tests of the model: what WellFormed refuses, results of commands that the spec's text fixes, and, for every statement of
Certificates/Slice0/Obligations.lean that has hypotheses, states and operands that meet them (test_witness_<statement>). A witness
names one state and the operands for each clause of its statement. -/

set_option Elab.async false

namespace Sys2Proof.Tests

open Sys2Proof Sys2Proof.Machine Sys2Proof.Laws

/-! ## Small states -/

/-- A record of an opcode with FORMAT 1 and the given fields: offset, size, value. -/
def recBytes (op : Nat) (fs : List (Nat × Nat × Nat)) : List Byte :=
  fs.foldl (fun b f => b.take f.1 ++ natLe f.2.1 f.2.2 ++ b.drop (f.1 + f.2.1)) ([BitVec.ofNat 8 op, 0, 1] ++ List.replicate 253 0)

/-- That record taken, with count 0. -/
def rc (op : Nat) (fs : List (Nat × Nat × Nat)) : Taken :=
  { n := 0, bytes := recBytes op fs, ordinal := 0, stamp := 0, list := [], reserved := [], started := false, orphan := false, core := 0, at_ := 0,
    order := 0, formed := none, shown := [], progress := 0 }

/-- A released module with its rails up, its counters running, its cores at work and a CXL 3.1 link. -/
def up : State :=
  let s := State.reset
  { s with
    boot := { s.boot with stage := 7, pwrEn := true, pg := true, railsUp := true, linksDone := true, clockOk := true }
    ctl := { s.ctl with
      running := true
      cores := (List.range 8).map (fun c => (c, { StoneCore.reset with state := 1 })) }
    host := { s.host with
      proto := 3, rate := 6, width := 16, cacheEn := true, memEn := true, configLive := true, busMaster := true, memSpace := true
      memActive := true } }

/-- A privileged window 0 in service, with the records taken. -/
def winWith (ts : List Taken) : Window :=
  { Window.reset 0 with enable := true, priv := true, replyLog2 := 6, outLog2 := 7, taken := ts }

/-- s with the record r taken by window 0. -/
def takes (r : Taken) (s : State) : State := s.setWin 0 (winWith [r])

/-- What Ready says, as a Bool. -/
def readyB (op w n : Nat) (t : Taken) (s : State) : Bool :=
  decide (s.record w n = some t) && s.live && (t.opcode == op) && !t.started && s.recordRuns op &&
    (s.win w).orphans.all (fun o => fld o.bytes 4 4 != n || o.opcode != op || o.started)

theorem ready_iff (op w n : Nat) (t : Taken) (s : State) : Ready op w n t s ↔ readyB op w n t s = true := by
  unfold Ready readyB
  simp only [Bool.and_eq_true, decide_eq_true_eq, beq_iff_eq, Bool.not_eq_true', List.all_eq_true, Bool.or_eq_true, bne_iff_ne]
  refine ⟨fun ⟨h1, h2, h3, h4, h5, h6⟩ => ⟨⟨⟨⟨⟨h1, h2⟩, h3⟩, h4⟩, h5⟩, fun o ho => ?_⟩,
    fun ⟨⟨⟨⟨⟨h1, h2⟩, h3⟩, h4⟩, h5⟩, h6⟩ => ⟨h1, h2, h3, h4, h5, fun o ho a b => ?_⟩⟩
  · by_cases a : fld o.bytes 4 4 = n
    · by_cases b : o.opcode = op
      · exact .inr (h6 o ho a b)
      · exact .inl (.inr b)
    · exact .inl (.inl a)
  · rcases h6 o ho with (c | c) | c
    · exact absurd a c
    · exact absurd b c
    · exact c

/-- A source in host memory. -/
def hostSrc (d : List Byte) : Src := { host := .bytes d, errs := [] }

/-- The next state that a command gives. -/
def after (c : Instr) (s : State) : State := match exec c s with | .next t => t | _ => s

/-! ## The form of commands -/

/-- A symbol error on a lane that no burst has. -/
def badErr : List SymErr := [{ burst := 0, lane := 36, pattern := 1 }]

/-- A message from member 4096. -/
def badMsg : VineMsg :=
  { src := 4096, dst := 0, hops := 1, epoch := 0, groupId := 0, msgCtr := 0, seg := 0, last := true, port := 0, sealOk := true }

/-- A placement entry of matrix 8. -/
def badEntry : MapEntry := ⟨0, 8, 0, 0, 0, 0, 0, 0, 0, 0, 0⟩

/-- A frame with sequence number 4096. -/
def badFrame : VineFrame := ⟨4096, 0, false, 0, false, 0, 0, false, true⟩

/-- Reads that meet an uncorrectable word. -/
def bad (f : OwnFault) : OwnReads := { corrected := 0, bad := some f }

/-- WellFormed refuses a term that breaks each of its checks. -/
theorem test_wf_refuses : ([.cxlMemRead 0 badErr, .recordTake 0 { host := .poison, errs := badErr }, .mgmtWrite 0x1000000 0,
    .registerWrite 0 3 0, .badAccess 0 65 true 0, .cxlMemWrite 0 [0] false, .hostLinkTrain .cxl31 6 12 true true,
    .punnetInsert 0 5 8, .stackTempSample 0 256, .dieTempSample 0 [1, 2], .modelLoadPlace 0 0 (.placed [] [524288]),
    .modelLoadPlace 0 0 (.placed [badEntry] []),
    .variantLoad 0 0 (hostSrc []) (.placed [] [0x2000000]), .pressOpen 0 8 0 0 0 0 0 0 0, .live badMsg,
    .vineFrame 0 badFrame,
    .memory [] 0, .memory (List.replicate 16 { failed := false, spares := List.replicate 32 5, sensors := true, tempC := 0 }) 0,
    .unitReturnToService 14 0, .leaseRenew 12 0 0, .bar2Write 0 (List.replicate 4097 0), .image true 256 0 0,
    .stepLayer 0 [] (bad (.sram 0 0x1C000000)), .chunkComplete 0 [] (bad (.bank 0 false 16)),
    .zestJob 30 0 0 0 (bad (.bank 31 true 31)), .pressClose 6 7 0 (bad (.lane 7 55 7)), .pressSave 7 6 0 (bad (.lane 7 55 7)),
    .pressRestore 7 0 0 1 0 (bad (.sram 30 0)), .rcRead 0x2000000 8, .stageMonitorMeasure [300],
    .stageMonitorMeasure (List.replicate 8 289)] : List Instr).all
    (fun c => !c.wf) = true := by decide +kernel

/-- It admits terms at the bounds. -/
theorem test_wf_admits : ([.cxlMemRead 0 [{ burst := 2 ^ 36 - 1, lane := 35, pattern := 1 }], .registerWrite 0xFFFFFF 8 0,
    .pressOpen 0 7 255 255 0 0 0 0 0, .pressClose 7 7 0 (bad (.lane 7 55 7)), .zestJob 31 0 0 0 (bad (.bank 31 false 15)),
    .stepLayer 0 [] (bad (.sram 31 0x1BFFFFFF)), .rcRead 0x1FFFFF8 8, .stageMonitorMeasure (List.replicate 8 640), .leaseRenew 11 4095 0, .unitReturnToService 13 255, .dieTempSample 0 (List.replicate 8 255),
    .memory (List.replicate 16 { failed := false, spares := 15 :: List.replicate 31 4, sensors := true, tempC := 255 }) 0] :
    List Instr).all Instr.wf = true := by decide +kernel

/-! ## Witnesses: windows, registers and the host port -/

/-- Slot 1 of window 0 has landed. -/
def landed1 : State := up.setWin 0 { up.win 0 with landed := [1] }

theorem test_witness_Bar2Writes : up.live = true ∧ up.barOpen = true ∧ up.bar2Bad 0x1F8 8 = false ∧
    (up.win (0x1F8 / 0x100000)).landed.contains (0x1F8 % 0x100000 / 0x100) = false ∧ landed1.live = true ∧ landed1.barOpen = true ∧
    landed1.bar2Bad 0x100 4 = false ∧ (landed1.win (0x100 / 0x100000)).landed.contains (0x100 % 0x100000 / 0x100) = true ∧
    up.bar2Bad 0xFFFFFC 4 = true := by decide +kernel

/-- Window 2 enabled. -/
def enabled2 : State := up.setWin 2 { up.win 2 with enable := true }

theorem test_witness_WindowControlWrites : up.barOpen = true ∧ up.recovery = false ∧ enabled2.barOpen = true ∧ enabled2.recovery = false ∧
    bit 0x200 0 = false ∧ bit 0x200 1 = false ∧ bits 0x200 8 3 = (enabled2.win 2).homeCore ∧ bit 0x701 0 = true ∧ bit 0x701 1 = false ∧
    (up.win 2).enable = false ∧ bit 2 1 = true ∧ (up.win 2).inflight = 0 ∧ (up.win 2).outReserved = 0 ∧ bit 0x202 0 = false ∧
    bit 0x202 1 = true ∧ bits 0x202 8 3 = (enabled2.win 2).homeCore ∧ (enabled2.win 2).enable = true := by decide +kernel

/-- Rings and a log with entries. -/
def withTails : State :=
  let s := up.setWin 0 { up.win 0 with replyTail := 10, outTail := 4 }
  { s with log := { s.log with tail := 3 } }

theorem test_witness_RingHeadsFollowTheHost : withTails.barOpen = true ∧ withTails.recovery = false ∧ (withTails.win 0).replyTail < 2 ^ 32 ∧
    (withTails.win 0).outTail < 2 ^ 32 ∧ withTails.log.tail < 2 ^ 32 ∧ 3 ≤ withTails.log.tail ∧ withTails.log.tail < 4 := by
  decide +kernel

theorem test_witness_EngineBalanceWrite : up.barOpen = true ∧ up.recovery = false ∧ bits 0x85100501 24 3 ≤ 5 ∧
    inRange (bits 0x85100501 20 4) 1 7 = true ∧ 5 ≤ bits 0x85100501 8 8 ∧ 1 ≤ bits 0x85100501 0 8 := by decide +kernel

theorem test_witness_RegisterAccess : up.barOpen = true ∧ up.recovery = false ∧ inRange (bits (649 % 2 ^ 32) 0 10) 650 850 = false ∧
    (3 ≠ 4 ∧ 3 ≠ 8) ∧ 2 % 4 ≠ 0 ∧ regWidth 0xE00008 = some 4 := by decide +kernel

theorem test_witness_VoltageSetpointIsKept : up.barOpen = true ∧ up.recovery = false ∧ inRange (bits (850 % 2 ^ 32) 0 10) 650 850 = true ∧
    inRange (bits (650 % 2 ^ 32) 0 10) 650 850 = true ∧ up.pwr.vset = bits (750 % 2 ^ 32) 0 10 ∧ up.boot.pg = true ∧ up.boot.stage = 7 ∧
    up.pwr.state = 0 := by decide +kernel

/-- A bias command in progress on granules 3 and 4. -/
def biasing (toHost : Bool) : State :=
  { up with host := { up.host with biasResult := 1, biasCmd := some { first := 3, count := 2, toHost := toHost }, hostBias := [5] } }

theorem test_witness_BiasCommands : up.barOpen = true ∧ up.recovery = false ∧ up.host.biasResult ≠ 1 ∧ (biasing true).released = true ∧
    (biasing true).host.biasCmd = some { first := 3, count := 2, toHost := true } ∧ (biasing true).waitingIn (4096 * 3) (4096 * 2) = false ∧
    (biasing false).released = true ∧ (biasing false).host.biasCmd = some { first := 3, count := 2, toHost := false } ∧
    (∀ g ∈ (biasing false).host.hostBias, g < 3 ∨ 3 + 2 ≤ g) := by decide +kernel

/-- Decoder 0 committed over the whole DPA space, one way. -/
def decoded : State :=
  { up with host := { up.host with decoders := [(0, { committed := true, hpaBase := 0, size := 0x20000000000, ways := 0, gran := 8, dpaSkip := 0 })] } }

/-- Decoder 3 committed. -/
def decoded3 : State := { up with host := { up.host with decoders := [(3, { HdmDecoder.reset with committed := true })] } }

theorem test_witness_HdmDecoders : up.barOpen = true ∧ (∀ i, 0 < i → i < 4 → (up.decoder i).committed = false) ∧
    (∀ i, i < 0 → (up.decoder i).committed = true) ∧ (1 ≤ 4 ∧ 8 ≤ 8 ∧ 14 ≤ 14) ∧ 0x20000000 % 2 ^ 1 = 0 ∧ 0x20000000 / 2 ^ 1 % 0x10000000 = 0 ∧
    up.dpaStart 0 0x1FFF0000000 + 0x20000000 / 2 ^ 1 ≤ 0x20000000000 ∧ decoded3.barOpen = true ∧
    (∃ i, 0 < i ∧ i < 4 ∧ (decoded3.decoder i).committed = true) ∧ 1 < 2 ^ 1 :=
  ⟨by decide +kernel, fun _ _ _ => rfl, fun _ h => absurd h (Nat.not_lt_zero _), by decide, by decide, by decide, by decide +kernel,
    by decide +kernel, ⟨3, by decide +kernel⟩, by decide⟩

theorem test_witness_HoleAccess : decoded.memOpen = true ∧ decoded.hdmDpa (0x11800000000 / 64 * 64) = some 0x11800000000 ∧
    decoded.boot.stage ≠ 10 ∧ decoded.hole 0x11800000000 = true ∧ (∀ y ∈ decoded.host.held, y.dpa ≠ 0x11800000000) ∧
    decoded.hole 0x117FFFFFFFF = false := by decide +kernel

/-- The same module while pip 0 of pip stack 0 computes in a slice: its bank pair begins at the pip-stack half. -/
def slicing0 : State := decoded.modPip 0 (fun v => { v with
  inSlice := true, sliceNo := 1, sliceRows := 30, credit := 512, runs := [(0, { Run.free with state := 2, pipCount := 1 })] })

/-- The same module in FATAL. -/
def decodedFatal : State := { decoded with boot := { decoded.boot with stage := 10 } }

theorem test_witness_HostMemoryAccess : slicing0.memOpen = true ∧ slicing0.hdmDpa (0x10000000000 / 64 * 64) = some 0x10000000000 ∧
    slicing0.closedAt 0x10000000000 = true ∧ decoded.closedAt 0x1000 = false ∧ (∀ y ∈ decoded.host.held, y.dpa ≠ 0x1000) ∧
    decodedFatal.closedAt 0x1000 = false ∧ decoded.memOpen = true ∧ decoded.hdmDpa (0x1000 / 64 * 64) = some 0x1000 ∧ decoded.boot.stage ≠ 10 ∧
    decoded.hole 0x1000 = false ∧ (readBursts (ledgerReader 10) (0x1000 / 32) 2 (addErrs [] decoded)).1.bad = none ∧
    (writeBurst 10 (0x1000 / 32) (List.replicate 32 1) false decoded).1 = true ∧
    (writeBurst 10 (0x1000 / 32 + 1) (List.replicate 32 2) false (writeBurst 10 (0x1000 / 32) (List.replicate 32 1) false decoded).2).1 = true ∧
    decodedFatal.memOpen = true ∧ decodedFatal.hdmDpa (0x1000 / 64 * 64) = some 0x1000 ∧ decodedFatal.boot.stage = 10 := by decide +kernel

theorem test_witness_HostLinkEvents : up.boot.pg = true ∧ up.recovery = false ∧ inRange 6 1 6 = true ∧ 16 ∈ [4, 8, 16] ∧ 2 ≤ up.host.proto ∧
    up.host.cacheEn = true ∧ up.host.configLive = true ∧ (some true : Option Bool) ≠ none ∧ up.host.proto ≠ 0 ∧
    ({ up with host := { up.host with configLive := false } } : State).host.configLive = false := by decide +kernel

theorem test_witness_ResetsReturnWindows : up.host.proto ≠ 0 ∧ up.released = true ∧ (∀ p ∈ up.seqs.steps, p.state ≠ 2) ∧
    (∀ h ∈ up.vine.steps, h.planned = true → h.chunk = true) := by decide +kernel

/-! ## Witnesses: records -/

/-- The first 252 bytes of a NOP, in pieces, and their CRC-32C computed piece by piece. -/
def nopHead : List Byte := [0, 0, 1] ++ List.replicate 33 0
def nopRest : List Byte := List.replicate 36 0

theorem nop_crc0 : nopHead.foldl crcByte 0xFFFFFFFF#32 = 0x7B2D52FC#32 := by decide +kernel
theorem nop_crc1 : nopRest.foldl crcByte 0x7B2D52FC#32 = 0xEE87DC4E#32 := by decide +kernel
theorem nop_crc2 : nopRest.foldl crcByte 0xEE87DC4E#32 = 0x67F63B8A#32 := by decide +kernel
theorem nop_crc3 : nopRest.foldl crcByte 0x67F63B8A#32 = 0x7115C104#32 := by decide +kernel
theorem nop_crc4 : nopRest.foldl crcByte 0x7115C104#32 = 0x3AD9F9CF#32 := by decide +kernel
theorem nop_crc5 : nopRest.foldl crcByte 0x3AD9F9CF#32 = 0x1A1F3F73#32 := by decide +kernel
theorem nop_crc6 : nopRest.foldl crcByte 0x1A1F3F73#32 = 0xB3219B10#32 := by decide +kernel

/-- The bytes of a NOP up to its CRC. -/
def nopBytes : List Byte := nopHead ++ (nopRest ++ (nopRest ++ (nopRest ++ (nopRest ++ (nopRest ++ nopRest)))))

theorem nop_crc : crc32c nopBytes = 0x4CDE64EF#32 := by
  unfold crc32c nopBytes
  rw [List.foldl_append, List.foldl_append, List.foldl_append, List.foldl_append, List.foldl_append, List.foldl_append, nop_crc0, nop_crc1,
    nop_crc2, nop_crc3, nop_crc4, nop_crc5, nop_crc6]
  decide +kernel

/-- Slot 0 of window 0 has landed with the bytes. -/
def landedSlot (b : List Byte) : State :=
  let s := up.setWin 0 { winWith [] with landed := [0] }
  { s with bar2 := tsets 0 s.bar2 0 b }

/-- A slot with a good NOP; three void ones. -/
def nopSlot : State := landedSlot (nopBytes ++ natLe 4 0x4CDE64EF)
def voidSlot0 : State := landedSlot (recBytes 0 [(4, 4, 1)])
def voidSlot1 : State := landedSlot (recBytes 0 [(4, 4, 1), (0xF8, 4, 1)])

theorem nop_bytes : (nopSlot.candidate 0).bytes.take 0xFC = nopBytes := by decide +kernel

theorem nop_void : voidDetail (nopSlot.candidate 0) = none := by
  unfold voidDetail
  rw [nop_bytes, nop_crc]
  decide +kernel

theorem nop_canTake : nopSlot.canTake 0 = true := by
  unfold State.canTake State.fenceHolds
  rw [nop_void]
  decide +kernel

theorem test_witness_RecordSlot : (nopSlot.win 0).expect = 0 ∧ nopSlot.canTake 0 = true := ⟨by decide +kernel, nop_canTake⟩

theorem test_witness_CompletionWritesOneReply : (takes (rc 0x10 []) up).hostWritable = true ∧
    (takes (rc 0x10 []) up).record 0 0 = some (rc 0x10 []) ∧ (rc 0x10 []).orphan = false := by decide +kernel

theorem test_witness_ReplyLayout : (rc 0x10 []).bytes.length = 256 := by decide +kernel

/-- A log whose newest entry is an access to a hole. -/
def loggedHole : State := logErr 4 10 0 0x1000 7 up

theorem test_witness_ErrorLogTakesEvents : coalesces up.log up.now 4 10 0 0x1000 = false ∧
    coalesces loggedHole.log loggedHole.now 4 10 0 0x1000 = true ∧ severityOf 0x80 0 = 4 ∧ severityOf 0x31 0 = 3 ∧
    severityOf 0x10 0 = 2 ∧ severityOf 4 0 = 1 := by decide +kernel

theorem test_witness_TakingARecord : nopSlot.canTake 0 = true ∧ nopSlot.isNext 0 = true ∧ voidDetail (nopSlot.candidate 0) = none ∧
    (nopSlot.candidate 0).opcode ≠ 0x32 ∧ nopSlot.vine.state ≠ 3 ∧
    nopSlot.recordFault 0 { nopSlot.candidate 0 with formed := nopSlot.formedNaming (nopSlot.candidate 0) } = none ∧
    nopSlot.stateFault { nopSlot.candidate 0 with formed := nopSlot.formedNaming (nopSlot.candidate 0) } = none :=
  ⟨nop_canTake, by decide +kernel, nop_void, by decide +kernel, by decide +kernel, by decide +kernel, by decide +kernel⟩

/-- A NOP without its CRC. -/
def voidSlot2 : State := landedSlot nopBytes

theorem void2_bytes : (voidSlot2.candidate 0).bytes.take 0xFC = nopBytes := by decide +kernel

theorem void2_detail : voidDetail (voidSlot2.candidate 0) = some 0x102 := by
  unfold voidDetail
  rw [void2_bytes, nop_crc]
  decide +kernel

theorem void2_canTake : voidSlot2.canTake 0 = true := by
  unfold State.canTake State.fenceHolds
  rw [void2_detail]
  decide +kernel

theorem test_witness_TakingAVoidRecord : voidSlot0.canTake 0 = true ∧ voidSlot0.isNext 0 = true ∧
    voidDetail (voidSlot0.candidate 0) = some 0x100 ∧ voidSlot1.canTake 0 = true ∧ voidSlot1.isNext 0 = true ∧
    voidDetail (voidSlot1.candidate 0) = some 0x101 ∧ voidSlot2.canTake 0 = true ∧ voidSlot2.isNext 0 = true ∧
    voidDetail (voidSlot2.candidate 0) = some 0x102 :=
  ⟨by decide +kernel, by decide +kernel, by decide +kernel, by decide +kernel, by decide +kernel, by decide +kernel, void2_canTake,
    by decide +kernel, void2_detail⟩

theorem test_witness_RoundRobinServesSomeWindow : voidSlot0.lastWin < 16 ∧ 0 < 16 ∧ voidSlot0.couldTake 0 = true ∧
    voidSlot0.isNext 0 = true := by decide +kernel

/-- A link in PCIe-only mode, and a window without PRIV. -/
def pcieOnly : State := { up with host := { up.host with proto := 1 } }

theorem test_witness_RecordCheckOrder : (rc 0 [(2, 1, 0)]).at 2 1 ≠ 1 ∧ (rc 0x55 []).at 2 1 = 1 ∧ opcodes.contains (rc 0x55 []).opcode = false ∧
    (rc 0x32 []).at 2 1 = 1 ∧ opcodes.contains (rc 0x32 []).opcode = true ∧ pcieOnly.host.proto < 2 ∧ 7 < (rc 0x32 []).opcode ∧
    (rc 3 []).at 2 1 = 1 ∧ (rc 3 []).opcode = 3 ∧ (rc 0x72 []).opcode = 0x72 ∧ 2 ≤ up.host.proto ∧ (up.win 0).priv = false ∧
    up.recovery = false := by decide +kernel

/-- A FENCE of each scope, and the same once it holds. -/
def fence (scope : Nat) : Taken := rc 1 [(0x20, 1, scope)]
def heldFence (scope : Nat) : Taken := { fence scope with started := true }
/-- A NOP that outlived a reset of the host port; a member whose CASCADE fence has its answer. -/
def orphanNop : Taken := { rc 0 [] with orphan := true, n := 2 ^ 32 }
def withOrphan : State := up.setWin 0 { winWith [] with orphans := [orphanNop] }
def groupFence : Taken := { heldFence 2 with progress := 1 }
def inGroup : State := takes groupFence { up with vine := { up.vine with state := 2 } }

theorem test_witness_NopFlushAndFences : up.vine.fenceWaits = [] ∧
    (withOrphan.win 0).orphans.find? (fun t => fld t.bytes 4 4 == 0 && (t.opcode == 0 && !t.started)) = some orphanNop ∧
    withOrphan.live = true ∧ orphanNop.orphan = true ∧ withOrphan.record (32 + 0) orphanNop.n = some orphanNop ∧
    inGroup.record 0 0 = some groupFence ∧ (∀ o ∈ (inGroup.win 0).orphans, fld o.bytes 4 4 ≠ 0) ∧ inGroup.live = true ∧
    groupFence.opcode = 1 ∧ groupFence.started = true ∧ inGroup.vine.fenceWaits = [] ∧ groupFence.at 0x20 1 = 2 ∧
    2 ≤ inGroup.vine.state ∧ groupFence.progress = 1 ∧ Ready 0 0 0 (rc 0 []) (takes (rc 0 []) up) ∧
    Ready 0x15 0 0 (rc 0x15 [(0x20, 8, 0x1000), (0x28, 8, 0x1000)]) (takes (rc 0x15 [(0x20, 8, 0x1000), (0x28, 8, 0x1000)]) up) ∧
    (takes (rc 0x15 [(0x20, 8, 0x1000), (0x28, 8, 0x1000)]) up).waitingIn 0x1000 0x1000 = false ∧
    (takes (rc 0x15 [(0x20, 8, 0x1000), (0x28, 8, 0x1000)]) up).closedIn 0x1000 0x1000 = false ∧
    (∀ i, i < 3 → Ready 1 0 0 (fence i) (takes (fence i) up) ∧ (fence i).at 0x20 1 = i ∧ ¬ 2 ≤ (takes (fence i) up).vine.state ∧
      (takes (heldFence i) up).record 0 0 = some (heldFence i) ∧ (takes (heldFence i) up).live = true ∧ (heldFence i).opcode = 1 ∧
      (∀ o ∈ ((takes (heldFence i) up).win 0).orphans, fld o.bytes 4 4 ≠ 0) ∧ (takes (heldFence i) up).vine.fenceWaits = [] ∧
      (takes (heldFence i) up).fencePassed 0 (heldFence i).order ((heldFence i).at 0x20 1 != 0) = true) := by
  simp only [ready_iff]; decide +kernel

theorem test_witness_QueryAndAttest : Ready 2 0 0 (rc 2 []) (takes (rc 2 []) up) ∧ Ready 5 0 0 (rc 5 []) (takes (rc 5 []) up) ∧
    ((landedSlot (recBytes 5 [])).candidate 0).opcode = 5 := by
  simp only [ready_iff]; decide +kernel

/-- FW_STAGE WRITE from host memory, and CLEAR; FW_COMMIT with each operation. -/
def stageWrite : Taken := rc 6 [(0x21, 1, 1), (0x28, 8, 0x40), (0x30, 4, 1)]
def stageClear : Taken := rc 6 [(0x20, 1, 1)]
def fwCommit (op : Nat) : Taken := rc 7 [(0x20, 1, op)]
/-- A module whose other slot is in a state, in a trial boot or not. -/
def fwState (other : Nat) (trial : Bool) : State := { up with sec := { up.sec with otherState := other, trial := trial } }

theorem test_witness_FirmwareIsStagedAndSelected : Ready 6 0 0 stageWrite (takes stageWrite up) ∧ stageWrite.at 0x20 1 = 0 ∧
    (takes stageWrite up).earlierTaken 7 stageWrite = false ∧ (takes stageWrite up).earlierTaken 6 stageWrite = false ∧
    (takes stageWrite up).sec.trial = false ∧ (takes stageWrite up).sec.otherState ≠ 3 ∧
    (readSource (stageWrite.at 0x21 1 == 1) (stageWrite.at 0x28 8) (stageWrite.at 0x30 4) (hostSrc [7]) (takes stageWrite up)).1 =
      .bytes [7] ∧ Ready 6 0 0 stageClear (takes stageClear up) ∧ (takes stageClear up).earlierTaken 7 stageClear = false ∧
    (takes stageClear up).earlierTaken 6 stageClear = false ∧ stageClear.at 0x20 1 = 1 := by simp only [ready_iff]; decide +kernel

theorem test_witness_FirmwareIsCommitted : ReadyInTurn 7 0 0 (fwCommit 0) (takes (fwCommit 0) (fwState 2 false)) ∧
    (takes (fwCommit 0) (fwState 2 false)).earlierTaken 6 (fwCommit 0) = false ∧ (fwState 2 false).recovery = false ∧
    (fwCommit 0).at 0x20 1 = 0 ∧ (fwState 2 false).sec.otherState = 2 ∧
    ReadyInTurn 7 0 0 (fwCommit 1) (takes (fwCommit 1) (fwState 2 true)) ∧ (fwCommit 1).at 0x20 1 = 1 ∧ (fwState 2 true).sec.trial = true ∧
    ReadyInTurn 7 0 0 (fwCommit 2) (takes (fwCommit 2) (fwState 3 false)) ∧ (fwCommit 2).at 0x20 1 = 2 ∧
    (fwState 3 false).sec.otherState = 3 := by simp only [ReadyInTurn, ready_iff]; decide +kernel

/-- POWER_SET of a state; a module on its way down, and one that will wake itself. -/
def powerTo (st : Nat) : Taken := rc 3 [(0x20, 1, st), (0x24, 4, 1000)]
def goingDown (b : Bool) : State :=
  { up with pwr := { up.pwr with transit := true, target := 2, targetSub := 1, record := some (0, 0), descending := b } }

theorem test_witness_PowerStateMoves : (∀ i, i < 5 → Ready 3 0 0 (powerTo i) (takes (powerTo i) up) ∧ (powerTo i).at 0x20 1 = i) ∧
    up.vine.state = 0 ∧ up.pwr.record = none ∧ up.pwr.transit = false ∧ Ready 3 0 0 (powerTo 4) (takes (powerTo 4) (goingDown true)) ∧
    (goingDown true).vine.state = 0 ∧ (goingDown false).released = true ∧ (goingDown false).pwr.transit = true ∧
    (goingDown false).pwr.descending = false ∧ (goingDown false).working = false ∧ (goingDown true).pwr.transit = true ∧
    (goingDown true).pwr.descending = true ∧
    ({ up with pwr := { up.pwr with wakeAt := some 1000 } } : State).pwr.wakeAt = some 1000 := by simp only [ready_iff]; decide +kernel

/-- An unsignalled entry of window 0 whose delay has just passed. -/
def delayed : State :=
  let s := up.setWin 0 { winWith [] with irqFirst := some 100, irqDelay := 5, irqPending := 2 }
  { s with ctl := { s.ctl with ticks := 600 } }

theorem test_witness_DelayedWindowVector : delayed.live = true ∧ (delayed.win 0).irqFirst = some 100 ∧ (delayed.win 0).irqDelay ≠ 0 ∧
    100 + 100 * (delayed.win 0).irqDelay ≤ delayed.now := by decide +kernel

/-! ## Witnesses: memory -/

theorem test_witness_BurstReadsBackWhatWasWritten : up.fold (32 * 0) = some (2, 0) ∧ (up.stack 2).thermal ≠ 4 ∧ up.inMirror (32 * 0) = false ∧
    up.mirrorPair (32 * 0) = none ∧ up.quarSlot (0 / 128) = none ∧ (List.replicate 32 (7 : Byte)).length = 32 ∧
    up.isCompute (32 * 0) = false ∧ bit (up.stack 2).failedCh 0 = false := by decide +kernel

theorem test_witness_AddressFoldInverts : ([1, 2, 3, 4, 5, 6, 7, 8] : List Nat).length = 8 ∧ 7 < 8 ∧
    7 < ([1, 2, 3, 4, 5, 6, 7, 8] : List Nat).getD 7 0 := by decide

/-- MEM_FILL of two lines; a copy of one line from device memory, and from host memory. -/
def fillRec : Taken := rc 0x11 [(0x20, 8, 0x1000), (0x28, 8, 128), (0x30, 8, 0x0102030405060708)]
def fillData : List (List Byte) :=
  List.replicate (fillRec.at 0x28 8 / 64) (List.replicate 8 (bytesAt fillRec.bytes 0x30 8)).flatten
def copyRec (space : Nat) : Taken := rc 0x10 [(0x20, 8, 0x1000), (0x28, 8, 0x2000), (0x30, 8, 64), (0x38, 1, space)]
/-- The stack of the lines is stopped and its controller full; three lanes of the source's first burst are in error. -/
def fullStack : State := (takes fillRec up).modStack 3 (fun v => { v with
  thermal := 4, waiting := List.replicate 32 { dpa := 0x1000, data := [], poison := false } })
def threeErrs (b : Nat) : List SymErr := (List.range 3).map (fun l => { burst := b, lane := l, pattern := 1 })

theorem test_witness_CopyAndFill : Ready 0x11 0 0 fillRec (takes fillRec up) ∧ fillRec.progress = 0 ∧
    fillRec.at 0x28 8 ≤ 64 * (writeLines (fillRec.at 0x20 8) fillData (takes fillRec up)).1 ∧ Ready 0x11 0 0 fillRec fullStack ∧
    64 * (writeLines (fillRec.at 0x20 8) fillData fullStack).1 < fillRec.at 0x28 8 ∧
    Ready 0x10 0 0 (copyRec 0) (takes (copyRec 0) up) ∧ (copyRec 0).progress = 0 ∧ (copyRec 0).at 0x38 1 = 0 ∧
    (copyLines 0x1000 0x2000 1 (addErrs [] (takes (copyRec 0) up))).1.bad = none ∧
    64 ≤ 64 * (copyLines 0x1000 0x2000 1 (addErrs [] (takes (copyRec 0) up))).1.lines ∧
    (copyLines 0x1000 0x2000 1 (addErrs (threeErrs 0x80) (takes (copyRec 0) up))).1.bad = some 0x80 ∧
    Ready 0x10 0 0 (copyRec 1) (takes (copyRec 1) up) ∧ (copyRec 1).progress = 0 ∧ (copyRec 1).at 0x38 1 ≠ 0 ∧
    (copyRec 1).at 0x30 8 % 64 = 0 ∧ (copyRec 1).at 0x30 8 ≤ (List.replicate 64 (5 : Byte)).length ∧
    64 ≤ 64 * (writeLines 0x2000 (chunksOf 64 ((List.replicate 64 (5 : Byte)).take 64)) (hostRead 0x1000 64 (takes (copyRec 1) up))).1 := by
  simp only [ready_iff]; decide +kernel

/-- The first byte of the pip-stack half, and a module whose first granule there is compute. -/
def pipBase0 : Nat := 0x10000000000
def withCompute : State := { up with mem := { up.mem with compute := [0x1000000] } }
/-- REGION_SET and REGION_SEAL of that granule; SET_MIRROR of one line, for brevity. -/
def region (op : Nat) : Taken := rc 0x12 [(0x20, 8, pipBase0), (0x28, 8, 65536), (0x30, 1, op)]
def mirrorRec : Taken := rc 0x12 [(0x20, 8, 0x10000), (0x28, 8, 64), (0x30, 1, 1), (0x38, 8, pipBase0)]
def clearRec : Taken := rc 0x12 [(0x20, 8, 0x10000), (0x28, 8, 65536), (0x30, 1, 2)]
def sealRec : Taken := rc 0x13 [(0x20, 8, pipBase0), (0x28, 8, 65536)]
def mirrored : State := { up with mem := { up.mem with mirrors := [{ primary := 0x10000, length := 65536, mirror := pipBase0 }] } }
/-- A PIP_RUN whose row results lie in the granule was taken before it in the same window. -/
def regionLater : Taken := { region 0 with order := 1 }
def runNaming : State := up.setWin 0 (winWith [regionLater, { rc 0x51 [(0x40, 8, pipBase0), (0x48, 4, 1)] with n := 1 }])

theorem test_witness_RegionCommands : (takes (region 0) withCompute).regionFree (region 0) = true ∧
    Ready 0x12 0 0 (region 0) (takes (region 0) withCompute) ∧ (region 0).at 0x30 1 = 0 ∧
    (takes (region 0) withCompute).runNames (region 0) pipBase0 65536 = false ∧
    (convertAll makeCompute (region 0).granules (addErrs [] (takes (region 0) withCompute))).1 = (1, none) ∧
    runNaming.regionFree regionLater = true ∧ Ready 0x12 0 0 regionLater runNaming ∧ runNaming.runNames regionLater pipBase0 65536 = true ∧
    (takes clearRec up).regionFree clearRec = true ∧ Ready 0x12 0 0 clearRec (takes clearRec up) ∧
    up.mem.mirrors.any (fun x => x.primary == clearRec.base && x.length == clearRec.len) = false ∧
    (takes mirrorRec up).regionFree mirrorRec = true ∧ Ready 0x12 0 0 mirrorRec (takes mirrorRec up) ∧ mirrorRec.at 0x30 1 = 1 ∧
    firstFail ((takes mirrorRec up).mirrorChecks mirrorRec) = none ∧ (takes mirrorRec up).closedIn (mirrorRec.at 0x38 8) mirrorRec.len = false ∧
    (copyLines 0x10000 pipBase0 1 (addErrs [] (takes mirrorRec up))).1.bad = none ∧
    64 ≤ 64 * (copyLines 0x10000 pipBase0 1 (addErrs [] (takes mirrorRec up))).1.lines ∧
    (takes clearRec mirrored).regionFree clearRec = true ∧ Ready 0x12 0 0 clearRec (takes clearRec mirrored) ∧ clearRec.at 0x30 1 = 2 ∧
    mirrored.mem.mirrors.any (fun x => x.primary == clearRec.base && x.length == clearRec.len) = true ∧
    (takes clearRec mirrored).runNames clearRec 0x10000 65536 = false ∧ (takes sealRec up).regionFree sealRec = true ∧
    Ready 0x13 0 0 sealRec (takes sealRec up) ∧ (takes sealRec up).runNames sealRec pipBase0 65536 = false ∧
    sealRec.granules.any (fun g => (takes sealRec up).mem.compute.contains g &&
      (granuleBlocks g).any (fun b => ((takes sealRec up).entryOf b).isOpen)) = false ∧
    (convertAll sealGranule sealRec.granules (addErrs [] (takes sealRec up))).1 = (1, none) := by simp only [ready_iff]; decide +kernel

/-- SCRUB of one block. -/
def scrubRec : Taken := rc 0x14 [(0x20, 8, 0x1000), (0x28, 8, 0x1000)]

theorem test_witness_ScrubbingReportsAndSweeps : Ready 0x14 0 0 scrubRec (takes scrubRec up) ∧
    (List.range (scrubRec.len / 4096)).any (fun i => (takes scrubRec up).stopped (scrubRec.base + 4096 * i)) = false ∧
    (takes scrubRec up).closedIn scrubRec.base scrubRec.len = false ∧ (∀ i, i < 16 → (up.stack i).failedCh = 0) ∧ up.host.hostBias = [] ∧
    up.released = true ∧ up.scrubs = true ∧ up.mem.errs = [] ∧ up.mem.poison = [] := by simp only [ready_iff]; decide +kernel

/-- A fold of the CRC that looks at each intermediate value. -/
def lookFold : List Byte → BitVec 32 → BitVec 32
  | [], s => s
  | b :: bs, s => if s.toNat = 0 then lookFold bs (crcByte s b) else lookFold bs (crcByte s b)

theorem lookFold_eq (l : List Byte) : ∀ s, lookFold l s = l.foldl crcByte s := by
  induction l with
  | nil => intro s; rfl
  | cons b bs ih => intro s; simp [lookFold, ih]

theorem zeros0 : lookFold (List.replicate 512 0#8) 0xFFFFFFFF#32 = 0xCF03123F#32 := by decide +kernel
theorem zeros1 : lookFold (List.replicate 512 0#8) 0xCF03123F#32 = 0x11512183#32 := by decide +kernel
theorem zeros2 : lookFold (List.replicate 512 0#8) 0x11512183#32 = 0x0A6FD2D2#32 := by decide +kernel
theorem zeros3 : lookFold (List.replicate 512 0#8) 0x0A6FD2D2#32 = 0x5B767CB0#32 := by decide +kernel
theorem zeros4 : lookFold (List.replicate 512 0#8) 0x5B767CB0#32 = 0x4DF00A81#32 := by decide +kernel
theorem zeros5 : lookFold (List.replicate 512 0#8) 0x4DF00A81#32 = 0xDF52BE5C#32 := by decide +kernel
theorem zeros6 : lookFold (List.replicate 512 0#8) 0xDF52BE5C#32 = 0xF76F41EA#32 := by decide +kernel
theorem zeros7 : lookFold (List.replicate 512 0#8) 0xF76F41EA#32 = 0x6706BE76#32 := by decide +kernel

/-- The CRC-32C of 4 KiB of zeros is 0x98F94189, its published value. -/
theorem test_crc_of_zeros : crc32c (List.replicate 4096 0#8) = 0x98F94189#32 := by
  have h : ∀ n s, (List.replicate (512 + n) 0#8).foldl crcByte s = (List.replicate n 0#8).foldl crcByte (lookFold (List.replicate 512 0#8) s) := by
    intro n s
    rw [← List.replicate_append_replicate, List.foldl_append, lookFold_eq]
  unfold crc32c
  rw [show 4096 = 512 + (512 + (512 + (512 + (512 + (512 + (512 + (512 + 0))))))) from rfl, h, h, h, h, h, h, h, h, zeros0, zeros1, zeros2, zeros3, zeros4, zeros5, zeros6, zeros7]
  decide +kernel

/-- A compute granule of zeros with the ledger entries of its blocks. -/
def sealable : State :=
  { withCompute with mem := { withCompute.mem with
    ledger := (granuleBlocks 0x1000000).map (fun b => (b, { isOpen := false, crc := 0x98F94189#32 })) } }

/-- sealable with other blocks remembered as checked. -/
def sealableWith (c : Table (List Nat)) : State := { sealable with mem := { sealable.mem with checked := c } }

theorem sealable_blocks : (granuleBlocks 0x1000000).all (fun b =>
    !sealable.channelDead (b * 4096) && !sealable.blockMarked b && sealable.entryErrs b == 0 &&
      sealable.entryOf b == { isOpen := false, crc := 0x98F94189#32 }) = true := by decide +kernel

theorem sealable_data (b : Nat) : sealable.blockData b = List.replicate 4096 0#8 := by
  have h1 : ∀ x, sealable.rawBurst x = List.replicate 32 0#8 := fun x => rfl
  have h2 : ∀ x, sealable.errsOf x = [] := fun x => rfl
  have h3 : List.zipWith (· ^^^ ·) (List.replicate 32 0#8) (padTo 32 []) = List.replicate 32 0#8 := by decide
  unfold State.blockData State.laneBurst
  simp only [h1, h2, h3]
  refine List.eq_replicate_iff.mpr ⟨by simp [List.length_flatMap, List.map_const'], fun x hx => ?_⟩
  obtain ⟨i, _, hi⟩ := List.mem_flatMap.mp hx
  exact (List.mem_replicate.mp hi).2

theorem sealable_checks (b : Nat) (hb : b ∈ granuleBlocks 0x1000000) (c : Table (List Nat)) :
    ∃ c', ledgerCheck 2 b (forgetChecked b (sealableWith c)) = (true, sealableWith c') := by
  have h := List.all_eq_true.mp sealable_blocks b hb
  simp only [Bool.and_eq_true, Bool.not_eq_true', beq_iff_eq] at h
  obtain ⟨⟨⟨h0, h1⟩, h2⟩, h3⟩ := h
  have hf : ∃ x, forgetChecked b (sealableWith c) = sealableWith x := ⟨_, rfl⟩
  obtain ⟨x, hx⟩ := hf
  rw [hx]
  have e1 : (sealableWith x).entryOf b = sealable.entryOf b := rfl
  have e2 : (sealableWith x).entryErrs b = sealable.entryErrs b := rfl
  have e3 : (sealableWith x).blockData b = sealable.blockData b := rfl
  have e4 : (sealableWith x).blockMarked b = sealable.blockMarked b := rfl
  have e5 : (sealableWith x).channelDead (b * 4096) = sealable.channelDead (b * 4096) := rfl
  have e6 : readEntry b (sealableWith x) = (some { isOpen := false, crc := 0x98F94189#32 }, sealableWith x) := by
    unfold readEntry
    rw [e1, e2, h2, h3]
    rfl
  unfold ledgerCheck
  rw [e1, e4, e5, e6, h0, h1, h3]
  simp only [Bool.false_eq_true, if_false, Bool.not_false, Bool.and_true, if_true, e3, sealable_data, test_crc_of_zeros]
  split
  · exact ⟨x, rfl⟩
  · exact ⟨_, rfl⟩

theorem sealable_granule : ∀ (l : List Nat), (∀ b ∈ l, b ∈ granuleBlocks 0x1000000) → ∀ c, (checkGranule l (sealableWith c)).1 = none := by
  intro l
  induction l with
  | nil => intro _ c; rfl
  | cons b bs ih =>
    intro hl c
    obtain ⟨x, hx⟩ := sealable_checks b (hl b (List.mem_cons_self ..)) c
    rw [checkGranule, hx]
    exact ih (fun y hy => hl y (List.mem_cons_of_mem _ hy)) x

theorem test_witness_ConversionOfGranules : up.mem.compute.contains 0x1000000 = false ∧ (makeCompute 0x1000000 up).1 = none ∧
    sealable.mem.compute.contains 0x1000000 = true ∧ (sealGranule 0x1000000 sealable).1 = none := by
  refine ⟨by decide +kernel, by decide +kernel, by decide +kernel, ?_⟩
  have hc : sealable.mem.compute.contains 0x1000000 = true := by decide +kernel
  have h := sealable_granule (granuleBlocks 0x1000000) (fun b hb => hb) sealable.mem.checked
  have hs : sealableWith sealable.mem.checked = sealable := rfl
  rw [hs] at h
  unfold sealGranule
  rw [hc]
  cases hg : checkGranule (granuleBlocks 0x1000000) sealable with
  | mk o s => rw [hg] at h; simp only at h; subst h; rfl

/-! ## Witnesses: models, tables and scales -/

/-- A module with the DPA space of its stacks counted, and a placement of a model of one layer with one row each, on pip stack 0. -/
def upm : State := { up with mem := { up.mem with poolTotal := 524288 } }
def entryOfMat (l mat a : Nat) : MapEntry :=
  { layer := l, mat := mat, stack := 0, rowFirst := 0, rowCount := 1, rowStride := 4096, codeDpa := pipBase0 + 0x2000 * a,
    recDpa := pipBase0 + 0x2000 * a + 0x1000, pieceStride := 0, recStride := 4096, recPieceStride := 0 }
def tinyMap : List MapEntry := (List.range 7).map (fun i => entryOfMat 0 i i) ++ [entryOfMat 1 7 7]
def placeRec : Taken := rc 0x20 [(0x21, 1, 15), (0x22, 2, 1), (0x24, 4, 1), (0x28, 4, 1), (0x2C, 4, 1), (0x30, 1, 1), (0x31, 1, 1),
  (0x32, 2, 1), (0x40, 8, 0x4000), (0x48, 4, 384)]
/-- Model 15, loaded or ready; of one layer, hidden size 4, 25 Q heads. -/
def loaded (state : Nat) (m : Model) : State :=
  { upm with seqs := { upm.seqs with models := [(15, { m with state := state })] } }
def placedTiny : Model := placedModel placeRec tinyMap []
def dropRec : Taken := rc 0x20 [(0x20, 1, 1), (0x21, 1, 15)]
def descRec (l : Nat) : Taken := rc 0x21 [(0x20, 1, 15), (0x22, 2, l)]

theorem test_witness_ModelsAreLoadedAndDropped : ReadyInTurn 0x20 0 0 placeRec (takes placeRec upm) ∧ placeRec.at 0x20 1 = 0 ∧
    placeRec.at 0x36 1 ≠ 1 ∧ (takes placeRec upm).mayLack (placedModel placeRec [] []) 1 = true ∧
    ((takes placeRec upm).model (placeRec.at 0x21 1)).state = 0 ∧ (takes placeRec upm).placementOk placedTiny = true ∧
    0 + placedTiny.scalePageCount + placedTiny.gainPageCount ≤ (takes placeRec upm).freePages ∧
    48 * tinyMap.length ≤ placeRec.at 0x48 4 ∧ (takes placeRec upm).keyRoom placeRec.tenant = true ∧
    ReadyInTurn 0x20 0 0 dropRec (takes dropRec (loaded 2 placedTiny)) ∧ dropRec.at 0x20 1 = 1 ∧
    firstFail ((takes dropRec (loaded 2 placedTiny)).dropChecks (dropRec.at 0x21 1)) = none ∧
    (∀ l, l < 2 → ReadyInTurn 0x21 0 0 (descRec l) (takes (descRec l) (loaded 1 placedTiny)) ∧
      ((takes (descRec l) (loaded 1 placedTiny)).model ((descRec l).at 0x20 1)).state ≠ 0 ∧
      (descRec l).at 0x22 2 ≤ ((takes (descRec l) (loaded 1 placedTiny)).model ((descRec l).at 0x20 1)).layers ∧
      (takes (descRec l) (loaded 1 placedTiny)).actFnOk ((descRec l).at 0x3C 2) = true) := by
  simp only [ReadyInTurn, ready_iff]; decide +kernel

/-- A model of one layer with an FFN of 20,000 rows. -/
def bigRec : Taken := rc 0x20 [(0x21, 1, 15), (0x22, 2, 1), (0x24, 4, 1), (0x28, 4, 20000), (0x2C, 4, 1), (0x30, 1, 1), (0x31, 1, 1),
  (0x32, 2, 1), (0x40, 8, 0x4000), (0x48, 4, 384)]

theorem test_witness_ModelBeyondEngines : ReadyInTurn 0x20 0 0 bigRec (takes bigRec upm) ∧ bigRec.at 0x20 1 = 0 ∧
    ((takes bigRec upm).model (bigRec.at 0x21 1)).state = 0 ∧ (placedModel bigRec [] []).mayExceed = true ∧
    (placedModel placeRec [] []).mayExceed = false := by
  simp only [ReadyInTurn, ready_iff]; decide +kernel

/-- SCALE_LOAD of two values from host memory, for the scales of rows or the channels of inputs. -/
def scaleRec (op : Nat) : Taken := rc 0x22 [(0x20, 1, op), (0x21, 1, 15), (0x26, 1, 1), (0x34, 4, if op = 0 then 2 else 1), (0x28, 8, 0x40)]
def scaleState (op : Nat) : State := takes (scaleRec op) (loaded 1 { placedTiny with hidden := 4, qHeads := 4 })
def goodScales : List Byte := natLe 4 0x3F800000 ++ natLe 4 0x40000000
def badScales : List Byte := natLe 4 0x3F800000 ++ natLe 4 0x7F800000

/-- The values that a SCALE_LOAD brings. -/
def valuesOf (d : List Byte) : List U32 := (chunksOf (srcWidth 0) d).map (fun b => srcValue 0 (leNat b))

theorem test_witness_ScalesAreLoaded : (∀ op, op < 3 → ReadyInTurn 0x22 0 0 (scaleRec op) (scaleState op) ∧
      firstFail ((scaleState op).scaleChecks (scaleRec op)) = none ∧ (scaleRec op).at 0x20 1 = op ∧ (scaleRec op).at 0x25 1 = 0 ∧
      (scaleState op).copyHeld ((scaleRec op).at 0x21 1) (if (scaleRec op).at 0x20 1 = 0
        then scaleTarget ((scaleRec op).at 0x22 2) ((scaleRec op).at 0x24 1)
        else pointTarget ((scaleRec op).at 0x22 2) ((scaleRec op).at 0x24 1)) = false ∧
      (readSource ((scaleRec op).at 0x26 1 == 1) ((scaleRec op).at 0x28 8) (scaleBytes (scaleRec op)) (hostSrc goodScales)
        (scaleState op)).1 = .bytes goodScales ∧
      (readSource ((scaleRec op).at 0x26 1 == 1) ((scaleRec op).at 0x28 8) (scaleBytes (scaleRec op)) (hostSrc badScales)
        (scaleState op)).1 = .bytes badScales) ∧
    (valuesOf goodScales).all f32Finite = true ∧
    firstFault (fun v => if f32Finite v then none else some 0) (valuesOf badScales) = some (1, 0) ∧
    firstFault scalePairFault (pairsOf (valuesOf goodScales)) = none ∧
    firstFault rangePairFault (pairsOf (valuesOf goodScales)) = none := by simp only [ReadyInTurn, ready_iff]; decide +kernel

/-- A variant image of one delta block of zeros for matrix 0, and one with a bad header. -/
def goodImage : List Byte := natLe 4 0 ++ natLe 4 1 ++ List.replicate 56 0 ++ List.replicate 512 0
def badImage : List Byte := List.replicate 64 1
def variantRec (len : Nat) : Taken :=
  rc 0x23 [(0x20, 2, 65535), (0x22, 1, 15), (0x24, 1, 1), (0x28, 8, 0x40), (0x30, 8, len), (0x38, 4, 1)]
def variantState (len : Nat) : State := takes (variantRec len) (loaded 2 { placedTiny with qHeads := 25 })
/-- Where the sections of an image first fail, and whether a placement of its deltas keeps to the rules. -/
def imageFails (d : List Byte) (s : State) : Option Nat :=
  match readSections (s.model 15) d 1 0 none with | .error o => some o | .ok _ => none
def deltasFit (d : List Byte) (pages granules : List Nat) (s : State) : Bool :=
  match readSections (s.model 15) d 1 0 none with | .error _ => false | .ok ds => s.deltaOk (s.model 15) ds pages granules
def dropVar : Taken := rc 0x24 [(0x20, 2, 5)]
def resident : State :=
  let s := loaded 2 placedTiny
  { s with seqs := { s.seqs with variants := [(5, { Variant.none with model := 15 }), (6, { Variant.none with model := 15 })] } }

theorem test_witness_VariantsComeAndGo : (∀ x ∈ [goodImage, badImage], ReadyInTurn 0x23 0 0 (variantRec x.length) (variantState x.length) ∧
      ((variantState x.length).model ((variantRec x.length).at 0x22 1)).state = 2 ∧
      (variantRec x.length).at 0x38 4 ≤ 8 * (((variantState x.length).model ((variantRec x.length).at 0x22 1)).layers + 1) ∧
      (tget Variant.none (variantState x.length).seqs.variants ((variantRec x.length).at 0x20 2)).model = 16 ∧
      (variantState x.length).residents < 256 ∧ (variantState x.length).keyRoom (variantRec x.length).tenant = true ∧
      (readSource ((variantRec x.length).at 0x24 1 == 1) ((variantRec x.length).at 0x28 8) ((variantRec x.length).at 0x30 8) (hostSrc x)
        (variantState x.length)).1 = .bytes x) ∧
    imageFails badImage (variantState 64) ≠ none ∧
    deltasFit goodImage [3] [0x1000100] (variantState 576) = true ∧
    ReadyInTurn 0x24 0 0 dropVar (takes dropVar resident) ∧ (takes dropVar resident).variantNamed (dropVar.at 0x20 2) = false := by
  simp only [ReadyInTurn, ready_iff]; decide +kernel

/-- A lookup table of zeros, and a program of one constant and an end, good and with a bad second word. -/
def zeroTable : List Byte := List.replicate 3136 0#8
def goodProg : List Byte := natLe 8 (2 ^ 58 + 5) ++ natLe 8 0
def badProg : List Byte := natLe 8 (2 ^ 58 + 5) ++ natLe 8 1
def tableRec : Taken := rc 0x25 [(0x21, 1, 15), (0x24, 1, 1), (0x28, 8, 0x40)]
def progRec : Taken := rc 0x25 [(0x20, 1, 1), (0x21, 1, 31), (0x24, 1, 1), (0x26, 2, 2), (0x28, 8, 0x40)]
def gainRec : Taken := rc 0x25 [(0x20, 1, 2), (0x21, 1, 15), (0x22, 2, 2), (0x24, 1, 1), (0x28, 8, 0x40)]
def gainState : State := takes gainRec (loaded 1 { Model.none with layers := 1, hidden := 2 })
/-- A shadow bank with a table and a program that names it; TABLE_SWAP, and the same started, and in its copy. -/
def swapRec : Taken := rc 0x26 []
def swapState : State :=
  { up with zest := { up.zest with bank1 := { tables := [(3, [0])], programs := [(1, [BitVec.ofNat 64 (9 * 2 ^ 58 + 3 * 2 ^ 34), 0])] } } }
def heldSwap : Taken := { swapRec with started := true }
def copying : State :=
  let s := takes heldSwap swapState
  { s with zest := { s.zest with current := 1, swapping := some (0, 0) } }

theorem test_witness_ZestTablesAndPrograms : Ready 0x25 0 0 tableRec (takes tableRec up) ∧ tableRec.at 0x20 1 = 0 ∧
    (takes tableRec up).tableTurn tableRec = true ∧ Ready 0x25 0 0 progRec (takes progRec up) ∧ progRec.at 0x20 1 = 1 ∧
    (takes progRec up).tableTurn progRec = true ∧
    (readSource (progRec.at 0x24 1 == 1) (progRec.at 0x28 8) (8 * progRec.at 0x26 2) (hostSrc goodProg) (takes progRec up)).1 =
      .bytes goodProg ∧ programFault ((chunksOf 8 goodProg).map leNat) = none ∧
    (readSource (progRec.at 0x24 1 == 1) (progRec.at 0x28 8) (8 * progRec.at 0x26 2) (hostSrc badProg) (takes progRec up)).1 =
      .bytes badProg ∧ programFault ((chunksOf 8 badProg).map leNat) = some 1 ∧
    ReadyInTurn 0x25 0 0 gainRec gainState ∧ gainRec.at 0x20 1 = 2 ∧ (gainState.model (gainRec.at 0x21 1)).state ≠ 0 ∧
    gainRec.at 0x22 2 ≤ 2 * (gainState.model (gainRec.at 0x21 1)).layers ∧
    gainState.copyHeld (gainRec.at 0x21 1) (gainTarget (gainRec.at 0x22 2)) = false ∧
    (readSource (gainRec.at 0x24 1 == 1) (gainRec.at 0x28 8) (4 * (gainState.model (gainRec.at 0x21 1)).hidden) (hostSrc goodScales)
      gainState).1 = .bytes goodScales ∧
    ((chunksOf 4 goodScales).map (fun b => BitVec.ofNat 32 (leNat b))).all f32Finite = true ∧
    Ready 0x26 0 0 swapRec (takes swapRec swapState) ∧ swapState.zest.swapping = none ∧
    (takes swapRec swapState).earlierTaken 0x26 swapRec = false ∧ lutFault (swapState.zbank swapState.shadow) = none ∧
    swapState.actFault (swapState.zbank swapState.shadow) = none ∧ (takes heldSwap swapState).oldestSwap = some (0, heldSwap) ∧
    (takes heldSwap swapState).live = true ∧ heldSwap.started = true ∧ (takes heldSwap swapState).earlierTaken 0x25 heldSwap = false ∧
    (takes heldSwap swapState).recordRuns 0x26 = true ∧ copying.released = true ∧ copying.zest.swapping = some (0, 0) ∧
    copying.bankBusy copying.shadow = false := by simp only [ReadyInTurn, ready_iff]; decide +kernel

theorem leNat_zeros (k : Nat) : leNat (List.replicate k 0#8) = 0 := by
  induction k with
  | zero => rfl
  | succ k ih => simp [List.replicate_succ, leNat, ih]

theorem fld_zeros (k o n : Nat) : fld (List.replicate k 0#8) o n = 0 := by
  simp [fld, leNat_zeros]

theorem zero_coef (i j : Nat) : tblCoef zeroTable i j = 0#32 := by
  unfold tblCoef zeroTable; rw [fld_zeros]

theorem zero_segOk (i : Nat) : tblSegOk zeroTable i = true := by
  have h1 : tblInterp zeroTable = 0 := by decide +kernel
  have h2 : tblMono zeroTable = 0 := by decide +kernel
  have h3 : f32Finite 0#32 = true ∧ f32IsZero 0#32 = true := by decide +kernel
  unfold tblSegOk; rw [zero_coef, zero_coef, zero_coef, h1, h2, h3.1, h3.2]; rfl

theorem test_witness_TableImage : (readSource true 0x40 3136 (hostSrc zeroTable) (takes tableRec up)).1 = .bytes zeroTable ∧
    tblReject zeroTable = none := by
  refine ⟨by decide +kernel, ?_⟩
  have h : tblHeaderOk zeroTable = true := by decide +kernel
  have hf : ∀ n, findBelow n (fun i => !tblSegOk zeroTable i) = none := by
    intro n; simp [findBelow, zero_segOk]
  unfold tblReject; rw [h, hf]; rfl

/-- Code lengths: two codes of one bit, a code of 16 bits, three codes of one bit; and slots with a shadow bank. -/
def lengths (l : List Nat) : List Byte := (l ++ List.replicate (256 - l.length) 0).map (BitVec.ofNat 8)
def codecRec (op : Nat) : Taken := rc 0x27 [(0x20, 1, op), (0x21, 1, 31), (0x22, 1, 1 - op), (0x28, 8, if op = 0 then 0x40 else 0)]
def codecState (r : Nat) : State :=
  { up with codec := { up.codec with slots := [(31, { CodecSlot.reset with bank1 := { lens := [1, 1], gen := 3, refs := r } })] } }

theorem test_witness_CodecTables : ReadyInTurn 0x27 0 0 (codecRec 0) (takes (codecRec 0) (codecState 0)) ∧ (codecRec 0).at 0x20 1 = 0 ∧
    (readSource ((codecRec 0).at 0x22 1 == 1) ((codecRec 0).at 0x28 8) 256 (hostSrc (lengths [1, 1])) (takes (codecRec 0) (codecState 0))).1 =
      .bytes (lengths [1, 1]) ∧ codecImageFault ((lengths [1, 1]).map (·.toNat)) = none ∧
    codecImageFault ((lengths [1, 16]).map (·.toNat)) = some 1 ∧
    codecImageFault ((lengths [1, 1, 1]).map (·.toNat)) = some 0xFFFFFFFF ∧ ((codecState 1).codecSlot 31).current ≤ 1 ∧
    (((codecState 1).codecSlot 31).bank (1 - ((codecState 1).codecSlot 31).current)).refs ≠ 0 ∧
    (((codecState 0).codecSlot 31).bank (1 - ((codecState 0).codecSlot 31).current)).refs = 0 ∧
    ReadyInTurn 0x27 0 0 (codecRec 1) (takes (codecRec 1) (codecState 0)) ∧ (codecRec 1).at 0x20 1 = 1 ∧
    (((codecState 0).codecSlot 31).bank (1 - ((codecState 0).codecSlot 31).current)).lens ≠ [] := by
  simp only [ReadyInTurn, ready_iff]; decide +kernel

/-! ## Witnesses: sequences and parks -/

/-- A ready model 15 of one layer and vocabulary 4. -/
def tiny : Model :=
  { Model.none with state := 2, layers := 1, hidden := 1, ffn := 1, vocab := 4, qHeads := 1, kvHeads := 1, headDim := 1 }
def base : State := loaded 2 tiny
/-- A READY entry, and s with an entry as sequence q. -/
def readyEntry : SeqEntry := { SeqEntry.free with state := 1, model := 15, maxLen := 16 }
def withSeq (q : Nat) (e : SeqEntry) (s : State) : State :=
  { s with seqs := { s.seqs with entries := tset SeqEntry.free s.seqs.entries q e } }
/-- An append of two tokens, not begun, and begun with its one row done. -/
def anAppend : Append :=
  { w := 0, n := 0, tokens := [3, 0], waits := [], reserved := [(0, 5)], begun := false, len0 := 0, pending0 := none, stopped0 := false,
    rows := [], given := 0, done := 0, took := [], copied := [] }
def begunAppend : Append := { anAppend with begun := true, rows := [3], given := 1, done := 1 }
/-- A formed step without sequences, and a module with it and a READY sequence of length 3. -/
def emptyStep : Step :=
  { id := 7, w := 1, n := 0, group := 0, model := 15, dest := 0, state := 2, slots := [], cap := Captured.none, batch := 1, layer := 0,
    started := false, fault := none, hold := none, wideLayers := 0, customer := 0, toks := none }
def steps1 (s : State) : State := { s with seqs := { s.seqs with steps := [emptyStep] } }
def length3 : SeqEntry := { readyEntry with len := 3, pending := some 1 }
def stepping : State := steps1 (withSeq 4095 length3 base)
def resting : State := withSeq 4095 length3 base
def openRec : Taken := rc 0x30 [(0x20, 2, 4095), (0x22, 1, 15), (0x23, 1, 3), (0x26, 2, 7), (0x28, 4, 16)]
def appendRec : Taken := rc 0x31 [(0x20, 2, 4095), (0x24, 4, 2), (0x30, 4, 3), (0x34, 4, 0)]
def appendToks : List Nat := (List.range (appendRec.at 0x24 4)).map (fun i => appendRec.at (0x30 + 4 * i) 4)
def filling (a : Append) : SeqEntry := { readyEntry with state := 2, stopped := true, newCnt := 3, appends := [a, a] }
def seqRec (op : Nat) : Taken := rc op [(0x20, 2, 4095), (0x24, 4, if op = 0x36 then 3 else 0), (0x28, 4, if op = 0x36 then 3 else 0)]

theorem test_witness_SequencesOpenFillAndEnd : ReadyInTurn 0x30 0 0 openRec (takes openRec base) ∧
    firstFail (openChecks openRec (takes openRec base)) = none ∧
    (∀ st, (st = 1 ∨ st = 2) → ReadyInTurn 0x31 0 0 appendRec (takes appendRec (withSeq 4095 { readyEntry with state := st } base)) ∧
      appendRec.at 0x22 1 = 0 ∧ ((withSeq 4095 { readyEntry with state := st } base).seq (appendRec.at 0x20 2)).state = st ∧
      (∀ x ∈ appendToks, x < ((withSeq 4095 { readyEntry with state := st } base).modelOf (appendRec.at 0x20 2)).vocab) ∧
      ((withSeq 4095 { readyEntry with state := st } base).appendPlaces (appendRec.at 0x20 2) appendToks.length).length + 1 ≤
        (withSeq 4095 { readyEntry with state := st } base).freePages) := by
  refine ⟨by simp only [ReadyInTurn, ready_iff]; decide +kernel, by decide +kernel, ?_⟩
  rintro st (rfl | rfl) <;> (simp only [ReadyInTurn, ready_iff]; decide +kernel)

theorem test_witness_FillsBeginAndComplete : (withSeq 4095 (filling anAppend) base).released = true ∧
    ((withSeq 4095 (filling anAppend) base).seq 4095).appends = [anAppend, anAppend] ∧ anAppend.begun = false ∧
    ((withSeq 4095 (filling anAppend) base).seq 4095).state = 2 ∧ base.seqs.steps = [] ∧ base.seqs.effects = [] ∧
    fillRows (filling anAppend) anAppend.tokens ≠ [] ∧
    (filling anAppend).len + (fillRows (filling anAppend) anAppend.tokens).length ≤ (filling anAppend).maxLen ∧
    begunAppend.begun = true ∧ begunAppend.rows.length ≤ begunAppend.done ∧
    ((withSeq 4095 { filling begunAppend with appends := [begunAppend] } base).seq 4095).appends = [begunAppend] := by decide +kernel

theorem test_witness_SequencesEnd : stepping.follows = false ∧ stepping.seqs.steps ≠ [] ∧
    (∀ op ∈ [0x33, 0x36, 0x39], ReadyInTurn op 0 0 (seqRec op) (takes (seqRec op) stepping) ∧
      ((takes (seqRec op) stepping).seq ((seqRec op).at 0x20 2)).state = 1) ∧
    (seqRec 0x36).at 0x24 4 = (stepping.seq 4095).len ∧ (seqRec 0x36).at 0x28 4 < (stepping.modelOf 4095).vocab ∧
    resting.follows = false ∧ resting.seqs.steps = [] ∧ resting.seqs.effects = [] ∧
    ReadyInTurn 0x33 0 0 (seqRec 0x33) (takes (seqRec 0x33) resting) ∧ (resting.seq ((seqRec 0x33).at 0x20 2)).state = 1 := by
  simp only [ReadyInTurn, ready_iff]; decide +kernel

/-- A working port of 4 lanes, and a park of sequence 4095 in a state, its image of one MiB block and the state stream. -/
def goodPort : PunPort := { PunPort.reset with state := 2, width := 4, rate := 5, lbas := 100000, rated := 1000000000 }
def aPark (st : Nat) : Park :=
  { handle := 1, tenant := 0, port := 0, lba := 0, lbas := 2, streams := 2, blocks := [], deadline := 1000, state := st, q := 4095, w := 0,
    n := 0, ttl := 60, saved := length3, reader := none }
def withPark (st : Nat) (s : State) : State := { s with pun := { s.pun with ports := [(0, goodPort)], parks := [aPark st] } }
/-- A stream at codec 7. -/
def aStream (encode : Bool) : CodecStream :=
  { encode := encode, handle := 1, idx := 0, src := [1, 2], declLen := 2, mode := 0, elem := 0, bind := none }
def withStream (encode : Bool) (s : State) : State := { s with codec := { s.codec with queues := [(7, [aStream encode])] } }
def aResume (got : List (Nat × List Byte)) : Resume := { q := 9, handle := 1, w := 0, n := 0, got := got, failed := false }
def withResume (got : List (Nat × List Byte)) (s : State) : State := { s with pun := { s.pun with resumes := [aResume got] } }
def parkRec : Taken := rc 0x34 [(0x20, 2, 4095), (0x22, 1, 0xFF), (0x24, 4, 60)]
def resumeRec (op : Nat) : Taken := rc 0x35 [(0x20, 1, op), (0x22, 2, if op = 0 then 9 else 0), (0x28, 8, 1)]
def parkable : State := { stepping with pun := { stepping.pun with ports := [(0, goodPort)] } }
def parked (op : Nat) : State := takes (resumeRec op) (withPark 4 base)

theorem test_witness_ParksAndResumes : ReadyInTurn 0x34 0 0 parkRec (takes parkRec parkable) ∧
    (takes parkRec parkable).workStarts = true ∧ (parkable.seq (parkRec.at 0x20 2)).state = 1 ∧ parkable.seqs.steps ≠ [] ∧
    (takes parkRec parkable).choosePort (parkRec.at 0x22 1)
      (parkMax ((parkable.modelOf (parkRec.at 0x20 2)).kvImage ((parkable.seq (parkRec.at 0x20 2)).len +
        ((parkable.stepsNaming (parkRec.at 0x20 2)).filter (fun x => x.state == 2)).length))) = some 0 ∧
    (withPark 0 resting).released = true ∧
    (withPark 0 resting).pun.parks.find? (fun k => k.q == 4095 && (withPark 0 resting).parkDue k) = some (aPark 0) ∧
    (withPark 0 resting).park (aPark 0).handle = some (aPark 0) ∧
    (readImage 4095 (addErrs [] (withPark 0 resting))).1.bad = none ∧
    (withStream true (withPark 1 base)).unitUp 5 7 = true ∧ (withStream true (withPark 1 base)).codecQueue 7 = [aStream true] ∧
    (aStream true).encode = true ∧ (withStream true (withPark 1 base)).park 1 = some (aPark 1) ∧
    (withStream false (withResume [] (withPark 4 base))).codecQueue 7 = [aStream false] ∧ (aStream false).encode = false ∧
    (withStream false (withResume [] (withPark 4 base))).unitUp 5 7 = true ∧
    (withStream false (withResume [] (withPark 4 base))).pun.resumes.find? (fun y => y.handle == 1) = some (aResume []) ∧
    (withStream false (withResume [] (withPark 4 base))).park 1 = some (aPark 4) ∧
    (withPark 3 stepping).pun.parks.find? (fun k => k.q == 4095 && k.state == 3) = some (aPark 3) ∧
    (withPark 3 stepping).park 1 = some (aPark 3) ∧ (withPark 3 stepping).seqs.steps ≠ [] ∧
    (∀ op, op < 2 → ReadyInTurn 0x35 0 0 (resumeRec op) (parked op) ∧ (resumeRec op).at 0x20 1 = op ∧
      (parked op).beingRead ((resumeRec op).at 0x28 8) = false ∧ (parked op).park ((resumeRec op).at 0x28 8) = some (aPark 4) ∧
      (resumeRec op).at_ < (aPark 4).deadline) ∧ (parked 0).workStarts = true ∧ ((parked 0).seq ((resumeRec 0).at 0x22 2)).state = 0 ∧
    (parked 0).keyRoom (resumeRec 0).tenant = true ∧
    (parked 0).resumePages ((resumeRec 0).at 0x22 2) (aPark 4).saved ≤ (parked 0).freePages ∧
    (withResume [(0, []), (1, [])] (withPark 4 base)).pun.resumes.find? (fun y => y.q == 9) = some (aResume [(0, []), (1, [])]) ∧
    (aPark 4).streams ≤ (aResume [(0, []), (1, [])]).got.length ∧ up.pun.parks = [] ∧
    (withPark 4 base).released = true ∧ (withPark 4 base).ctl.running = true ∧ aPark 4 ∈ (withPark 4 base).pun.parks ∧
    (aPark 4).deadline ≤ (after .parkExpiryScan (withPark 4 base)).now ∧ (withPark 4 base).parkWanted (aPark 4).handle = false := by simp only [ReadyInTurn, ready_iff]; decide +kernel

/-- Token lists, with a pinned path of 16 tokens and one without a pin. -/
def toks (l : List Nat) : List Byte := l.flatMap (natLe 4)
def pinnedPath : State := { stepping with seqs := { stepping.seqs with bramble := [
  { model := 15, variant := 0, scope := some 0, path := List.range 16, pages := [(0, 3)], pins := 1 }] } }
def findRec : Taken := rc 0x37 [(0x20, 2, 4095), (0x22, 1, 1), (0x24, 4, 17), (0x28, 8, 0x40)]
def pinRec : Taken := rc 0x38 [(0x22, 2, 4095), (0x24, 4, 16), (0x28, 8, 0x40)]
def unpinRec : Taken := rc 0x38 [(0x20, 1, 1), (0x24, 4, 16), (0x28, 8, 0x40), (0x30, 1, 15)]
def pinState : State := takes pinRec (withSeq 4095 { readyEntry with len := 16, pages := [{ page := 3, shared := false }] } base)
def attachRec : Taken := rc 0x37 [(0x20, 2, 4095), (0x22, 1, 1), (0x23, 1, 1), (0x24, 4, 17), (0x28, 8, 0x40)]
def attachState : State := takes attachRec (withSeq 4095 readyEntry { base with seqs := { base.seqs with bramble := pinnedPath.seqs.bramble } })
def pinAt (d : List Byte) : Bool :=
  (takes unpinRec pinnedPath).seqs.bramble.any (fun b =>
    b.under (unpinRec.at 0x30 1) (unpinRec.at 0x32 2) (pinScope unpinRec) && b.path == wordsOf 4 d && b.pins != 0)

theorem test_witness_PrefixesAndSettings : ReadyInTurn 0x37 0 0 findRec (takes findRec pinnedPath) ∧
    (pinnedPath.seq (findRec.at 0x20 2)).state = 1 ∧ findRec.at 0x23 1 = 0 ∧
    (readSource (findRec.at 0x22 1 == 1) (findRec.at 0x28 8) (4 * findRec.at 0x24 4) (hostSrc (toks (List.range 17)))
      (takes findRec pinnedPath)).1 = .bytes (toks (List.range 17)) ∧ ReadyInTurn 0x38 0 0 pinRec pinState ∧ pinRec.at 0x20 1 = 0 ∧
    (pinState.seq (pinRec.at 0x22 2)).state = 1 ∧ pinRec.at 0x24 4 ≤ (pinState.seq (pinRec.at 0x22 2)).len ∧
    (readSource true (pinRec.at 0x28 8) (4 * pinRec.at 0x24 4) (hostSrc (toks (List.range 16))) pinState).1 =
      .bytes (toks (List.range 16)) ∧ ReadyInTurn 0x37 0 0 attachRec attachState ∧
    (attachState.seq (attachRec.at 0x20 2)).fresh = true ∧ attachRec.at 0x23 1 ≠ 0 ∧
    (readSource (attachRec.at 0x22 1 == 1) (attachRec.at 0x28 8) (4 * attachRec.at 0x24 4) (hostSrc (toks (List.range 17)))
      attachState).1 = .bytes (toks (List.range 17)) ∧
    attachState.brambleMatch 15 0 (some 0) (wordsOf 4 (toks (List.range 17)))
      (min ((wordsOf 4 (toks (List.range 17))).length - 1) (attachState.seq 4095).maxLen / 16 * 16) = 16 ∧
    (takeListPage 4095 (forwardWith attachRec (toks (List.range 17)) attachState)).isSome = true ∧
    pinState.seqs.bramble.length + (wordsOf 4 (toks (List.range 16))).length / 16 ≤ 262144 ∧
    ReadyInTurn 0x38 0 0 unpinRec (takes unpinRec pinnedPath) ∧ unpinRec.at 0x20 1 = 1 ∧
    (readSource true (unpinRec.at 0x28 8) (4 * unpinRec.at 0x24 4) (hostSrc (toks (List.range 16))) (takes unpinRec pinnedPath)).1 =
      .bytes (toks (List.range 16)) ∧ pinAt (toks (List.range 16)) = true ∧ pinAt (toks (List.range 15 ++ [9])) = false := by
  simp only [ReadyInTurn, ready_iff]; decide +kernel

def samplerRec : Taken := rc 0x41 [(0x20, 2, 4095), (0x22, 2, 0xFFFF)]
def stopRec : Taken :=
  rc 0x42 ([(0x20, 2, 4095)] ++ (List.range 16).map (fun i => (0x28 + 4 * i, 4, if i = 3 then 3 else 0xFFFFFFFF)))
/-- STOP_SET with a table of one stop string of two tokens. -/
def stopTableRec : Taken := rc 0x42 ([(0x20, 2, 4095), (0x22, 1, 1), (0x23, 1, 1), (0x68, 8, 0x40)] ++
  (List.range 16).map (fun i => (0x28 + 4 * i, 4, 0xFFFFFFFF)))
def stopTable : List Byte := natLe 1 2 ++ List.replicate 3 0 ++ natLe 4 1 ++ natLe 4 2 ++ List.replicate 24 0xFF
def budgetRec (op : Nat) : Taken :=
  if op = 0 then rc 0x40 [(0x22, 2, 4095), (0x24, 2, 1), (0x28, 4, 5)] else rc 0x40 [(0x20, 1, 1), (0x21, 1, 1), (0x2C, 4, 100)]
def maskRec (op : Nat) : Taken := if op = 0 then rc 0x43 [(0x22, 2, 63), (0x21, 1, 1), (0x24, 4, 3), (0x28, 8, 0x40)]
  else rc 0x43 [(0x20, 1, 1), (0x22, 2, 63)]

theorem test_witness_Settings : ReadyInTurn 0x41 0 0 samplerRec (takes samplerRec stepping) ∧
    (stepping.seq (samplerRec.at 0x20 2)).state = 1 ∧
    ReadyInTurn 0x42 0 0 stopRec (takes stopRec stepping) ∧ (stepping.seq (stopRec.at 0x20 2)).state = 1 ∧ stopRec.at 0x22 1 = 0 ∧
    (∀ i, i < 16 → stopRec.at (0x28 + 4 * i) 4 = 0xFFFFFFFF ∨
      stopRec.at (0x28 + 4 * i) 4 < (stepping.modelOf (stopRec.at 0x20 2)).vocab) ∧
    (∀ op, op < 2 → ReadyInTurn 0x40 0 0 (budgetRec op) (takes (budgetRec op) stepping) ∧ (budgetRec op).at 0x20 1 = op ∧
      ReadyInTurn 0x43 0 0 (maskRec op) (takes (maskRec op) stepping) ∧ (maskRec op).at 0x20 1 = op) ∧
    (takes (maskRec 0) stepping).maskBusy ((maskRec 0).at 0x22 2) = false ∧
    (readSource ((maskRec 0).at 0x21 1 == 1) ((maskRec 0).at 0x28 8) (ceilDiv ((maskRec 0).at 0x24 4) 8) (hostSrc [7])
      (takes (maskRec 0) stepping)).1 = .bytes [7] ∧ samplerRec.shown = [] ∧
    stepping.follows = false ∧ resting.follows = false ∧ resting.seqs.steps = [] ∧ resting.seqs.effects = [] ∧
    ReadyInTurn 0x41 0 0 samplerRec (takes samplerRec resting) ∧ ReadyInTurn 0x42 0 0 stopRec (takes stopRec resting) ∧
    (∀ op, op < 2 → ReadyInTurn 0x40 0 0 (budgetRec op) (takes (budgetRec op) resting)) ∧
    ReadyInTurn 0x42 0 0 stopTableRec (takes stopTableRec stepping) ∧ stopTableRec.at 0x22 1 ≠ 0 ∧
    (readSource (stopTableRec.at 0x23 1 == 1) (stopTableRec.at 0x68 8) (36 * stopTableRec.at 0x22 1) (hostSrc stopTable)
      (takes stopTableRec stepping)).1 = .bytes stopTable ∧ stopTableFault stopTable 1 none = none ∧
    stopTableFault stopTable 1 (some 4) = none ∧
    (takes (maskRec 1) stepping).maskNamed ((maskRec 1).at 0x22 2) = false ∧ stepping.released = true ∧ stepping.ctl.running = true := by
  simp only [ReadyInTurn, ready_iff]; decide +kernel

/-! ## Witnesses: steps, chunks, engines and sections -/

/-- Sequence 4095 of the placed model, ready for its first token, and a STEP of it taken with its two output entries reserved. -/
def firstEntry : SeqEntry := { readyEntry with pending := some 0, history := [0], pages := [{ page := 9, shared := false }] }
def placed : State := withSeq 4095 firstEntry (loaded 2 placedTiny)
def stepRec : Taken :=
  { rc 0x32 [(0x20, 2, 3), (0x22, 1, 15), (0x24, 2, 1), (0x30, 8, 0x40), (0x38, 2, 4095)] with list := [4095], reserved := [(0, 2)], order := 5 }
def stepTaken : State := { placed with wins := [(0, { winWith [stepRec] with outReserved := 2 })] }
/-- The same record whose sequence was opened anew after its taking. -/
def reopenedRec : Taken := { stepRec with reserved := [] }
def reopened : State := { placed with wins := [(0, winWith [reopenedRec])] }
/-- The step QUEUED, HEADING, FORMED, and its engines given their phase. -/
def queued : State := after (.step 0 0) stepTaken
def heading : State := after (.stepHeading 5) queued
def formed : State := after (.stepForm 5) heading
def phased : State := after .earlyEdge { formed with seqs := { formed.seqs with edgeDue := true } }
/-- A step, and how a FORMED step finds its next layer, in the state. -/
def stepOf (s : State) : Step := (s.step 5).getD emptyStep
def layerEnds (s : State) : Bool × Bool :=
  let p := stepOf s
  match (runSlots ((addErrs [] s).layerIn p.model p.cap p.layer p.batch false) (p.slots.filter (fun x => x.outcome == 13)) (addErrs [] s)).1 with
  | .ok _ => (true, false)
  | .error (.skew, _, _) => (false, true)
  | .error _ => (false, false)
/-- A share of that step, on a member whose stage is the whole model. -/
def aShare : Share :=
  { id := 5, model := 15, chunk := false, planned := true, nums := [0], slots := (stepOf phased).slots, input := some [[0]],
    cap := (stepOf phased).cap, layer := 0, fin := false, wide := 0, rerun := false, parts := [], sent := [], hold := none }
def onShare : State := { phased with
  seqs := { phased.seqs with steps := [] }
  vine := { phased.vine with state := 2, layerCount := 1, steps := [aShare] } }
def shareRuns : Bool := match (runSlots (onShare.shareIn aShare) aShare.slots (addErrs [] onShare)).1 with | .ok _ => true | .error _ => false
/-- The first record slot of matrix 0 carries a wrong block number. -/
def skewed : State := { phased with mem := { phased.mem with cells := tsets 0 phased.mem.cells (pipBase0 + 0x1000) [1] } }
/-- The step past its last layer; and the step with a fault. -/
def pastLast : State := modStep 5 (fun p => { p with layer := 2 }) phased
def faulty : State := modStep 5 (fun p => { p with fault := some (0x302, 0) }) phased

theorem test_witness_StepsAreQueuedHeadedAndFormed : ReadyInTurn 0x32 0 0 stepRec stepTaken ∧ stepTaken.stepFault 0 stepRec = none ∧
    stepRec.shown = [] ∧ stepRec.reserved = stepTaken.stepReserve stepRec.list ∧ ReadyInTurn 0x32 0 0 reopenedRec reopened ∧
    reopened.stepFault 0 reopenedRec = none ∧ reopened.stepOutFault reopenedRec.list = [] ∧
    (releaseOutput reopenedRec.reserved reopened).stepOutRoom reopenedRec.list = true ∧ queued.step 5 = some (stepOf queued) ∧ queued.workStarts = true ∧
    queued.mayHead (stepOf queued) = true ∧ (queued.workStarts && queued.mayForm (stepOf queued)) = false ∧
    heading.step 5 = some (stepOf heading) ∧ (heading.workStarts && heading.mayHead (stepOf heading)) = false ∧
    heading.workStarts = true ∧ heading.mayForm (stepOf heading) = true ∧
    bit heading.mem.suspect (stepOf heading).model = false ∧
    ((stepOf heading).slots.foldl formSlot ([], heading)).1.filter (fun x => x.outcome == 13) ≠ [] := by
  simp only [ReadyInTurn, ready_iff]; decide +kernel

/-- Entries that formation leaves out, with the outcome of each. -/
def leftOut : List (SeqEntry × Nat) := [({ firstEntry with gen := 1 }, 9), ({ firstEntry with state := 0 }, 9),
  ({ firstEntry with state := 5 }, 3), ({ firstEntry with state := 3 }, 4), ({ firstEntry with faulted := true }, 8),
  ({ firstEntry with stopped := true }, 2), ({ firstEntry with pending := none }, 2), ({ firstEntry with len := 16 }, 7),
  ({ firstEntry with len := 5, pages := [] }, 6)]
def aSlot : StepSlot :=
  { q := 4095, gen := 0, outcome := 13, len := 0, token := 0, variant := 0, seed := 0, sampler := Sampler.initial, hidden := [], logits := [] }
def noPool (e : SeqEntry) : State :=
  let s := withSeq 4095 e placed
  { s with mem := { s.mem with poolTotal := 0 } }

theorem test_witness_FormationOutcomes :
    ∀ x ∈ leftOut, (formSlot ([], noPool x.1) aSlot).1 = [{ aSlot with outcome := x.2 }] ∧ x.2 ≠ 13 := by decide +kernel

theorem test_witness_SharesRunTheirLayers : onShare.released = true ∧ onShare.share 5 = some aShare ∧ aShare.planned = true ∧
    aShare.fin = false ∧ aShare.input ≠ none ∧ aShare.hold = none ∧ aShare.chunk = false ∧
    onShare.enginesReady aShare.cap aShare.slots.length = true ∧
    onShare.layerOpen aShare.model aShare.cap aShare.layer aShare.slots.length = true ∧ shareRuns = true ∧
    aShare.layer + 1 ≠ onShare.shareEnd aShare := by decide +kernel

theorem test_witness_StepsRunTheirLayersToABoundary : phased.released = true ∧
    phased.layerOpen (stepOf phased).model (stepOf phased).cap (stepOf phased).layer (stepOf phased).batch = true ∧ phased.inCascade = false ∧
    phased.step 5 = some (stepOf phased) ∧ phased.share 5 = none ∧ (stepOf phased).state = 2 ∧ (stepOf phased).fault = none ∧
    (stepOf phased).hold = none ∧ (stepOf phased).layer ≤ (phased.model (stepOf phased).model).layers ∧
    phased.enginesReady (stepOf phased).cap (stepOf phased).batch = true ∧ layerEnds phased = (true, false) ∧
    layerEnds skewed = (false, true) ∧ phased.seqs.effects = [] ∧ pastLast.step 5 = some (stepOf pastLast) ∧
    (stepOf pastLast).toks = none ∧ (stepOf pastLast).fault = none ∧ (stepOf pastLast).hold = none ∧
    (pastLast.model (stepOf pastLast).model).layers < (stepOf pastLast).layer ∧ pastLast.kindsUp [4] = true ∧
    ((stepOf pastLast).slots.map (·.q)).Nodup ∧
    (∀ x ∈ (stepOf pastLast).slots, x.outcome = 13 → (pastLast.seq x.q).gen = x.gen) ∧ (stepOf faulty).fault = some (0x302, 0) ∧
    (stepOf heading).state ≠ 2 ∧ heading.share 5 = none := by decide +kernel

/-- An uncorrectable word ends the layer's step with ECC_UNCORRECTED and the layer index (R177, R233, R371). -/
theorem test_own_faults_end_the_step :
    (let t := after (.stepLayer 5 [] (bad (.sram 24 0x40))) phased
     ((stepOf t).fault, (tget ErrEntry.none t.log.ring 0).code, (tget ErrEntry.none t.log.ring 0).addr,
       (tget ErrEntry.none t.log.ring 0).unitKind)) = (some (0x0303, 0), 0x12, 0x40, 3) ∧
    (let t := after (.stepLayer 5 [] (bad (.lane 7 55 6))) phased
     (t.press.faultCount, t.press.faultEngine, t.press.faultTile, t.press.faultGroup, t.press.faultKind)) = (1, 7, 55, 6, 1) := by
  decide +kernel

/-- A fill of two rows, one Press engine in PROMPT; and its chunk past the last layer. -/
def promptFill : Append := { begunAppend with tokens := [0, 0], rows := [0], given := 0, done := 0 }
def prompting : State :=
  let s := withSeq 4095 { readyEntry with state := 2, appends := [promptFill], pages := [{ page := 9, shared := false }] } (loaded 2 placedTiny)
  { s with press := { s.press with engines := [(0, { PressEngine.reset with phase := 1 })] } }
def chunking : State :=
  let s := after (.chunkStart 15) prompting
  { s with seqs := { s.seqs with chunks := s.seqs.chunks.map (fun c => { c with layer := 1 }) } }
def theChunk : Chunk := chunking.seqs.chunks.headD { id := 0, model := 0, rows := [], cap := Captured.none, layer := 0, hold := none }
/-- A step that holds for block 77, quarantined; and a quarantined block of a mirrored range. -/
def heldStep : State :=
  let s := modStep 5 (fun p => { p with hold := some (77, 0) }) phased
  { s with mem := { s.mem with quarantine := [(0, { dpa := 77 * 4096, lines := 0, stamp := 100, detail := 15, variant := 0, state := 1 })] } }
def badBlock : QuarEntry := { dpa := 0x10000, lines := 0, stamp := 0, detail := 15, variant := 0, state := 1 }
def mirrorBad : State := { mirrored with mem := { mirrored.mem with quarantine := [(3, badBlock)] } }

theorem test_witness_ChunksRunAndFaultsAreRepaired : prompting.inCascade = false ∧ prompting.released = true ∧ prompting.workStarts = true ∧
    prompting.pressIn 1 = true ∧ bit prompting.mem.suspect 15 = false ∧ chunkRows 256 (prompting.promptQueue 15) ≠ [] ∧
    chunking.seqs.chunks.find? (fun c => c.id == theChunk.id) = some theChunk ∧ chunking.share theChunk.id = none ∧
    (∀ x ∈ chunking.seqs.chunks, x.id < theChunk.id → ∀ a ∈ x.rows, ∀ b ∈ theChunk.rows, a.q ≠ b.q) ∧ chunking.pressIn 1 = true ∧
    chunking.kindsUp [2, 3, 6] = true ∧ theChunk.hold = none ∧ (chunking.model theChunk.model).layers ≤ theChunk.layer ∧
    theChunk.rows.map (·.outcome) = [13] ∧ theChunk.rows.map (fun x => (chunking.seq x.q).gen == x.gen) = [true] ∧
    theChunk.rows.map (fun x => (chunking.seq x.q).appends.map (·.begun)) = [[true]] ∧ (stepOf heldStep).hold = some (77, 0) ∧
    heldStep.ctl.running = true ∧ mirrorBad.quarSlot 16 = some (3, badBlock) ∧ badBlock.state = 1 ∧
    mirrorBad.stopped (16 * 4096) = false := by decide +kernel

/-- The chunk as it starts; an uncorrectable word re-queues it and fails no fill (R462). -/
def startedChunk : State := after (.chunkStart 15) prompting

theorem test_witness_ChunkBeforeItsLastLayer : startedChunk.inCascade = false ∧ startedChunk.released = true ∧
    startedChunk.pressIn 1 = true ∧ startedChunk.kindsUp [2, 3, 6] = true ∧
    startedChunk.seqs.chunks.map (fun c => (c.layer, c.hold, (startedChunk.share c.id).isNone)) = [(0, none, true)] ∧
    (startedChunk.model 15).layers = 1 := by decide +kernel

theorem test_own_faults_requeue_the_chunk :
    (let t := after (.chunkComplete theChunk.id [] (bad (.bank 24 true 5))) startedChunk
     (t.seqs.chunks.map (·.layer), decide (t.seqs.entries = startedChunk.seqs.entries), t.zest.faultSection, t.zest.faultKind,
       t.zest.faultSlot, t.zest.faultCount)) = ([0], true, 24, 1, 5, 1) := by decide +kernel

/-- What reading the mirror of block 16 leaves, with the symbols in error. -/
def mirrorReads (errs : List SymErr) : List (Option (List Byte)) × State :=
  ((List.range 128).map (fun k => 128 * 16 + k)).foldl (fun (a : List (Option (List Byte)) × State) b =>
    ((a.1 ++ [(readMirror (ledgerReader 9) b a.2).1]), (readMirror (ledgerReader 9) b a.2).2)) ([], addErrs errs mirrorBad)
def mirrorErrs : List SymErr := (List.range 3).map (fun l => { burst := pipBase0 / 32, lane := l, pattern := 1 })

theorem test_witness_MirrorReads : (mirrorReads []).1.all (·.isSome) = true ∧ (mirrorReads []).2.quarSlot 16 = some (3, badBlock) := by
  decide +kernel

theorem test_witness_MirrorFails : (mirrorReads mirrorErrs).1.all (·.isSome) = false ∧
    ((mirrorReads mirrorErrs).2.quarSlot 16).map (·.1) = some 3 := by decide +kernel

/-- Every opening of a group on Press engine 7, and the module with one group open. -/
def openGroup : PressGroup :=
  { tile := 7, count := 1, rows := 32, lenLog2 := 12, mat := 0, col := 0, spillAddr := 0x40, model := 16, pos := 0, lanes := [] }
def withGroup (x : PressGroup) (s : State) : State := s.modPress 7 (fun v => { v with groups := [(7, x)] })
def opened : State := withGroup openGroup up
/-- The group saved in Orchard SRAM at 0x80 of its engine's half of a stem. -/
def savedGroup : State := { up with press := { up.press with saved := [(orchardAt 7 0x80, openGroup)] } }
/-- The group on a module with a model, at columns past those of the matrix. -/
def passing : State := withGroup { openGroup with col := 5000 } (loaded 2 placedTiny)
def passInstr : PressInstr := { PressInstr.plain 2 7 with tile := 0, count := 1, fmt := 0, wsrc := pipBase0, addr := 0, errs := [], own := OwnReads.clean }

theorem test_witness_PressGroupsOpenStreamAndClose : up.enginesOn = true ∧ opened.enginesOn = true ∧ passing.enginesOn = true ∧
    savedGroup.enginesOn = true ∧ openGroup.count = 1 ∧ (up.pressEngine 7).queue = [] ∧ tilesOk 7 49 7 = true ∧
    1 ≤ 224 ∧ 224 ≤ min 256 (32 * 7) ∧ (up.pressEngine 7).groups = [] ∧ (opened.pressEngine 7).queue = [] ∧
    (opened.pressEngine 7).group 7 = some openGroup ∧ (passing.pressEngine 7).queue = [] ∧
    (passing.pressEngine 7).group 7 = some { openGroup with col := 5000 } ∧
    passing.weightModel { openGroup with col := 5000 } pipBase0 = some 15 ∧ openGroup.pos = 0 ∧ (savedGroup.pressEngine 7).queue = [] ∧
    savedGroup.press.saved.find? (fun y => y.1 == orchardAt 7 0x80) = some (orchardAt 7 0x80, openGroup) ∧
    (savedGroup.pressEngine 7).groups = [] ∧ (up.pressEngine 7).group 7 = none := by decide +kernel

/-- A CLOSE that reads an uncorrectable lane word discards its group and writes no result (R177). -/
theorem test_close_discards_on_a_bad_lane_word :
    (let t := after (.pressClose 7 7 0x80 (bad (.lane 7 7 7))) opened
     ((t.pressEngine 7).groups.length, decide (t.orchard = opened.orchard), t.press.faultTile, t.press.faultKind)) =
      (0, true, 7, 1) := by decide +kernel

/-- A list whose items all give nothing, filtered in a layer, gives the empty list. -/
theorem filterMapM_none {α β : Type} (g : α → Lay (Option β)) (l : List α) (h : ∀ j ∈ l, g j = pure none) :
    l.filterMapM g = pure [] := by
  induction l with
  | nil => rfl
  | cons a l ih =>
    rw [List.filterMapM_cons, h a (List.mem_cons_self ..), pure_bind, ih (fun j hj => h j (List.mem_cons_of_mem _ hj))]

theorem no_such_column : (List.range 256).all (fun j => (placedTiny.entryOf 0 0 (5000 + j)).isNone) = true := by decide +kernel

/-- The group at columns past those of the matrix, which has no spill pair yet. -/
def pastGroup : PressGroup := { openGroup with col := 5000 }

theorem test_witness_PassReadsItsWeights : pastGroup.spills = false ∧ ∀ v : State,
    v = { passing with press := { passing.press with engines := v.press.engines }, orchard := passing.orchard } →
    ∃ u, tileCells (v.passIn 15 pastGroup passInstr) 7 passInstr pastGroup (tileBase (passing.model 15) pastGroup 0 pipBase0)
      (8 * tilePositions 0) (addErrs [] v) = (.ok [], u) ∧ u.press.engines = v.press.engines := by
  refine ⟨by decide +kernel, ?_⟩
  intro v h
  rw [h]
  generalize v.press.engines = x
  refine ⟨addErrs [] { passing with press := { passing.press with engines := x } }, ?_, rfl⟩
  unfold tileCells
  rw [filterMapM_none]
  · rfl
  · intro j hj
    have hn := List.all_eq_true.mp no_such_column j hj
    have hm : (({ passing with press := { passing.press with engines := x }, orchard := passing.orchard } : State).passIn 15 pastGroup
        passInstr).model.entryOf (pastGroup.mat / 8) (pastGroup.mat % 8) (pastGroup.col + j) = none := Option.isNone_iff_eq_none.mp hn
    rw [hm]

/-- Modules at the end of 64 boundaries, before it, and with a formed step that lacks its engines. -/
def boundaries (n : Nat) : State := { up with seqs := { up.seqs with windowBoundaries := n } }

theorem test_witness_PhaseWindowsEnd : up.released = true ∧ 64 ≤ (boundaries 64).seqs.windowBoundaries ∧
    (boundaries 63).seqs.windowBoundaries < 64 ∧ up.ctl.running = true ∧ up.earlyDue = false := by decide +kernel

theorem test_witness_EarlyEdge : formed.released = true ∧ formed.earlyDue = true := by decide +kernel

/-- Press engine 7 has Zest work in DECODE. -/
def zestUp : State := { up with press := { up.press with engines := [(7, { PressEngine.reset with phase := 0 })] } }
/-- Section 31 runs a program of one word with three registers set. -/
def zestWord (op imm : Nat) : Nat := op * 2 ^ 58 + 31 * 2 ^ 53 + 2 * 2 ^ 48 + 3 * 2 ^ 43 + 4 * 2 ^ 38 + imm
def oneJob : ZestJob :=
  { bank := 0, slot := 5, pc := 0, regs := [(2, 0x3F800000), (3, 0x40000000), (4, 0x40400000)], result := none }
def section31 (op : Nat) : State :=
  { up with zest := { up.zest with
    bank0 := { tables := [], programs := [(5, [BitVec.ofNat 64 (zestWord op 0)])] }, jobs := [(31, some oneJob)] } }

theorem test_witness_ZestSectionsRunTheirPrograms : up.enginesOn = true ∧ up.sectionWorks 31 = false ∧ zestUp.enginesOn = true ∧
    zestUp.sectionWorks 31 = true ∧ zestUp.zestJob 31 = none ∧ (∀ op, op < 12 → (section31 op).enginesOn = true ∧ (section31 op).zestJob 31 = some oneJob ∧ oneJob.result = none ∧
      bits ((section31 op).jobWord oneJob) 58 6 = op) := by decide +kernel

/-- A job that reads an uncorrectable bank word stops; corrected words are counted (R233). -/
theorem test_zest_bank_faults :
    (let t := after (.zestJob 31 5 0 0 { corrected := 5000, bad := some (.bank 31 false 15) }) zestUp
     (t.zestJob 31, t.zest.faultCorr, t.zest.faultSection, t.zest.faultSlot, t.zest.faultKind)) = (none, 4095, 31, 15, 0) := by
  decide +kernel

/-! ## Witnesses: pips -/

/-- Pip stack 0 answers its sensors, and its first granule is compute; a PIP_RUN of pip 0 there with one row result. -/
def coolUp : State := { up with mem := { up.mem with hbm := [(0, { Stack.reset with state := 1 })], compute := [0x1000000] } }
def runRec : Taken := rc 0x51 [(0x20, 1, 0), (0x21, 1, 15), (0x22, 2, 0), (0x24, 2, 1), (0x32, 2, 32), (0x34, 2, 1), (0x38, 4, 1),
  (0x40, 8, 0x40000), (0x48, 4, 1)]
def loadRec : Taken :=
  rc 0x50 [(0x20, 1, 7), (0x22, 2, 1535), (0x24, 2, 1), (0x26, 1, 254), (0x28, 2, 2), (0x2A, 1, 1), (0x30, 8, 0x40)]
def pipProgram : List Byte := natLe 8 (2 ^ 58) ++ natLe 8 0
def statusRec : Taken := rc 0x52 [(0x20, 1, 7), (0x21, 1, 15)]
def warm : State := coolUp.modStack 0 (fun v => { v with thermal := 1 })
/-- The run held, and the run in a state, in a slice or between slices. -/
def aRun (st : Nat) : Run := { runOfRecord 0 runRec with state := st, slices := if st = 0 then 0 else 1 }
def heldRun : State := coolUp.modPip 0 (fun v => { v with held := [(15, aRun 0)] })
def inRun (st : Nat) (slice : Bool) : State := coolUp.modPip 0 (fun v => { v with
  runs := [(15, aRun st)], inSlice := slice, sliceNo := 1, sliceRows := 30, credit := 512 })

theorem test_witness_PipRecordsAndSlices : Ready 0x50 0 0 loadRec (takes loadRec up) ∧
    ((takes loadRec up).pip (loadRec.at 0x20 1)).pipsBusy (loadRec.at 0x22 2) (loadRec.at 0x24 2) = false ∧
    (takes loadRec up).earlierPips loadRec [0x50, 0x51] = false ∧
    (readSource (loadRec.at 0x2A 1 == 1) (loadRec.at 0x30 8) (8 * loadRec.at 0x28 2) (hostSrc pipProgram) (takes loadRec up)).1 =
      .bytes pipProgram ∧
    (chunksOf 8 pipProgram).map leNat = [2 ^ 58, 0] ∧ wordOk (loadRec.at 0x26 1) (2 ^ 58) = true ∧ wordOk (loadRec.at 0x26 1 + 1) 0 = true ∧
    Ready 0x51 0 0 runRec (takes runRec coolUp) ∧ (takes runRec coolUp).earlierPips runRec [0x50] = false ∧
    firstFail ((takes runRec coolUp).programChecks runRec) = none ∧ (coolUp.stack (stackOfPip (runRec.at 0x20 1))).thermal = 0 ∧
    Ready 0x51 0 0 runRec (takes runRec warm) ∧ (takes runRec warm).earlierPips runRec [0x50] = false ∧
    firstFail ((takes runRec warm).programChecks runRec) = none ∧ (warm.stack (stackOfPip (runRec.at 0x20 1))).thermal ≠ 0 ∧
    Ready 0x52 0 0 statusRec (takes statusRec up) ∧ ((landedSlot (recBytes 0x52 [])).candidate 0).opcode = 0x52 := by simp only [ready_iff]; decide +kernel

/-- An access of the bank pair waits for the end of the slice. -/
def heldAccess : State :=
  let s := inRun 2 true
  { s with host := { s.host with held := [{ dpa := pipBase0, write := none }] } }

theorem test_witness_SlicesAndRebuilds : heldRun.released = true ∧ (heldRun.pip 0).inSlice = false ∧
    (heldRun.stack (stackOfPip 0)).thermal ≠ 4 ∧ (heldRun.stack (stackOfPip 0)).powerSr = false ∧ heldRun.unitUp 6 0 = true ∧
    (heldRun.pip 0).held = [(15, aRun 0)] ∧ heldRun.admitting 0 = true ∧ heldRun.admits 0 (aRun 0) = true ∧
    heldRun.admitChecks 0 15 (aRun 0) = none ∧ (aRun 0).actBytes = 0 ∧ (inRun 2 false).released = true ∧
    ((inRun 2 false).pip 0).inSlice = false ∧ ((inRun 2 false).pip 0).held = [] ∧ (inRun 2 false).unitUp 6 0 = true ∧
    ((inRun 2 false).pip 0).runs.any (fun e => e.2.state == 2) = true ∧ (up.pip 0).held = [] ∧ (up.pip 0).inSlice = false ∧
    (up.pip 0).runs.any (fun e => e.2.state == 2) = false ∧ (inRun 2 true).released = true ∧ ((inRun 2 true).pip 0).inSlice = true ∧
    heldAccess.released = true ∧ (heldAccess.pip 0).inSlice = true ∧ heldAccess.host.held = [{ dpa := pipBase0, write := none }] ∧
    heldAccess.vine.collects = [] ∧ heldAccess.closedAt pipBase0 = true ∧
    (heldAccess.modPip 0 (fun v => { v with inSlice := false })).closedAt pipBase0 = false ∧
    (inRun 3 false).released = true ∧ tget Run.free ((inRun 3 false).pip 0).runs 15 = aRun 3 ∧ (aRun 3).state = 3 ∧
    ((inRun 3 false).stack (stackOfPip 0)).thermal ≠ 4 ∧ ((inRun 3 false).stack (stackOfPip 0)).powerSr = false := by decide +kernel

/-- Pip 0 is to run the instruction w, with A[1] = 4, A[2] = 8, A[3] = 0 and the state u; a first row of a write range. -/
def pipWord (op fmt rd ra rb : Nat) (inc : Bool) (count imm : Nat) : Nat :=
  op * 2 ^ 58 + fmt * 2 ^ 55 + rd * 2 ^ 52 + ra * 2 ^ 49 + rb * 2 ^ 46 + b2n inc * 2 ^ 45 + (count - 1) * 2 ^ 32 + imm
def atWord (u : Pip) (first w : Nat) : State :=
  (inRun 2 true).modPip 0 (fun v => { v with
    runs := [(15, { aRun 2 with wrowFirst := first })]
    pips := [(0, { u with store := tset 0 [] 5 w, pc := 5, a := [(1, 4), (2, 8)] })] })
def aPip : Pip := { Pip.reset with l := 3, lanes := 4, nseq := 2, laneFirst := 4 }
def fullPip : Pip := { Pip.reset with lanes := 8, nseq := 1 }

/-- What PipAt says, with the run in slot 15. -/
def pipAtB (op w : Nat) (s : State) : Bool :=
  s.released && (s.pip 0).inSlice && !(s.pipUnit 0 0).ready && ((s.stack (stackOfPip 0)).thermal != 4) && iOp w == op &&
    w == tget 0 (s.pipUnit 0 0).store (s.pipUnit 0 0).pc &&
    decide ((s.pip 0).runOf 0 = some (15, tget Run.free (s.pip 0).runs 15)) &&
    (s.pip 0).active 0 && s.inStep 0 0 (tget Run.free (s.pip 0).runs 15)

theorem pipAt_of {op w : Nat} {s : State} (h : pipAtB op w s = true) : PipAt 0 0 op 15 w s := by
  simp only [pipAtB, Bool.and_eq_true, Bool.not_eq_true', bne_iff_ne, beq_iff_eq, decide_eq_true_eq] at h
  obtain ⟨⟨⟨⟨⟨⟨⟨⟨h1, h2⟩, h3⟩, h4⟩, h5⟩, h6⟩, h7⟩, h8⟩, h9⟩ := h
  exact ⟨h1, h2, h3, h4, h5, h6, _, h7, h8, h9⟩

theorem control_words : [0, 1, 2, 3, 0x21, 0x18, 0x20, 0x28].all (fun op =>
    pipAtB op (pipWord op (if op = 0x20 then 4 else 1) 3 1 0 true 1 2) (atWord aPip 0 (pipWord op (if op = 0x20 then 4 else 1) 3 1 0 true 1 2))) =
      true := by decide +kernel

theorem test_witness_PipControlInstructions : (∀ op ∈ [0, 1, 2, 3, 0x21, 0x18, 0x20, 0x28],
      PipAt 0 0 op 15 (pipWord op (if op = 0x20 then 4 else 1) 3 1 0 true 1 2)
        (atWord aPip 0 (pipWord op (if op = 0x20 then 4 else 1) 3 1 0 true 1 2))) :=
  fun op h => pipAt_of (List.all_eq_true.mp control_words op h)

/-- REDUCE with the tag 0 or 1. -/
def reduceWord (tag : Nat) : Nat := pipWord 0x28 0 0 0 0 false 1 tag

/-- A word over two rows; a pip with one row left in the slice; a REDUCE whose row slot holds another tag. -/
def twoRows (op : Nat) : Nat := pipWord op 1 3 1 0 true 2 2
def latePip : Pip := { aPip with slice := 1, used := 29 }
def clashing : State := (atWord aPip 0 (reduceWord 0)).modPip 0 (fun v => { v with gather := [{ run := 15, tag := 5, sums := [] }] })

theorem test_witness_ComputeRowsAndTags :
    (∀ op ∈ [0x18, 0x20], ∀ j, j < (atWord aPip 0 (twoRows op)).rowsNow 0 0 (twoRows op) →
      (atWord aPip 0 (twoRows op)).isCompute (plotRow 0 0
        ((atWord aPip 0 (twoRows op)).pipA 0 0 (iRa (twoRows op)) + ((atWord aPip 0 (twoRows op)).pipUnit 0 0).row + j)) = true) ∧
    (atWord aPip 0 (twoRows 0x20)).mem.unlanded = [] ∧ ((atWord aPip 0 (twoRows 0x20)).pipUnit 0 0).row = 0 ∧
    (atWord aPip 0 (twoRows 0x20)).rowsNow 0 0 (twoRows 0x20) = iCount (twoRows 0x20) ∧
    pipAtB 0x20 (twoRows 0x20) (atWord latePip 0 (twoRows 0x20)) = true ∧
    (atWord latePip 0 (twoRows 0x20)).rowsNow 0 0 (twoRows 0x20) = 1 ∧ iCount (twoRows 0x20) = 2 ∧
    pipAtB 0x28 (reduceWord 0) clashing = true ∧ (clashing.pip 0).gather = [{ run := 15, tag := 5, sums := [] }] ∧
    5 % max 1 (tget Run.free (clashing.pip 0).runs 15).gatherSlots = 0 % max 1 (tget Run.free (clashing.pip 0).runs 15).gatherSlots ∧
    bit (tget Run.free ((atWord aPip 0 (reduceWord 0)).pip 0).runs 15).faults 1 = false ∧
    (tget Run.free ((atWord aPip 0 (reduceWord 1)).pip 0).runs 15).outRows ≤ iImm (reduceWord 1) % 65536 ∧
    iImm (reduceWord 0) % 65536 < (tget Run.free ((atWord aPip 0 (reduceWord 0)).pip 0).runs 15).outRows ∧
    ((atWord aPip 0 (reduceWord 0)).pip 0).gather = [] ∧ aPip.lanes ≠ 0 ∧ aPip.lanes < 8 ∧ aPip.laneFirst + aPip.lanes ≤ 8 ∧
    aPip.nseq ≠ 0 ∧ fullPip.lanes = 8 ∧ fullPip.laneFirst = 0 ∧ pipAtB 0x28 (reduceWord 0) (atWord fullPip 0 (reduceWord 0)) = true := by
  decide +kernel

/-- The state before that REDUCE, all lanes present. -/
def rowState : State := atWord fullPip 0 (reduceWord 0)

theorem row_plain : Plain 0x2000 1 rowState := by unfold Plain; decide +kernel

theorem test_witness_RowResultIsWritten : ∀ v : State, v = { rowState with pips := v.pips } → ∀ out : List Byte,
    out.length = 32 → (writeMem 6 (32 * 0x2000) out v).1 = true ∧ (writeMem 6 (32 * 0x2000) out v).2.pips = v.pips := by
  intro v h out ho
  obtain ⟨m, hm⟩ := writeMem_plain (unit := 6) (Nat.one_pos) ho (plain_of_mem (v := v) (by rw [h]) (by rw [h]) row_plain)
  rw [hm]
  exact ⟨rfl, rfl⟩

/-- Words over rows: with A alone, with none, with A and B. -/
def rowWord (op : Nat) : Nat := pipWord op 1 3 1 2 true 2 0x40000000

theorem row_words : [0x08, 0x0D, 0x12, 0x09, 0x0A, 0x0B, 0x0C, 0x10, 0x11, 0x19].all (fun op =>
    pipAtB op (rowWord op) (atWord aPip 0 (rowWord op))) = true := by decide +kernel

theorem test_witness_PipRowInstructions : (∀ op ∈ [0x08, 0x0D, 0x12, 0x09, 0x0A, 0x0B, 0x0C, 0x10, 0x11, 0x19],
      PipAt 0 0 op 15 (rowWord op) (atWord aPip 0 (rowWord op))) ∧
    (∀ op ∈ [0x08, 0x0D, 0x12], RowsFree 0 0 15 (rowWord op) true false (atWord aPip 0 (rowWord op))) ∧
    RowsFree 0 0 15 (rowWord 0x09) false false (atWord aPip 0 (rowWord 0x09)) ∧
    (∀ op ∈ [0x0A, 0x0B, 0x0C, 0x10, 0x11, 0x19], RowsFree 0 0 15 (rowWord op) true true (atWord aPip 0 (rowWord op))) := by
  refine ⟨fun op h => pipAt_of (List.all_eq_true.mp row_words op h), ?_, ?_, ?_⟩ <;> (unfold RowsFree RowLanded; dsimp only; decide +kernel)

/-- A FILL of one row below the write range. -/
def fenceWord : Nat := pipWord 9 0 3 0 0 true 1 5

theorem test_witness_RowFence : PipAt 0 0 0x09 15 fenceWord (atWord aPip 32 fenceWord) ∧ iCount fenceWord = 1 ∧
    ((atWord aPip 32 fenceWord).pipUnit 0 0).row = 0 ∧ 1 ≤ (atWord aPip 32 fenceWord).rowsLeft 0 0 ∧
    (atWord aPip 32 fenceWord).pipA 0 0 (iRd fenceWord) % 32768 <
      (tget Run.free ((atWord aPip 32 fenceWord).pip 0).runs 15).wrowFirst :=
  ⟨pipAt_of (by decide +kernel), by decide +kernel, by decide +kernel, by decide +kernel, by decide +kernel⟩

/-! ## Witnesses: heat, leases and punnets -/

/-- A stack that answers its sensors, one that has cooled; a die that has cooled; a module over its power, and at its lowest level. -/
def sensing (i : Nat) : State := up.modStack i (fun v => { v with sensors := true })
def cooling (i : Nat) : State := up.modStack i (fun v => { v with temp := 84, thermal := 1, cool := [(1, some 7)], refreshCool := [(3, some 9)], refresh := 3 })
def dieCooling : State := up.modWedge 3 (fun v => { v with temp := 90, dieState := 2, cool := [(2, some 7)] })
def training : State := { up with boot := { up.boot with stage := 5 } }
def slicing : State := up.modPip 0 (fun v => { v with inSlice := true, refreshDue := 4 })
def powered (mv watts : Nat) (low : Option Nat) (samples : List Nat) : State :=
  { up with pwr := { up.pwr with capMv := mv, watts := watts, lowSince := low, samples := samples } }

theorem test_witness_HeatAndPowerSamples : up.released = true ∧ ((sensing 0).stack 0).sensors = true ∧ (sensing 0).released = true ∧
    5 ≤ up.boot.stage ∧ up.boot.stage ≤ 7 ∧ training.boot.stage = 5 ∧ ((sensing 0).stack 0).thermal < 4 ∧ isPipStack 0 = true ∧
    (∀ j, j < 8 → up.stageOk (j / 2) 400 = true) ∧ (∀ j, j < 8 → 650 ≤ up.railMv (j / 2)) ∧ up.stageOk 3 100 = false ∧
    (up.stack 0).sensors = false ∧ up.boot.stage ≠ 5 ∧ ((cooling 2).stack 2).coolSince = some 7 ∧ (cooling 2).ctl.running = true ∧
    (up.stack 2).coolSince = none ∧ ((cooling 2).stack 2).refreshSince = some 9 ∧ (up.stack 2).refreshSince = none ∧
    isPipStack 2 = false ∧ isPipStack 0 = true ∧ (slicing.pip (pipOfStack 0)).inSlice = true ∧
    (isPipStack 0 && (up.pip (pipOfStack 0)).inSlice) = false ∧ (dieCooling.wedge 3).coolSince = some 7 ∧ dieCooling.ctl.running = true ∧
    (powered 840 800 (some 5) []).pwr.lowSince = some 5 ∧ (powered 840 800 (some 5) []).pwr.capMv < 850 ∧
    (powered 650 100 none [500]).pwr.unmet = false ∧ (powered 650 100 none [500]).pwr.capMv = 650 ∧
    (powered 650 100 none [500]).pwr.watts < (powered 650 100 none [500]).avgWatts ∧ up.boot.pg = true ∧ up.boot.stage ≤ 8 ∧
    105 ≤ min 255 (([105, 1].take 8).foldl max 0) ∧ min 255 (([10, 20, 30, 40, 50, 60, 70, 99, 200].take 8).foldl max 0) < 105 ∧
    State.reset.boot.pg = false := by decide +kernel

/-- Leases of a codec pair and a Stone core; a core in reset; a unit in reset. -/
def leased : State := { up with ctl := { up.ctl with leases := [
  { cls := 5, holder := 7, res := 0, renewed := 3 }, { cls := 1, holder := 2, res := 0, renewed := 3 }] } }
def coreInReset : State := up.modCore 7 (fun c => { c with state := 2 })
def outOfService (kind index : Nat) : State :=
  { up with ctl := { up.ctl with unitResets := [{ kind := kind, index := index, answer := none, ended := 0 }] } }
def unitRec (kind index : Nat) : Taken := rc 4 [(0x20, 1, kind), (0x21, 1, index)]

theorem test_witness_LeasesWatchdogsAndUnitResets : up.released = true ∧ leaseTicks 5 ≠ none ∧
    up.leaseTimed { cls := 5, holder := 7, res := 0, renewed := up.now } = true ∧
    leased.ctl.leases.find? (fun l => l.is 5 7 0) = some { cls := 5, holder := 7, res := 0, renewed := 3 } ∧
    leased.leaseTimed { cls := 5, holder := 7, res := 0, renewed := 3 } = true ∧
    leased.ctl.leases.find? (fun l => l.is 1 2 0) = some { cls := 1, holder := 2, res := 0, renewed := 3 } ∧ leaseTicks 1 ≠ none ∧
    leased.leaseTimed { cls := 1, holder := 2, res := 0, renewed := 3 } = true ∧ leased.ctl.running = true ∧ (up.core 7).state = 1 ∧
    (coreInReset.core 7).state = 2 ∧ coreInReset.released = true ∧
    (∀ x ∈ [(2, 7), (3, 23), (4, 7), (5, 3), (6, 7), (7, 11), (8, 3)], (outOfService x.1 x.2).unitUp x.1 x.2 = false ∧ x.1 ≠ 1 ∧
      ((outOfService x.1 x.2).vinePort x.2).state ≠ 1 ∧ ((outOfService x.1 x.2).punPort x.2).resetAt = none) ∧
    (∀ x ∈ [(1, 7), (2, 23), (3, 7), (4, 3), (5, 7), (6, 7), (7, 11), (8, 3)], Ready 4 0 0 (unitRec x.1 x.2) (takes (unitRec x.1 x.2) up) ∧
      firstFail ((takes (unitRec x.1 x.2) up).unitResetChecks 0 (unitRec x.1 x.2)) = none) ∧ up.live = true := by
  simp only [ready_iff]; decide +kernel

/-- Punnet port 3 as given, and parks on it; a punnet that fits; a command in flight. -/
def port3 (v : PunPort) : State := { up with pun := { up.pun with ports := [(3, v)] } }
def with3 (st : Nat) (s : State) : State := { s with pun := { s.pun with parks := [{ aPark st with
  handle := 9, port := 3, blocks := [{ idx := 0, bytes := [1, 2, 3], lba := some 0, lbas := 1, bind := none, raw := false, acked := false }] }] } }
def seated : PunPort := { PunPort.reset with state := 1, width := 4, rate := 5 }
def aFit : PunnetFacts :=
  { nvmeMajor := 2, namespaceActive := true, lbaBytes := 4096, metadata := false, protection := false, mqes := 256, ioPairs := 2,
    lbas := 100000, mdts := 0, certificate := List.replicate 256 0, signature := [], challenge := [], dataUnitsWritten := 7, mediaReadOnly := false }
def aCmd (aborted : Option Nat) : NvmeCmd :=
  { cid := 4, opcode := 1, handle := 9, idx := 0, lba := 0, lbas := 1, issued := 5, aborted := aborted }
def flying (aborted resetAt : Option Nat) : State :=
  with3 1 (port3 { goodPort with cmds := [aCmd aborted], resetAt := resetAt })
/-- Two Write commands that carry one block. -/
def twice : State := with3 1 (port3 { goodPort with cmds := [aCmd none, { aCmd none with cid := 5 }] })
def bindRec : Taken := rc 0x70 [(0x20, 1, 3)]
def queryRec : Taken := rc 0x71 [(0x20, 1, 3)]
def retireRec (op : Nat) : Taken := rc 0x72 [(0x20, 1, 3), (0x21, 1, op)]
def emptied : State := port3 goodPort
def lived : State := with3 4 (port3 goodPort)

theorem test_witness_PunnetPortsBindRetireAndFail : ReadyInTurn 0x70 0 0 bindRec (takes bindRec (port3 seated)) ∧
    ((port3 seated).punPort (bindRec.at 0x20 1)).state ≠ 0 ∧ ((port3 seated).punPort (bindRec.at 0x20 1)).width ≠ 0 ∧
    ((port3 seated).punPort (bindRec.at 0x20 1)).works = false ∧ punnetFits aFit = true ∧ bindRec.at 0x28 8 = 0 ∧
    Ready 0x71 0 0 queryRec (takes queryRec up) ∧ ((landedSlot (recBytes 0x71 [])).candidate 0).opcode = 0x71 := by
  simp only [ReadyInTurn, ready_iff]; decide +kernel

theorem test_witness_PunnetsRetire :
    (∀ s ∈ [emptied, lived], ∀ op ∈ [0, 1], Ready 0x72 0 0 (retireRec op) (takes (retireRec op) s) ∧
      ((takes (retireRec op) s).punPort ((retireRec op).at 0x20 1)).works = true ∧ (retireRec op).at 0x21 1 = op) ∧
    (takes (retireRec 0) lived).parksOn 3 ≠ [] ∧ (takes (retireRec 0) emptied).parksOn 3 = [] ∧
    (∀ k ∈ (takes (retireRec 1) lived).parksOn 3, k.state = 4 ∧ (takes (retireRec 1) lived).readBefore (retireRec 1) k.handle = false) := by simp only [ready_iff]; decide +kernel

theorem test_witness_PunnetsFail :
    (up.punPort 3).state = 0 ∧ up.released = true ∧ (lived.punPort 3).state ≠ 0 ∧ (flying none none).nvme 3 4 = some (aCmd none) ∧
    ((flying none none).punPort 3).queued (aCmd none) = false ∧ ((flying (some 7) none).punPort 3).queued (aCmd (some 7)) = false ∧
    twice.nvme 3 4 = some (aCmd none) ∧ (twice.punPort 3).resetAt = none ∧ (twice.punPort 3).queued (aCmd none) = false ∧
    { aCmd none with cid := 5 } ∈ (twice.punPort 3).cmds ∧ lived.ctl.running = true ∧
    (∀ x ∈ ((flying none none).punPort 3).cmds, x.cid = 4 ∨ x.opcode ≠ 1 ∨ x.handle ≠ (aCmd none).handle ∨ x.idx ≠ (aCmd none).idx) ∧
    (aCmd none).aborted = none ∧ ((flying none none).punPort 3).resetAt = none ∧ ((flying none none).punPort 3).state ≠ 4 ∧
    (flying none none).ctl.running = true ∧ ((flying (some 7) none).punPort 3).cmds.findSome? (fun c => c.aborted) = some 7 ∧
    ((flying (some 7) none).punPort 3).resetAt = none ∧ ((flying (some 7) none).punPort 3).state ≠ 4 ∧
    ((flying none (some 7)).punPort 3).resetAt = some 7 ∧ (flying none (some 7)).now < 7 + 1000000000 ∧
    (flying (some 7) none).nvme 3 4 = some (aCmd (some 7)) ∧ (aCmd (some 7)).aborted ≠ none ∧ (0#15).toNat % 2048 = 0 ∧
    (aCmd none).opcode = 1 ∧ ((flying none none).park 9).map (fun k => k.block 0 != none) = some true ∧ (1#15).toNat % 2048 ≠ 0 ∧
    (lived.punPort 3).works = true ∧ (up.punPort 3).works = false := by decide +kernel

/-! ## Witnesses: Vine -/

/-- Port 11 as given; a port that is up, with frames waiting on channel 1 and the last sequence number received. -/
def port11 (v : VinePort) : State := { up with vine := { up.vine with ports := [(11, v)] } }
def upPort : VinePort := { VinePort.reset with state := 2, width := 8, heardAt := 5, waiting := [(1, 3)], rxSeq := 4095 }
def aFrame : VineFrame :=
  { fseq := 0, ack := 0, nak := false, vc := 0, idle := false, credits := 0, creditVc := 0, corrected := false, correctable := true }

theorem test_witness_VineLinksTrainAndFail : up.released = true ∧ up.vine.en = true ∧ (up.vinePort 11).state ≤ 1 ∧
    Config.serial + 1 ≠ Config.serial ∧ (0x1F : BitVec 8) ≠ 0xFF#8 ∧ (0x1F : BitVec 8) ≠ 0x0F#8 ∧ (0x1F : BitVec 8) ≠ 0xF0#8 ∧
    ((port11 { VinePort.reset with triedAt := 5 }).vinePort 11).state = 0 ∧ (port11 upPort).released = true ∧
    ((port11 upPort).vinePort 11).up = true ∧ (port11 upPort).ctl.running = true ∧
    17 ≤ ((port11 { upPort with replayFails := 17 }).vinePort 11).replayFails ∧
    ((port11 { upPort with replayFails := 16 }).vinePort 11).replayFails < 17 ∧ tget 0 ((port11 upPort).vinePort 11).waiting 1 ≠ 0 ∧
    { aFrame with correctable := false }.correctable = false ∧ aFrame.correctable = true ∧ aFrame.idle = false ∧
    (aFrame.fseq + 4096 - ((port11 upPort).vinePort 11).rxSeq) % 4096 = 1 ∧ bit (up.stack 0).chMap 31 = false := by
  have h : ∀ x : U64, x + 1 ≠ x := by intro x h; bv_omega
  exact ⟨by decide +kernel, by decide +kernel, by decide +kernel, h _, by decide +kernel⟩

/-- Member 1 of group 0x77 with members 0, 1 and 2, two replicas and model 15, in a role; a message to it from a member. -/
def cas (st : Nat) : State :=
  { up with
    ctl := { up.ctl with ticks := 50 }
    vine := { up.vine with
      groupId := 0x77, state := st, member := 1, epoch := 4, seen := 4, stem := if st = 3 then 1 else 0, members := [0, 1, 2], size := 3
      ports := [(11, { VinePort.reset with state := 2, width := 8, peer := some 2 })], rM1 := 2, model := 15, layerCount := 1 }
    seqs := { up.seqs with groupSize := 3 } }
def mm (epoch src : Nat) : VineMsg :=
  { src := src, dst := 1, hops := 5, epoch := epoch, groupId := 0x77, msgCtr := 1, seg := 0, last := true, port := 11, sealOk := true }
/-- In an election; with its confirmation out and some acknowledgements. -/
def electing (claims : List (Nat × Nat × Nat)) : State :=
  let s := cas 2
  { s with vine := { s.vine with electing := some 5, electAt := 3, claims := claims } }
def confirming (acks : List Nat) : State :=
  let s := electing [(0, 1, 9)]
  { s with vine := { s.vine with confirmAt := some 10, acks := acks, named := [0, 1, 2], namedSize := 3, acked := 5, ackedTo := 1 } }
def keyed : State :=
  let s := cas 2
  { s with vine := { s.vine with acked := 5, ackedTo := 2, named := [1, 2], namedSize := 2 } }

theorem test_witness_GroupsElectAndChange : (electing [(0, 1, 9)]).vine.electing = some 5 ∧
    (mm 5 2).epoch = 5 ∧ (electing [(1, 5, 9), (0, 1, 9)]).released = true ∧ (electing [(1, 5, 9), (0, 1, 9)]).ctl.running = true ∧
    (electing [(1, 5, 9), (0, 1, 9)]).vine.electing = some 5 ∧ (electing [(1, 5, 9), (0, 1, 9)]).vine.confirmAt = none ∧
    bestClaim [(1, 5, 9), (0, 1, 9)] = some (1, 5, 9) ∧ (electing [(1, 5, 9), (0, 1, 9)]).vine.member = 1 ∧
    (electing [(0, 1, 9)]).vine.epoch < (mm 5 2).epoch ∧
    ([0, 1, 2] : List Nat).contains (electing [(0, 1, 9)]).vine.member = true ∧ (electing [(0, 1, 9)]).vine.acked < (mm 5 2).epoch ∧
    (confirming [1]).vine.confirmAt ≠ none ∧ (confirming [1]).vine.electing = some (mm 5 2).epoch ∧
    (confirming [1]).released = true ∧ (confirming [1]).ctl.running = true ∧ (confirming [1]).vine.confirmAt = some 10 ∧
    (confirming [1, 2]).countedMembers.length <
      2 * ((confirming [1, 2]).vine.acks.filter (confirming [1, 2]).countedMembers.contains).length ∧
    2 ≤ (confirming [1, 2]).vine.state ∧ (confirming [1, 2]).vine.stem ≠ (confirming [1, 2]).vine.member ∧
    (confirming [1, 2]).vine.steps = [] ∧
    2 * ((confirming [1]).vine.acks.filter (confirming [1]).countedMembers.contains).length ≤ (confirming [1]).countedMembers.length := by
  decide +kernel

theorem test_witness_KeysLeasesAndRoles : keyed.vine.epoch < (mm 5 2).epoch ∧ (mm 5 2).epoch = keyed.vine.acked ∧
    (mm 5 2).src = keyed.vine.ackedTo ∧ (mm 5 2).src ≠ keyed.vine.member ∧ keyed.vine.leaving = none ∧
    (cas 3).released = true ∧ (cas 3).ctl.running = true ∧ (cas 3).vine.state = 3 ∧
    2 ∈ (cas 3).vine.members ∧ 2 ≠ (cas 3).vine.member ∧ (cas 2).vine.state = 2 ∧ (cas 5).vine.state = 5 ∧
    (cas 3).demoteAt.isSome = true ∧ (mm 4 2).src ∈ (cas 3).vine.members := by decide +kernel

def joinRec : Taken := rc 0x60 [(0x20, 8, 0x77), (0x28, 2, 7), (0x2E, 1, 9), (0x2F, 1, 15), (0x32, 2, 2), (0x34, 1, 1), (0x38, 8, 0x40)]
def joinState : State := takes joinRec { up with seqs := { up.seqs with models := [(15, { Model.none with state := 2, layers := 2 })] } }
def joinBytes : List Byte := List.replicate 2048 0
def roleRec (op : Nat) : Taken := rc 0x61 [(0x20, 1, op), (0x21, 1, if op = 0 then 9 else 0)]
def leaveRec (op : Nat) : Taken := rc 0x63 [(0x20, 1, op)]
/-- A module joining; a member alone in its group. -/
def joining : State :=
  let s := cas 1
  { s with vine := { s.vine with joining := some (0, 0, 5) } }
def alone : State :=
  let s := cas 2
  { s with vine := { s.vine with members := [1] } }

theorem test_witness_JoinsAndLeaves : Ready 0x60 0 0 joinRec joinState ∧ joinState.inGroup = false ∧
    (joinState.model (joinRec.at 0x2F 1)).state = 2 ∧
    joinRec.at 0x30 2 + joinRec.at 0x32 2 ≤ (joinState.model (joinRec.at 0x2F 1)).layers ∧
    (readSource (joinRec.at 0x34 1 == 1) (joinRec.at 0x38 8) 2048 (hostSrc joinBytes) joinState).1 = .bytes joinBytes ∧
    joining.released = true ∧ joining.vine.joining = some (0, 0, 5) ∧
    (∀ op ∈ [0, 1], Ready 0x61 0 0 (roleRec op) (takes (roleRec op) (cas 2)) ∧ (takes (roleRec op) (cas 2)).inGroup = true ∧
      (roleRec op).at 0x20 1 = op ∧ Ready 0x63 0 0 (leaveRec op) (takes (leaveRec op) (cas 2)) ∧
      (takes (leaveRec op) (cas 2)).inGroup = true ∧ (leaveRec op).at 0x20 1 = op ∧
      Ready 0x63 0 0 (leaveRec op) (takes (leaveRec op) alone) ∧ (takes (leaveRec op) alone).inGroup = true) ∧
    1 < (cas 2).vine.members.length ∧ (cas 2).vine.state = 2 ∧ alone.vine.members.length ≤ 1 ∧ alone.vine.state ≠ 3 ∧
    (cas 2).seqs.entries = [] := by simp only [ready_iff]; decide +kernel

/-- A member and a stem with two sequences, and the share that a PLAN gives; a step of the stem. -/
def groupModel : Model :=
  { Model.none with state := 2, layers := 1, hidden := 2, vocab := 4, qHeads := 1, kvHeads := 1, headDim := 1, ffn := 1 }
def groupEntry : SeqEntry := { SeqEntry.free with state := 1, model := 15, maxLen := 9, pending := some 1 }
def grouped (st : Nat) : State :=
  let s := cas st
  { s with seqs := { s.seqs with models := [(15, groupModel)], entries := [(1, groupEntry), (4, groupEntry)] } }
def dozing : State :=
  let s := grouped 2
  { s with pwr := { s.pwr with target := 2 } }
def sharing : State := after (.plan (mm 4 0) 7 15 false [(0, 1)] [] true 5 0 50) (grouped 2)
def stemStep (q : Nat) : Step := { emptyStep with slots := [{ aSlot with q := q, token := 1 }] }
def stemming (q : Nat) : State :=
  let s := grouped 3
  { s with seqs := { s.seqs with steps := [stemStep q] } }
def aToken : SlotToken := { slot := 0, token := 2, logprob := 0, stopReason := 0, stopIndex := 0 }
def aCollect : Collect :=
  { w := 0, n := 0, answer := (0, 0), op := 1, members := [1, 2, 0], root := 0, src := 0, dst := 0, len := 4, coding := 0, raw := false,
    got := [], done := [], stopped := none }
def collecting : State :=
  let s := cas 3
  { s with vine := { s.vine with collects := [aCollect] } }

theorem test_witness_HandOffsArrive : (grouped 2).vine.state = 2 ∧ (mm 4 0).src = (grouped 2).vine.stem ∧
    (grouped 2).workStarts = true ∧ (grouped 2).vine.plans = [] ∧ dozing.vine.state = 2 ∧
    (mm 4 0).src = dozing.vine.stem ∧ dozing.workStarts = false ∧ (sharing.share 7).isSome = true ∧ (stemming 4).vine.state = 3 ∧ (stemming 4).seqs.chunks = [] ∧
    (stemming 4).step 7 = some (stemStep 4) ∧ (stemStep 4).state = 2 ∧ 7 < 2 ^ 63 ∧
    (stemStep 4).fault = none ∧ sharing.follows = true ∧ (mm 4 0).src = sharing.vine.stem ∧
    sharing.vine.ordinal < (1#64).toNat ∧ sharing.seqs.effects = [] ∧
    ((sharing.share 7).map (fun h => h.chunk || !(h.nums.zip h.slots).any (fun x => x.1 == aToken.slot && (sharing.seq x.2.q).gen == x.2.gen))) =
      some false := by decide +kernel

theorem test_witness_StemMessages : (cas 2).follows = true ∧
    (mm 4 0).src = (cas 2).vine.stem ∧ (stemming 2).vine.state = 3 ∧ (stemming 2).vine.collects = [] ∧
    (stemming 2).seqs.steps.find? (fun p => p.state == 2 && p.slots.any (fun e => e.q % (stemming 2).shapeR == (stemming 2).replicaOf 2)) =
      some (stemStep 2) ∧ collecting.collect 0 0 = some aCollect ∧
    (∃ x ∈ aCollect.sources, x ≠ (mm 4 2).src ∧ ∀ g ∈ aCollect.got, g.1 ≠ x) := by decide +kernel

/-- What Opens says, where no hand-off is partly there. -/
def opensB (m : VineMsg) (kind : Nat) (s : State) : Bool :=
  s.released && s.vine.state != 0 && decide (m.port < 12) && (s.vinePort m.port).up && m.hops != 0 &&
    (m.dst == s.vine.member && m.dst != 0xFFFF) && m.groupId.toNat == s.vine.groupId && decide (s.vine.epoch ≤ m.epoch) && m.sealOk &&
    (signedKind kind || decide (2 ≤ s.vine.state)) && m.seg == 0 && m.last && s.vine.partials.isEmpty

theorem opens_of {m : VineMsg} {kind : Nat} {s : State} (h : opensB m kind s = true) : Opens m kind s := by
  simp only [opensB, Bool.and_eq_true, bne_iff_ne, decide_eq_true_eq, beq_iff_eq, Bool.or_eq_true, List.isEmpty_iff] at h
  obtain ⟨⟨⟨⟨⟨⟨⟨⟨⟨⟨⟨⟨h1, h2⟩, h3⟩, h4⟩, h5⟩, h6⟩, h7⟩, h8⟩, h9⟩, h10⟩, h11⟩, h12⟩, h13⟩ := h
  exact ⟨h1, h2, h3, h4, h5, .inl h6, h7, h8, h9, h10, h11, h12, by rw [h13]; exact fun x hx => absurd hx (List.not_mem_nil)⟩

/-- The messages that the witnesses of groups and hand-offs open, with the kind and the state of each. -/
def opening : List (VineMsg × Nat × State) := [((mm 5 2), 1, (electing [(0, 1, 9)])),
  ((mm 5 2), 2, (electing [(0, 1, 9)])),
  ((mm 5 2), 3, (confirming [1])),
  ((mm 5 2), 4, keyed),
  ((mm 4 2), 0x7F, (cas 3)),
  ((mm 4 0), 0x10, (grouped 2)),
  ((mm 4 0), 0x10, dozing),
  ((mm 4 0), 0x11, sharing),
  ((mm 4 0), 0x12, sharing),
  ((mm 4 2), 0x13, (stemming 4)),
  ((mm 4 2), 0x14, (stemming 4)),
  ((mm 4 0), 0x15, sharing),
  ((mm 4 2), 0x16, (cas 3)),
  ((mm 4 0), 0x20, (cas 2)),
  ((mm 4 0), 0x21, (cas 2)),
  ((mm 4 2), 0x30, (cas 3)),
  ((mm 4 2), 0x31, (cas 3)),
  ((mm 4 2), 0x32, (stemming 2)),
  ((mm 4 2), 0x40, collecting),
  ((mm 4 0), 5, (cas 2)),
  ((mm 4 2), 5, (cas 2))]

theorem opening_opens : opening.all (fun x => opensB x.1 x.2.1 x.2.2) = true := by decide +kernel

theorem test_witness_MessagesOpen : ∀ x ∈ opening, Opens x.1 x.2.1 x.2.2 :=
  fun x h => opens_of (List.all_eq_true.mp opening_opens x h)

/-- COLLECT of 64 bytes on a module in no group. -/
def collectRec (op : Nat) : Taken := rc 0x62 [(0x20, 1, op), (0x28, 8, 0x1000), (0x30, 8, 0x2000), (0x38, 8, 64)]
def collectState (op : Nat) : State := takes (collectRec op) up
def collectZeros (op : Nat) : List Byte := collectValue (collectOf 0 (collectRec op) (collectState op)) 12 [List.replicate 64 0#8]

theorem collect_plain : Plain 0x80 2 up ∧ Clean 0x80 2 up ∧ Plain 0x100 2 up ∧ Plain 0x100 4 up := by unfold Plain Clean; decide +kernel

theorem collect_bytes : (List.range 2).flatMap (fun i => up.plainBurst (0x80 + i)) = List.replicate 64 0#8 := by decide +kernel

theorem collect_lengths : ∀ op, op < 5 → (collectZeros op).length = 32 * (if op = 2 ∨ op = 3 then 4 else 2) := by decide +kernel

theorem collect_facts : ∀ op, op < 5 → Ready 0x62 0 0 (collectRec op) (collectState op) ∧ (collectRec op).at 0x20 1 = op ∧
    (collectState op).workStarts = true ∧ (collectState op).vine.state = 0 ∧ (collectState op).vine.collects = [] ∧
    firstFail ((collectState op).collectChecks (collectRec op)) = none ∧
    (collectOf 0 (collectRec op) (collectState op)).members = [(collectState op).vine.member] ∧
    (collectState op).stoppedLine (collectOf 0 (collectRec op) (collectState op)).src (collectOf 0 (collectRec op) (collectState op)).len =
      none ∧ (collectState op).closedIn (collectOf 0 (collectRec op) (collectState op)).src
        (collectOf 0 (collectRec op) (collectState op)).len = false ∧
    (collectState op).closedIn (collectOf 0 (collectRec op) (collectState op)).dst
      (collectOf 0 (collectRec op) (collectState op)).written = false ∧ (collectState op).press.lenLog2 = 12 ∧ (collectOf 0 (collectRec op) (collectState op)).src = 32 * 0x80 ∧
    (collectOf 0 (collectRec op) (collectState op)).dst = 32 * 0x100 ∧ (collectOf 0 (collectRec op) (collectState op)).len = 32 * 2 := by
  simp only [ready_iff]; decide +kernel

theorem test_witness_CollectivesOfOneMember : ∀ op, op < 5 → CollectsAlone op 0 0 [] (collectRec op)
    (collectOf 0 (collectRec op) (collectState op)) (List.replicate 64 0#8) (collectZeros op) (collectState op) := by
  intro op h
  obtain ⟨h1, h2, h3, h4, h5, h6, h7, h8, c1, c2, h9, h10, h11, h12⟩ := collect_facts op h
  refine ⟨h1, h2, h3, h4, h5, h6, rfl, h7, h8, c1, c2, ?_, ?_⟩
  · rw [h9]; rfl
  · intro v hv
    have hm : v.mem = up.mem := by rw [hv]; rfl
    have hh : v.host = up.host := by rw [hv]; rfl
    have hb : ∀ b, v.plainBurst b = up.plainBurst b := plainBurst_of_mem hm (by rw [hv]; rfl)
    rw [h10, h11, h12]
    refine ⟨v, ?_, rfl, rfl, ?_, ?_, ?_, ?_⟩
    · show moduleRead (plainReader 7) (32 * 0x80) (32 * 2) v = _
      rw [moduleRead_clean (plain_of_mem hm hh collect_plain.1) (clean_of_mem hm collect_plain.2.1)]
      simp only [hb]
      rw [collect_bytes]
    · rw [hv]
    · rw [hv]
    · rw [hv]
    · intro x hx
      have xm : x.mem = up.mem := by rw [hx]; exact hm
      have xh : x.host = up.host := by rw [hx]; exact hh
      have hp : Plain 0x100 (if op = 2 ∨ op = 3 then 4 else 2) up := by
        split
        · exact collect_plain.2.2.2
        · exact collect_plain.2.2.1
      obtain ⟨m, hw⟩ := writeMem_plain (unit := 7) (by split <;> omega) (collect_lengths op h) (plain_of_mem xm xh hp)
      rw [hw]
      exact ⟨rfl, rfl⟩

/-! ## Witnesses: bring-up -/

/-- A module at a stage of bring-up. -/
def at_ (stage : Nat) (linksDone : Bool) : State :=
  let s := State.reset
  { s with
    boot := { s.boot with stage := stage, pwrEn := true, railsUp := true, pg := stage != 1, linksDone := linksDone }
    sec := { s.sec with restartAt := if stage = 8 then some 5 else none } }
def oneGood : List StackTraining :=
  [{ failed := false, spares := List.replicate 32 0, sensors := true, tempC := 20 },
   { failed := true, spares := List.replicate 32 0, sensors := true, tempC := 20 }]

theorem test_witness_BringUpAndPins : (at_ 8 false).boot.stage = 8 ∧ (at_ 8 false).sec.restartAt = some 5 ∧ (at_ 1 false).boot.stage = 1 ∧
    (at_ 1 false).boot.railsUp = true ∧ (at_ 2 false).boot.stage = 2 ∧ (at_ 3 false).boot.stage = 3 ∧
    ((at_ 3 false).sec.sel0.crcOk || (at_ 3 false).sec.sel1.crcOk) = true ∧ (at_ 3 false).sec.selector.trial = false ∧
    (at_ 3 false).slotFault (at_ 3 false).sec.selector.boot 0 = none ∧ (at_ 3 false).slotFault (at_ 3 false).sec.selector.boot 3 ≠ none ∧
    (at_ 4 false).boot.stage = 4 ∧ (at_ 5 false).boot.stage = 5 ∧ (at_ 6 false).boot.stage = 6 ∧ (at_ 6 false).boot.linksDone = false ∧
    (at_ 6 true).boot.stage = 6 ∧ (at_ 6 true).boot.linksDone = true ∧ (at_ 2 false).boot.pg = true ∧ 1000 ≤ (1000#32).toNat % 4096 ∧
    (3200#32).toNat % 4096 ≤ 3200 ∧ (999#32).toNat % 4096 < 1000 ∧ 3200 < (3201#32).toNat % 4096 := by decide +kernel

/-! ## Witnesses: the whole machine -/

theorem test_witness_StepRunsFrontCommand : State.reset.pending = [] ∧ up.pending = [] ∧ up.ctl.running = true := by decide +kernel

/-- A released module with a power-up command waiting: its step answers a next state from a state that meets the invariant. -/
def waitingCommand : State := { State.reset with pending := [.pwrEnRise true] }

theorem test_witness_StepKeepsInv : Inv waitingCommand ∧ ∃ t, step waitingCommand = .next t ∧ t.boot.railsUp = true := by
  refine ⟨?_, _, rfl, rfl⟩
  unfold Inv Canonical StageOk
  decide +kernel

/-! ## Results that the spec's worked examples give -/

/-- The FP32 values of 1.0, 2⁻²⁴ and 2⁻²³, and the octet sum of 16 terms that are +0 but for the given ones. -/
def terms16 (l : List (Nat × F32)) : List F32 := (List.range 16).map (fun i => ((l.find? (fun e => e.1 == i)).map (·.2)).getD 0#32)

/-- "Press engines and accumulation", the reduction of K = 16: reduced in octet order the result is 1.0. -/
theorem test_octet_order_of_16 : octetSum (terms16 [(0, 0x3F800000#32), (8, 0x33800000#32), (9, 0x33800000#32)]) = 0x3F800000#32 := by
  decide +kernel

/-- "Zest functions", softmax of one row: the powers at −1 and −2, and the reciprocal of 3.6875. -/
theorem test_softmax_powers : smExp 0#32 0xBF317218#32 = 0x3F000000#32 ∧ smExp 0#32 0xBFB17218#32 = 0x3E800000#32 := by decide +kernel
theorem test_softmax_reciprocal : zRecip 0x406C0000#32 = 0x3E8AD8F3#32 := by decide +kernel

/-- "Bell grid numerics", a block decoded: its scale, its side value and its levels. -/
theorem test_bell_grid_levels : f32OfBf16 0x3C20#16 = 0x3C200000#32 ∧ f32OfBf16 0x4060#16 = 0x40600000#32 ∧
    bgLevel 3 11 = 0x3F3A4000#32 ∧ bgLevel 3 3 = 0xBF3A4000#32 ∧ bgLevel 3 7 = 0#32 ∧ bgEscape 3 = 15 := by decide +kernel

/-- The same block's inputs: quantised by s = 2⁻⁵, g = 32 and o = +0. -/
theorem test_quantised_inputs :
    [0x3FA66666#32, 0xBF000000#32, 0x40000000#32, 0x40A00000#32].map
      (quantise .nearest { s := 0x3D000000#32, g := 0x42000000#32, o := 0#32, const := false }) =
    [(42, false), (-16, false), (64, false), (127, true)] := by decide +kernel

/-- "Raisin codec, encryption and the stored form", a parked image: the declared length of a full stream, and of the last one. -/
theorem test_declared_streams : declaredSize 80 1048576 = 839680 ∧ declaredSize 80 118784 = 98304 := by decide +kernel

/-- "The memory tiers", a line read through a four-way interleave: its DPA, its stack and its channel. -/
def decoder0 : HdmDecoder := { committed := true, hpaBase := 0x100000000, size := 2 ^ 40, ways := 2, gran := 12, dpaSkip := 0 }
theorem test_interleaved_line : decoder0.translate 0 (0x100000000 + 0x35A7D9E40) = 0xD69F6E40 ∧
    State.reset.fold 0xD69F6E40 = some (14, 14) := by decide +kernel

/-- "Variants and step groups", balance at an edge: 1,900 prompt tokens and a STEP of COUNT 24. -/
def edgeExample : State :=
  let s := withSeq 4095 { readyEntry with appends := [{ anAppend with tokens := List.replicate 1900 3 }] } base
  let p : Step := { emptyStep with slots := List.replicate 24 (s.slotOf 4095 0 0) }
  s.setSeqs { s.seqs with steps := [p] }

theorem test_balance_at_an_edge : edgeExample.promptTokens = 1900 ∧ (List.range 8).map edgeExample.assign.1 = [0, 1, 0, 1, 0, 1, 0, 1] ∧
    (List.range 24).map edgeExample.assign.2 = List.replicate 24 0 := by decide +kernel

/-- R251: a fill with W = 0 writes in no page; one of a row at position 63 of 64 writes in page 0 alone, of two rows in pages 0 and 1. -/
theorem test_pages_that_a_fill_writes :
    pageWritten 64 32 0 0 = false ∧ pageWritten 64 63 1 0 = true ∧ pageWritten 64 63 1 1 = false ∧
    pageWritten 64 63 2 1 = true ∧ pageWritten 64 64 1 0 = false := by decide

/-- R168: the engine with the fewest bytes, ties to the lowest number. -/
theorem test_rows_go_to_the_least_loaded_engine :
    leastLoaded [(6, 10), (7, 4), (8, 4)] [6, 7, 8] = some 7 ∧ leastLoaded [(6, 10)] [6, 7, 8] = some 7 ∧
    leastLoaded [] [6, 7, 8] = some 6 ∧ leastLoaded [] [] = none := by decide

end Sys2Proof.Tests
end

section
/-! PROOFS. The scope of the block: every command answers a next state and leaves the queue as it was (O2), and a read past BAR0 is
no access that R9 turns away (O11). -/

open Sys2Proof Sys2Proof.Machine Sys2Proof.Laws

namespace Sys2Proof.Proofs

/-! ## The queue through the operations of bring-up, of loss of power and of a trip

`Keeps` does not hold of these operations, which move the stage, the rails or the counters' run; the queue they leave alone. -/

theorem foldl_pending {α : Type} {f : State → α → State} (hf : ∀ s x, (f s x).pending = s.pending) (l : List α) (s : State) :
    (l.foldl f s).pending = s.pending := by
  induction l generalizing s with
  | nil => rfl
  | cons x l ih => rw [List.foldl_cons, ih, hf]

@[simp] theorem advanceTo_pending (t : Nat) (s : State) : (s.advanceTo t).pending = s.pending :=
  (State_advanceTo_keeps (keeps_refl s)).pending

@[simp] theorem logErr_pending (code kind idx addr detail : Nat) (s : State) :
    (logErr code kind idx addr detail s).pending = s.pending :=
  (logErr_keeps (keeps_refl s)).pending

@[simp] theorem msix_pending (v : Nat) (s : State) : (msix v s).pending = s.pending := (msix_keeps (keeps_refl s)).pending

@[simp] theorem serveWaiting_pending (s : State) : (serveWaiting s).pending = s.pending :=
  (serveWaiting_keeps (keeps_refl s)).pending

@[simp] theorem thermalStep_pending (w : Nat) (s : State) : (thermalStep w s).pending = s.pending :=
  (thermalStep_keeps (keeps_refl s)).pending

@[simp] theorem noteSigFail_pending (code : Nat) (s : State) : (noteSigFail code s).pending = s.pending :=
  (noteSigFail_keeps (keeps_refl s)).pending

@[simp] theorem writeSelector_pending (boot : Nat) (trial : Bool) (fallback : Option Nat) (s : State) :
    (writeSelector boot trial fallback s).pending = s.pending :=
  (writeSelector_keeps (keeps_refl s)).pending

@[simp] theorem spend_pending (us : Nat) (s : State) : (spend us s).pending = s.pending := (spend_keeps (keeps_refl s)).pending

@[simp] theorem trainStack_pending (i : Nat) (t : StackTraining) (s : State) : (trainStack i t s).pending = s.pending :=
  (trainStack_keeps (keeps_refl s)).pending

@[simp] theorem usePage_pending (p use key : Nat) (s : State) : (usePage p use key s).pending = s.pending :=
  (usePage_keeps (keeps_refl s)).pending

@[simp] theorem bringLinks_pending (vineStates : List Nat) (punnets : List (Option (Nat × Nat × PunnetFacts))) (us : Nat)
    (s : State) : (bringLinks vineStates punnets us s).pending = s.pending :=
  (bringLinks_keeps (keeps_refl s)).pending

/-- A loss of power keeps the commands that wait: they are no state of the module (log entry 42). -/
@[simp] theorem coldState_pending (s : State) : (coldState s).pending = s.pending := rfl

@[simp] theorem restartFuses_pending (s : State) : (restartFuses s).pending = s.pending := rfl

@[simp] theorem halt_pending (code us : Nat) (s : State) : (halt code us s).pending = s.pending := rfl

@[simp] theorem recover_pending (code us : Nat) (s : State) : (recover code us s).pending = s.pending := rfl

@[simp] theorem stageDone_pending (next : Nat) (s : State) : (stageDone next s).pending = s.pending := rfl

@[simp] theorem bootSlot_pending (slot : Nat) (trial : Bool) (s : State) : (bootSlot slot trial s).pending = s.pending := rfl

@[simp] theorem trySlots_pending (codes : Nat → Nat) (us : Nat) (l : List (Nat × Bool)) (s : State) :
    (trySlots codes us l s).pending = s.pending := by
  induction l generalizing s with
  | nil => rfl
  | cons x l ih =>
    unfold trySlots
    split
    · rfl
    · rw [ih, noteSigFail_pending]

@[simp] theorem bootImage_pending (flashOk : Bool) (stageA stageB us : Nat) (s : State) :
    (bootImage flashOk stageA stageB us s).pending = s.pending := by
  unfold bootImage
  extract_lets s1 r codes back tries
  have hs : s1.pending = s.pending := spend_pending us s
  split
  · simp [hs]
  · split
    · rw [trySlots_pending]
      split <;> simp [hs]
    · simp [hs]

@[simp] theorem startFirmware_pending (us : Nat) (s : State) : (startFirmware us s).pending = s.pending := by
  simp only [startFirmware, stageDone_pending, setHost_pending]
  rw [foldl_pending (fun s c => modCore_pending ..)]
  simp

@[simp] theorem bringMemory_pending (training : List StackTraining) (us : Nat) (s : State) :
    (bringMemory training us s).pending = s.pending := by
  have htrain := foldl_pending (fun s i => trainStack_pending i (training.getD i StackTraining.absent) s) (List.range 16) (spend us s)
  rw [spend_pending] at htrain
  simp only [bringMemory]
  split
  · rw [halt_pending, htrain]
  · rw [stageDone_pending, foldl_pending (fun s p => usePage_pending p 3 0 s), setHost_pending, setMem_pending, htrain]

@[simp] theorem goReady_pending (us : Nat) (s : State) : (goReady us s).pending = s.pending := by
  simp only [goReady, setBoot_pending, stageDone_pending]
  rw [foldl_pending (fun s c => modCore_pending ..), setHost_pending]

@[simp] theorem goFatal_pending (cause : Nat) (s : State) : (goFatal cause s).pending = s.pending := by simp [goFatal]

@[simp] theorem dieTemp_pending (w : Nat) (temps : List Nat) (s : State) : (dieTemp w temps s).pending = s.pending := by
  unfold dieTemp
  extract_lets temp v row s1
  have hs : s1.pending = s.pending := modWedge_pending ..
  split
  · simp
  · rw [thermalStep_pending]
    split
    · simp [hs]
    · exact hs

theorem inStage_pending (n : Nat) {f : State → State} (hf : ∀ s, (f s).pending = s.pending) (s : State) :
    (inStage n f s).pending = s.pending := by
  unfold inStage
  split
  · exact hf s
  · rfl

/-! ## Every command -/

/-- The outcome o is a next state with the queue of s. -/
def KeepsQueue (s : State) (o : Host.Outcome State Fault Refusal) : Prop := ∃ t, o = .next t ∧ t.pending = s.pending

theorem keepsQueue_next {s t : State} (h : t.pending = s.pending) : KeepsQueue s (.next t) := ⟨t, rfl, h⟩

theorem keepsQueue_of_answers {s : State} {o : Host.Outcome State Fault Refusal} (h : Answers s o) : KeepsQueue s o :=
  let ⟨t, ho, hk⟩ := h
  ⟨t, ho, hk.pending⟩

/-- The commands of which `Keeps` does not hold: those of bring-up and of a loss of power, and the two by which the module can become
FATAL. -/
inductive MovesStage : Instr → Prop
  | pwrEnFall : MovesStage .pwrEnFall
  | inputUndervoltage : MovesStage .inputUndervoltage
  | inputOvervoltage : MovesStage .inputOvervoltage
  | modRst : MovesStage .modRst
  | recoveryRestart : MovesStage .recoveryRestart
  | rails (inRegulation : Bool) (us : Nat) : MovesStage (.rails inRegulation us)
  | fuses (fuseOk clockOk : Bool) (us : Nat) : MovesStage (.fuses fuseOk clockOk us)
  | image (flashOk : Bool) (stageA stageB us : Nat) : MovesStage (.image flashOk stageA stageB us)
  | firmware (ok : Bool) (us : Nat) : MovesStage (.firmware ok us)
  | memory (training : List StackTraining) (us : Nat) : MovesStage (.memory training us)
  | links (vineStates : List Nat) (punnets : List (Option (Nat × Nat × PunnetFacts))) (us : Nat) :
      MovesStage (.links vineStates punnets us)
  | release (us : Nat) : MovesStage (.release us)
  | dieTempSample (w : Fin 4) (temps : List Nat) : MovesStage (.dieTempSample w temps)
  | huskTimerExpire (uncorrectable : Bool) : MovesStage (.huskTimerExpire uncorrectable)

theorem exec_keepsQueue_of_movesStage {c : Instr} (hc : MovesStage c) (s : State) : KeepsQueue s (exec c s) := by
  cases hc with
  | pwrEnFall | inputUndervoltage | inputOvervoltage | modRst => exact keepsQueue_next rfl
  | recoveryRestart =>
    refine keepsQueue_next ?_
    split
    · split <;> simp
    · rfl
  | rails =>
    refine keepsQueue_next (inStage_pending 1 (fun s => ?_) s)
    split
    · rfl
    · split <;> rfl
  | fuses =>
    refine keepsQueue_next (inStage_pending 2 (fun s => ?_) s)
    extract_lets
    split
    · rfl
    · split <;> rfl
  | image => exact keepsQueue_next (inStage_pending 3 (fun s => bootImage_pending ..) s)
  | firmware =>
    refine keepsQueue_next (inStage_pending 4 (fun s => ?_) s)
    split <;> simp
  | memory => exact keepsQueue_next (inStage_pending 5 (fun s => bringMemory_pending ..) s)
  | links =>
    refine keepsQueue_next (inStage_pending 6 (fun s => ?_) s)
    split <;> simp
  | release =>
    refine keepsQueue_next (inStage_pending 6 (fun s => ?_) s)
    split <;> simp
  | dieTempSample =>
    refine keepsQueue_next ?_
    split <;> simp
  | huskTimerExpire =>
    refine keepsQueue_next ?_
    split
    · rfl
    · split <;> simp

/-- Every command answers a next state; between the two `Keeps` holds, unless the command is one of those that move the stage. -/
theorem exec_answers_or_movesStage {r s : State} (h : Keeps r s) (c : Instr) : Answers r (exec c s) ∨ MovesStage c := by
  cases c with
  | bar2Write => exact .inl (execBar2Write_keeps h)
  | recordTake => exact .inl (execRecordTake_keeps h)
  | irqDelayExpire => exact .inl (execIrqDelayExpire_keeps h)
  | winEnable => exact .inl (execWinEnable_keeps h)
  | winDisable => exact .inl (execWinDisable_keeps h)
  | winReset => exact .inl (execWinReset_keeps h)
  | winReplyHeadWrite => exact .inl (execWinReplyHeadWrite_keeps h)
  | winOutHeadWrite => exact .inl (execWinOutHeadWrite_keeps h)
  | modErrHeadWrite => exact .inl (execModErrHeadWrite_keeps h)
  | modEngBalWrite => exact .inl (execModEngBalWrite_keeps h)
  | dbgPrsInstrLatch => exact .inl (execDbgPrsInstrLatch_keeps h)
  | registerWrite => exact .inl (execRegisterWrite_keeps h)
  | badAccess => exact .inl (execBadAccess_keeps h)
  | biasToHost => exact .inl (execBiasToHost_keeps h)
  | biasToDevice => exact .inl (execBiasToDevice_keeps h)
  | biasComplete => exact .inl (execBiasComplete_keeps h)
  | hdmDecoderCommit => exact .inl (execHdmDecoderCommit_keeps h)
  | cxlMemRead => exact .inl (execCxlMemRead_keeps h)
  | cxlMemWrite => exact .inl (execCxlMemWrite_keeps h)
  | snoopResponse => exact .inl (execSnoopResponse_keeps h)
  | hostLinkTrain => exact .inl (execHostLinkTrain_keeps h)
  | functionLevelReset => exact .inl (execFunctionLevelReset_keeps h)
  | hotReset => exact .inl (execHotReset_keeps h)
  | hostLinkDown => exact .inl (execHostLinkDown_keeps h)
  | cxlReset => exact .inl (execCxlReset_keeps h)
  | perst => exact .inl (execPerst_keeps h)
  | hostLinkError => exact .inl (execHostLinkError_keeps h)
  | nop => exact .inl (execNop_keeps h)
  | fenceWindow => exact .inl (execFenceWindow_keeps h)
  | fenceModule => exact .inl (execFenceModule_keeps h)
  | fenceCascade => exact .inl (execFenceCascade_keeps h)
  | fenceRelease => exact .inl (execFenceRelease_keeps h)
  | query => exact .inl (execQuery_keeps h)
  | powerSet => exact .inl (execPowerSet_keeps h)
  | powerDescend => exact .inl (execPowerDescend_keeps h)
  | powerSubstateReached => exact .inl (execPowerSubstateReached_keeps h)
  | powerSelfWake => exact .inl (execPowerSelfWake_keeps h)
  | unitReset => exact .inl (execUnitReset_keeps h)
  | unitReturnToService => exact .inl (execUnitReturnToService_keeps h)
  | attest => exact .inl (execAttest_keeps h)
  | fwStageWrite => exact .inl (execFwStageWrite_keeps h)
  | fwStageClear => exact .inl (execFwStageClear_keeps h)
  | fwCommitSelect => exact .inl (execFwCommitSelect_keeps h)
  | fwCommitConfirm => exact .inl (execFwCommitConfirm_keeps h)
  | fwCommitAbandon => exact .inl (execFwCommitAbandon_keeps h)
  | memCopy => exact .inl (execMemCopy_keeps h)
  | memFill => exact .inl (execMemFill_keeps h)
  | regionSetMakeCompute => exact .inl (execRegionSetMakeCompute_keeps h)
  | regionSetSetMirror => exact .inl (execRegionSetSetMirror_keeps h)
  | regionSetClearMirror => exact .inl (execRegionSetClearMirror_keeps h)
  | regionSeal => exact .inl (execRegionSeal_keeps h)
  | scrub => exact .inl (execScrub_keeps h)
  | flushAck => exact .inl (execFlushAck_keeps h)
  | modelLoadPlace => exact .inl (execModelLoadPlace_keeps h)
  | modelLoadDrop => exact .inl (execModelLoadDrop_keeps h)
  | layerDesc => exact .inl (execLayerDesc_keeps h)
  | scaleLoadRowScales => exact .inl (execScaleLoadRowScales_keeps h)
  | scaleLoadInputScales => exact .inl (execScaleLoadInputScales_keeps h)
  | scaleLoadInputRanges => exact .inl (execScaleLoadInputRanges_keeps h)
  | variantLoad => exact .inl (execVariantLoad_keeps h)
  | variantDrop => exact .inl (execVariantDrop_keeps h)
  | tableLoadTable => exact .inl (execTableLoadTable_keeps h)
  | tableLoadProgram => exact .inl (execTableLoadProgram_keeps h)
  | tableLoadGain => exact .inl (execTableLoadGain_keeps h)
  | tableSwap => exact .inl (execTableSwap_keeps h)
  | tableSwapProceed => exact .inl (execTableSwapProceed_keeps h)
  | tableSwapCopy => exact .inl (execTableSwapCopy_keeps h)
  | codecTableLoad => exact .inl (execCodecTableLoad_keeps h)
  | codecTableSwap => exact .inl (execCodecTableSwap_keeps h)
  | seqOpen => exact .inl (execSeqOpen_keeps h)
  | seqAppend => exact .inl (execSeqAppend_keeps h)
  | fillBegin => exact .inl (execFillBegin_keeps h)
  | fillComplete => exact .inl (execFillComplete_keeps h)
  | seqCancel => exact .inl (execSeqCancel_keeps h)
  | seqTrim => exact .inl (execSeqTrim_keeps h)
  | seqClose => exact .inl (execSeqClose_keeps h)
  | seqPark => exact .inl (execSeqPark_keeps h)
  | parkImageWrite => exact .inl (execParkImageWrite_keeps h)
  | parkDurable => exact .inl (execParkDurable_keeps h)
  | seqResumeResume => exact .inl (execSeqResumeResume_keeps h)
  | resumeComplete => exact .inl (execResumeComplete_keeps h)
  | seqResumeDrop => exact .inl (execSeqResumeDrop_keeps h)
  | parkExpiryScan => exact .inl (execParkExpiryScan_keeps h)
  | prefixFind => exact .inl (execPrefixFind_keeps h)
  | prefixPinPin => exact .inl (execPrefixPinPin_keeps h)
  | prefixPinUnpin => exact .inl (execPrefixPinUnpin_keeps h)
  | samplerSet => exact .inl (execSamplerSet_keeps h)
  | stopSet => exact .inl (execStopSet_keeps h)
  | maskLoadLoad => exact .inl (execMaskLoadLoad_keeps h)
  | maskLoadFree => exact .inl (execMaskLoadFree_keeps h)
  | budgetSetSet => exact .inl (execBudgetSetSet_keeps h)
  | budgetSetWindow => exact .inl (execBudgetSetWindow_keeps h)
  | step => exact .inl (execStep_keeps h)
  | stepHeading => exact .inl (execStepHeading_keeps h)
  | stepForm => exact .inl (execStepForm_keeps h)
  | stepLayer => exact .inl (execStepLayer_keeps h)
  | stepBoundary => exact .inl (execStepBoundary_keeps h)
  | repairDeadline => exact .inl (execRepairDeadline_keeps h)
  | mirrorRepair => exact .inl (execMirrorRepair_keeps h)
  | chunkStart => exact .inl (execChunkStart_keeps h)
  | chunkComplete => exact .inl (execChunkComplete_keeps h)
  | pressOpen => exact .inl (execPressOpen_keeps h)
  | pressPass => exact .inl (execPressPass_keeps h)
  | pressClose => exact .inl (execPressClose_keeps h)
  | pressDiscard => exact .inl (execPressDiscard_keeps h)
  | pressSave => exact .inl (execPressSave_keeps h)
  | pressRestore => exact .inl (execPressRestore_keeps h)
  | assignWindowEnd => exact .inl (execAssignWindowEnd_keeps h)
  | earlyEdge => exact .inl (execEarlyEdge_keeps h)
  | zestJob => exact .inl (execZestJob_keeps h)
  | zestEnd => exact .inl (execZestEnd_keeps h)
  | zestLdi => exact .inl (execZestLdi_keeps h)
  | zestMadd => exact .inl (execZestMadd_keeps h)
  | zestExp2 => exact .inl (execZestExp2_keeps h)
  | zestLog2 => exact .inl (execZestLog2_keeps h)
  | zestRecip => exact .inl (execZestRecip_keeps h)
  | zestRsqrt => exact .inl (execZestRsqrt_keeps h)
  | zestCmpsel => exact .inl (execZestCmpsel_keeps h)
  | zestSign => exact .inl (execZestSign_keeps h)
  | zestLut => exact .inl (execZestLut_keeps h)
  | zestTanh => exact .inl (execZestTanh_keeps h)
  | zestLogistic => exact .inl (execZestLogistic_keeps h)
  | pipLoad => exact .inl (execPipLoad_keeps h)
  | pipRun => exact .inl (execPipRun_keeps h)
  | pipStatus => exact .inl (execPipStatus_keeps h)
  | pipSliceStart => exact .inl (execPipSliceStart_keeps h)
  | pipSliceEnd => exact .inl (execPipSliceEnd_keeps h)
  | pipRunRebuild => exact .inl (execPipRunRebuild_keeps h)
  | pipEnd => exact .inl (execPipEnd_keeps h)
  | pipSeta => exact .inl (execPipSeta_keeps h)
  | pipSetl => exact .inl (execPipSetl_keeps h)
  | pipLoop => exact .inl (execPipLoop_keeps h)
  | pipCopy => exact .inl (execPipCopy_keeps h)
  | pipFill => exact .inl (execPipFill_keeps h)
  | pipAnd => exact .inl (execPipAnd_keeps h)
  | pipOr => exact .inl (execPipOr_keeps h)
  | pipXor => exact .inl (execPipXor_keeps h)
  | pipNot => exact .inl (execPipNot_keeps h)
  | pipAdd => exact .inl (execPipAdd_keeps h)
  | pipMul => exact .inl (execPipMul_keeps h)
  | pipScale => exact .inl (execPipScale_keeps h)
  | pipStat => exact .inl (execPipStat_keeps h)
  | pipNorm => exact .inl (execPipNorm_keeps h)
  | pipGemv => exact .inl (execPipGemv_keeps h)
  | pipClr => exact .inl (execPipClr_keeps h)
  | pipReduce => exact .inl (execPipReduce_keeps h)
  | refreshDue => exact .inl (execRefreshDue_keeps h)
  | stackTempSample => exact .inl (execStackTempSample_keeps h)
  | stackThermalStepdown => exact .inl (execStackThermalStepdown_keeps h)
  | refreshStepdown => exact .inl (execRefreshStepdown_keeps h)
  | dieTempSample => exact .inr (.dieTempSample ..)
  | dieThermalStepdown => exact .inl (execDieThermalStepdown_keeps h)
  | powerSample => exact .inl (execPowerSample_keeps h)
  | capStepUp => exact .inl (execCapStepUp_keeps h)
  | powerCapUnmet => exact .inl (execPowerCapUnmet_keeps h)
  | stageMonitorMeasure => exact .inl (execStageMonitorMeasure_keeps h)
  | scrubProtectedSweep => exact .inl (execScrubProtectedSweep_keeps h)
  | scrubComputeSweep => exact .inl (execScrubComputeSweep_keeps h)
  | codecStreamEncode => exact .inl (execCodecStreamEncode_keeps h)
  | codecStreamDecode => exact .inl (execCodecStreamDecode_keeps h)
  | leaseRenew => exact .inl (execLeaseRenew_keeps h)
  | leaseRevoke => exact .inl (execLeaseRevoke_keeps h)
  | heartbeat => exact .inl (execHeartbeat_keeps h)
  | watchdogReset => exact .inl (execWatchdogReset_keeps h)
  | stoneCoreRestart => exact .inl (execStoneCoreRestart_keeps h)
  | huskTimerExpire => exact .inr (.huskTimerExpire ..)
  | punnetBind => exact .inl (execPunnetBind_keeps h)
  | punnetQuery => exact .inl (execPunnetQuery_keeps h)
  | punnetRetireDrain => exact .inl (execPunnetRetireDrain_keeps h)
  | punnetRetireNow => exact .inl (execPunnetRetireNow_keeps h)
  | punnetInsert => exact .inl (execPunnetInsert_keeps h)
  | punnetRemoval => exact .inl (execPunnetRemoval_keeps h)
  | punnetCmdTimeout => exact .inl (execPunnetCmdTimeout_keeps h)
  | punnetAbortTimeout => exact .inl (execPunnetAbortTimeout_keeps h)
  | punnetReadyTimeout => exact .inl (execPunnetReadyTimeout_keeps h)
  | nvmeCompletion => exact .inl (execNvmeCompletion_keeps h)
  | wearPoll => exact .inl (execWearPoll_keeps h)
  | vineJoin => exact .inl (execVineJoin_keeps h)
  | vineJoinTimeout => exact .inl (execVineJoinTimeout_keeps h)
  | vineRolePriority => exact .inl (execVineRolePriority_keeps h)
  | vineRoleElect => exact .inl (execVineRoleElect_keeps h)
  | vineLeaveDrain => exact .inl (execVineLeaveDrain_keeps h)
  | vineLeaveForce => exact .inl (execVineLeaveForce_keeps h)
  | collectBroadcast => exact .inl (execCollectBroadcast_keeps h)
  | collectSum => exact .inl (execCollectSum_keeps h)
  | collectMax => exact .inl (execCollectMax_keeps h)
  | collectMin => exact .inl (execCollectMin_keeps h)
  | collectGather => exact .inl (execCollectGather_keeps h)
  | vineTrain => exact .inl (execVineTrain_keeps h)
  | vineTrainRetry => exact .inl (execVineTrainRetry_keeps h)
  | vineDeadTimeout => exact .inl (execVineDeadTimeout_keeps h)
  | vineCreditTimeout => exact .inl (execVineCreditTimeout_keeps h)
  | claim => exact .inl (execClaim_keeps h)
  | electionWindowEnd => exact .inl (execElectionWindowEnd_keeps h)
  | electionRetry => exact .inl (execElectionRetry_keeps h)
  | confirm => exact .inl (execConfirm_keeps h)
  | confirmAck => exact .inl (execConfirmAck_keeps h)
  | quorumTimeout => exact .inl (execQuorumTimeout_keeps h)
  | key => exact .inl (execKey_keeps h)
  | live => exact .inl (execLive_keeps h)
  | memberLeaseExpire => exact .inl (execMemberLeaseExpire_keeps h)
  | stemLeaseExpire => exact .inl (execStemLeaseExpire_keeps h)
  | stemDemote => exact .inl (execStemDemote_keeps h)
  | plan => exact .inl (execPlan_keeps h)
  | act => exact .inl (execAct_keeps h)
  | part => exact .inl (execPart_keeps h)
  | tokens => exact .inl (execTokens_keeps h)
  | fault => exact .inl (execFault_keeps h)
  | commit => exact .inl (execCommit_keeps h)
  | commitAck => exact .inl (execCommitAck_keeps h)
  | fenceReq => exact .inl (execFenceReq_keeps h)
  | fenceDone => exact .inl (execFenceDone_keeps h)
  | hold => exact .inl (execHold_keeps h)
  | cool => exact .inl (execCool_keeps h)
  | stop => exact .inl (execStop_keeps h)
  | bulk => exact .inl (execBulk_keeps h)
  | leave => exact .inl (execLeave_keeps h)
  | pwrEnRise => exact .inl (execPwrEnRise_keeps h)
  | pwrEnFall => exact .inr (.pwrEnFall ..)
  | inputUndervoltage => exact .inr (.inputUndervoltage ..)
  | inputOvervoltage => exact .inr (.inputOvervoltage ..)
  | modRst => exact .inr (.modRst ..)
  | rails => exact .inr (.rails ..)
  | fuses => exact .inr (.fuses ..)
  | image => exact .inr (.image ..)
  | firmware => exact .inr (.firmware ..)
  | memory => exact .inr (.memory ..)
  | links => exact .inr (.links ..)
  | release => exact .inr (.release ..)
  | recoveryRestart => exact .inr (.recoveryRestart ..)
  | mgmtWrite => exact .inl (execMgmtWrite_keeps h)
  | extest => exact .inl (execExtest_keeps h)
  | intest => exact .inl (execIntest_keeps h)
  | clamp => exact .inl (execClamp_keeps h)
  | bypass => exact .inl (execBypass_keeps h)
  | vineFrame => exact .inl (execVineFrame_keeps h)
  | rcRead => exact .inl (execRcRead_keeps h)
  | configurationRequest => exact .inl (execConfigurationRequest_keeps h)
  | punnetControllerReady => exact .inl (execPunnetControllerReady_keeps h)
  | channelFailure => exact .inl (execChannelFailure_keeps h)
  | budgetWindowEnd => exact .inl (execBudgetWindowEnd_keeps h)

theorem exec_keepsQueue (c : Instr) (s : State) : KeepsQueue s (exec c s) :=
  (exec_answers_or_movesStage (keeps_refl s) c).elim keepsQueue_of_answers (exec_keepsQueue_of_movesStage · s)

/-- Settles O2: by the lemma of each command. -/
theorem everyCommandAnswersNextState : Obligations.EveryCommandAnswersNextState := exec_keepsQueue

/-! ## A read past BAR0 -/

theorem send_out (t : HostTx) (s : State) : (send t s).host.out = s.host.out ++ [t] := rfl

/-- A BAD_ACCESS read at an offset past BAR0 reads BAR2, whatever its width and alignment (R56, log entry 44). -/
theorem exec_badAccess_read_of_bar2 {off : Nat} (size : Nat) (v : U64) {s : State} (hb : s.barOpen = true) (ho : 0x1000000 ≤ off) :
    exec (.badAccess off size false v) s = .next (send (.barData (tslice 0 s.bar2 (off - 0x1000000) size)) s) := by
  show Host.Outcome.next (hostRegRead off size s) = _
  simp [hostRegRead, hb, ho]

/-- The module at power-up but for its host port, which is up with memory space enabled. -/
def barOpenState : State :=
  { State.reset with host := { HostPort.reset with proto := 1, configLive := true, memSpace := true } }

/-- Refutes O11: its last clause bounds no offset, and a read of 3 bytes at 0x100_0000, the first offset of BAR2, is answered with the
bytes of BAR2 and not with all ones. -/
theorem not_registerAccess : ¬ Obligations.RegisterAccess := by
  intro h
  have hopen : barOpenState.barOpen = true := rfl
  obtain ⟨-, -, -, -, -, hbad⟩ := h 0 0x1000000 3 0 barOpenState hopen rfl
  obtain ⟨-, hread⟩ := hbad (.inl ⟨by decide, by decide⟩)
  rw [exec_badAccess_read_of_bar2 3 0 hopen (Nat.le_refl _), Host.Outcome.next.injEq] at hread
  have hlast := congrArg (fun t : State => t.host.out.getLast?) hread
  simp only [send_out, List.getLast?_concat, Option.some.injEq, reduceCtorEq] at hlast

end Sys2Proof.Proofs
end

section
/-! PROOFS. What the shared operations leave alone, as equations between a part of the state before and after: replies, log entries
and hand-offs (`body`), accesses to device memory and what waits for them (`still`), and the passing of time (`timeless`). -/

open Sys2Proof Sys2Proof.Machine Sys2Proof.Laws

namespace Sys2Proof.Proofs

/-! ## What replies, log entries and hand-offs leave alone -/

/-- The state but for what meets the outside: the host port, the windows, the error log, the Vine part and the count of free values. -/
def body (s : State) : State :=
  { s with host := HostPort.reset, wins := [], log := ErrLog.reset, vine := Vine.reset, freeCtr := 0 }

theorem mem_of_body {s t : State} (h : body t = body s) : t.mem = s.mem :=
  (congrArg State.mem h : (body t).mem = (body s).mem)
theorem pips_of_body {s t : State} (h : body t = body s) : t.pips = s.pips :=
  (congrArg State.pips h : (body t).pips = (body s).pips)
theorem pwr_of_body {s t : State} (h : body t = body s) : t.pwr = s.pwr :=
  (congrArg State.pwr h : (body t).pwr = (body s).pwr)
theorem boot_of_body {s t : State} (h : body t = body s) : t.boot = s.boot :=
  (congrArg State.boot h : (body t).boot = (body s).boot)
theorem ctl_of_body {s t : State} (h : body t = body s) : t.ctl = s.ctl :=
  (congrArg State.ctl h : (body t).ctl = (body s).ctl)

theorem stack_of_body {s t : State} (h : body t = body s) : t.stack = s.stack := by
  funext j
  simp only [State.stack, mem_of_body h]

theorem pip_of_body {s t : State} (h : body t = body s) : t.pip = s.pip := by
  funext k
  simp only [State.pip, pips_of_body h]

theorem now_of_body {s t : State} (h : body t = body s) : t.now = s.now := congrArg Control.ticks (ctl_of_body h)

/-- What no step of a fold changes, the fold does not change. -/
theorem foldl_same {α β : Type} {f : State → α → State} {g : State → β} (hf : ∀ s x, g (f s x) = g s) (l : List α) (s : State) :
    g (l.foldl f s) = g s := by
  induction l generalizing s with
  | nil => rfl
  | cons x l ih => rw [List.foldl_cons, ih, hf]

@[simp] theorem body_setVine (s : State) (v : Vine) : body (s.setVine v) = body s := rfl
@[simp] theorem body_setHost (s : State) (v : HostPort) : body (s.setHost v) = body s := rfl
@[simp] theorem body_setWin (s : State) (w : Nat) (v : Window) : body (s.setWin w v) = body s := rfl
@[simp] theorem body_modVinePort (s : State) (p : Nat) (f : VinePort → VinePort) : body (s.modVinePort p f) = body s := rfl
@[simp] theorem body_send (t : HostTx) (s : State) : body (send t s) = body s := rfl

@[simp] theorem body_modWin (s : State) (w : Nat) (f : Window → Window) : body (s.modWin w f) = body s := by
  unfold State.modWin
  split <;> rfl

@[simp] theorem body_msix (v : Nat) (s : State) : body (msix v s) = body s := by
  unfold msix
  split <;> rfl

@[simp] theorem body_logErr (code kind idx addr detail : Nat) (s : State) : body (logErr code kind idx addr detail s) = body s := by
  unfold logErr
  extract_lets
  split
  · rfl
  · exact body_msix ..

@[simp] theorem body_hostWrite (addr : Nat) (data : List Byte) (s : State) : body (hostWrite addr data s) = body s := by
  unfold hostWrite
  split
  · rfl
  · split
    · rfl
    · exact body_logErr ..

@[simp] theorem body_ringEntry (w : Nat) (counts : Bool) (s : State) : body (ringEntry w counts s) = body s := by
  unfold ringEntry
  extract_lets v
  split
  · rfl
  · split
    · exact body_msix ..
    · rfl

@[simp] theorem body_writeReply (w : Nat) (t : Taken) (ordinal stamp : Nat) (a : Answer) (s : State) :
    body (writeReply w t ordinal stamp a s) = body s := by simp [writeReply]

@[simp] theorem body_modTaken (s : State) (w : Nat) (f : List Taken → List Taken) : body (s.modTaken w f) = body s := by
  unfold State.modTaken
  split <;> exact body_modWin ..

@[simp] theorem body_releaseOutput (rs : List (Nat × Nat)) (s : State) : body (releaseOutput rs s) = body s :=
  foldl_same (fun _ _ => body_modWin ..) rs s

@[simp] theorem body_dropFenceAfter (w n : Nat) (s : State) : body (dropFenceAfter w n s) = body s := body_modWin ..

@[simp] theorem body_completeAt (w n ordinal stamp : Nat) (a : Answer) (s : State) :
    body (completeAt w n ordinal stamp a s) = body s := by
  unfold completeAt
  split
  · rfl
  · dsimp only
    split <;> simp

@[simp] theorem body_complete (w n : Nat) (a : Answer) (s : State) : body (complete w n a s) = body s := by
  unfold complete
  split
  · rfl
  · exact body_completeAt ..

@[simp] theorem body_endRunRecord (r : Run) (a : Answer) (s : State) : body (endRunRecord r a s) = body s := by
  unfold endRunRecord
  split
  · exact body_complete ..
  · rfl

@[simp] theorem body_vineOut (t : VineTx) (p : Nat) (s : State) : body (vineOut t p s) = body s := by
  unfold vineOut
  dsimp only
  split <;> rfl

@[simp] theorem body_vinePost (t : VineTx) (s : State) : body (vinePost t s) = body s := by
  unfold vinePost
  split
  · exact foldl_same (fun _ _ => body_vineOut ..) _ s
  · dsimp only
    split
    · exact body_vineOut ..
    · split
      · exact body_vineOut ..
      · simp [vineError]

@[simp] theorem body_vineSend (kind dst : Nat) (args : List Nat) (data : List Byte) (s : State) :
    body (vineSend kind dst args data s) = body s := by
  unfold vineSend vineSendIn
  split
  · rfl
  · extract_lets parts
    exact foldl_same (fun _ _ => by simp) _ s

@[simp] theorem body_vineSendAll (kind : Nat) (dsts args : List Nat) (data : List Byte) (s : State) :
    body (vineSendAll kind dsts args data s) = body s :=
  foldl_same (fun _ _ => body_vineSend ..) _ s

@[simp] theorem body_dropCollect (w n : Nat) (s : State) : body (dropCollect w n s) = body s := rfl
@[simp] theorem body_putCollect (c : Collect) (s : State) : body (putCollect c s) = body s := rfl

@[simp] theorem body_failCollect (c : Collect) (a : Answer) (member : Nat) (s : State) :
    body (failCollect c a member s) = body s := by
  unfold failCollect
  dsimp only
  split <;> simp

@[simp] theorem body_memberDone (w n member : Nat) (s : State) : body (memberDone w n member s) = body s := by
  unfold memberDone
  split
  · rfl
  · dsimp only
    split <;> simp

/-! ## What reads and writes of device memory leave alone -/

/-- What an access to device memory leaves alone: the body but for memory, and the stacks but for their counts of errors and the writes
that wait in their controllers. -/
structure Still where
  rest : State
  stack : Nat → Stack

/-- What an access to device memory leaves alone, of a state. -/
def still (s : State) : Still :=
  { rest := { body s with mem := Mem.reset }
    stack := fun i => { s.stack i with corr := 0, uncorr := 0, waiting := [] } }

theorem still_of_body {s t : State} (h : body t = body s) : still t = still s := by
  simp only [still, State.stack, mem_of_body h, h]

theorem pwr_of_still {s t : State} (h : still t = still s) : t.pwr = s.pwr := congrArg (fun x => x.rest.pwr) h
theorem boot_of_still {s t : State} (h : still t = still s) : t.boot = s.boot := congrArg (fun x => x.rest.boot) h
theorem ctl_of_still {s t : State} (h : still t = still s) : t.ctl = s.ctl := congrArg (fun x => x.rest.ctl) h
theorem thermal_of_still {s t : State} (h : still t = still s) (i : Nat) : (t.stack i).thermal = (s.stack i).thermal :=
  congrArg (fun x => (x.stack i).thermal) h

/-- A change of memory outside the stacks. -/
theorem still_setMem {s : State} {v : Mem} (h : v.hbm = s.mem.hbm) : still (s.setMem v) = still s := by
  simp only [still, body, State.stack, setMem_mem, h]
  rfl

/-- A change of a stack's counts of errors or its waiting writes. -/
theorem still_modStack {s : State} {i : Nat} {f : Stack → Stack}
    (h : ∀ v : Stack, { f v with corr := 0, uncorr := 0, waiting := [] } = { v with corr := 0, uncorr := 0, waiting := [] }) :
    still (s.modStack i f) = still s := by
  have hs : ∀ j, { (s.modStack i f).stack j with corr := 0, uncorr := 0, waiting := [] } =
      { s.stack j with corr := 0, uncorr := 0, waiting := [] } := by
    intro j
    by_cases hj : j = i
    · rw [hj, stack_modStack, h]
    · rw [stack_modStack_ne s hj]
  exact congrArg (Still.mk _) (funext hs)

@[simp] theorem still_send (t : HostTx) (s : State) : still (send t s) = still s := rfl
@[simp] theorem still_setHost (s : State) (v : HostPort) : still (s.setHost v) = still s := rfl
@[simp] theorem still_setQuar (s : State) (i : Nat) (e : QuarEntry) : still (s.setQuar i e) = still s := still_setMem rfl
@[simp] theorem still_setEntry (s : State) (block : Nat) (e : LedgerEntry) : still (s.setEntry block e) = still s := still_setMem rfl
@[simp] theorem still_forgetChecked (block : Nat) (s : State) : still (forgetChecked block s) = still s := still_setMem rfl
@[simp] theorem still_noteChecked (st block : Nat) (s : State) : still (noteChecked st block s) = still s := still_setMem rfl
@[simp] theorem still_storeBurst (b : Nat) (d : List Byte) (s : State) : still (storeBurst b d s) = still s := still_setMem rfl
@[simp] theorem still_logErr (code kind idx addr detail : Nat) (s : State) :
    still (logErr code kind idx addr detail s) = still s := still_of_body (body_logErr ..)
@[simp] theorem still_vineSend (kind dst : Nat) (args : List Nat) (data : List Byte) (s : State) :
    still (vineSend kind dst args data s) = still s := still_of_body (body_vineSend ..)

@[simp] theorem still_countCorr (s : State) (st : Nat) :
    still (s.modStack st (fun v => { v with corr := satAdd 32 v.corr 1 })) = still s := still_modStack fun _ => rfl

@[simp] theorem still_countUncorr (s : State) (st : Nat) :
    still (s.modStack st (fun v => { v with uncorr := satAdd 32 v.uncorr 1 })) = still s := still_modStack fun _ => rfl

@[simp] theorem still_addErrs (errs : List SymErr) (s : State) : still (addErrs errs s) = still s :=
  foldl_same (fun _ _ => by exact still_setMem rfl) errs s

@[simp] theorem still_writeEntry (block : Nat) (e : LedgerEntry) (s : State) : still (writeEntry block e s) = still s := by
  rw [writeEntry, still_setEntry]
  exact foldl_same (fun _ _ => by exact still_setMem rfl) _ s

@[simp] theorem still_quarantine (block : Nat) (s : State) : still (quarantine block s) = still s := by
  unfold quarantine
  split
  · rfl
  · split
    · rfl
    · dsimp only
      split
      · split
        · rfl
        · rw [still_logErr]
          exact still_setMem rfl
      · split <;> simp

@[simp] theorem still_clearQuarantine (block how : Nat) (s : State) : still (clearQuarantine block how s) = still s := by
  unfold clearQuarantine
  split
  · rfl
  · rw [still_logErr]
    exact (still_setMem rfl).trans (still_setQuar ..)

@[simp] theorem still_uncorrectable (r : ReadBy) (b : Nat) (s : State) : still (uncorrectable r b s) = still s := by
  simp [uncorrectable]

@[simp] theorem still_ledgerFail (block how : Nat) (s : State) : still (ledgerFail block how s) = still s := by
  simp [ledgerFail]

@[simp] theorem still_symRead (r : ReadBy) (b : Nat) (s : State) : still (symRead r b s).2 = still s := by
  unfold symRead
  split
  · rfl
  · have herrs : still (s.setMem { s.mem with errs := terase b s.mem.errs }) = still s := still_setMem rfl
    simp only [apply_ite Prod.snd, apply_ite still, still_uncorrectable, still_quarantine, still_storeBurst, still_countCorr, herrs,
      ite_self]

@[simp] theorem still_readEntry (block : Nat) (s : State) : still (readEntry block s).2 = still s := by
  simp only [readEntry, apply_ite Prod.snd, apply_ite still, still_countCorr, still_writeEntry, ite_self]

@[simp] theorem still_ledgerCheck (how block : Nat) (s : State) : still (ledgerCheck how block s).2 = still s := by
  have hentry : still (readEntry block s).2 = still s := still_readEntry ..
  unfold ledgerCheck
  extract_lets st
  simp only [apply_ite Prod.snd, apply_ite still, still_ledgerFail, ite_eq_left_iff]
  intros
  split
  · next e =>
    rw [e] at hentry
    rw [still_ledgerFail, hentry]
  · next e =>
    rw [e] at hentry
    simp only [apply_ite Prod.snd, apply_ite still, still_noteChecked, still_ledgerFail, hentry, ite_self]

@[simp] theorem still_ledgerRead (r : ReadBy) (b : Nat) (s : State) : still (ledgerRead r b s).2 = still s := by
  have hcheck : still (ledgerCheck 0 (b / 128) s).2 = still s := still_ledgerCheck ..
  unfold ledgerRead
  split
  · rfl
  · split
    · next e =>
      rw [e] at hcheck
      exact hcheck
    · next e =>
      rw [e] at hcheck
      simp only [apply_ite still, still_quarantine, hcheck, ite_self]

@[simp] theorem still_readOnce (r : ReadBy) (b : Nat) (s : State) : still (readOnce r b s).2 = still s := by
  unfold readOnce
  split
  · exact still_ledgerRead ..
  · exact still_symRead ..

@[simp] theorem still_recallGranule (g : Nat) (s : State) : still (recallGranule g s) = still s := by
  unfold recallGranule
  split
  · generalize List.range 64 = l
    exact foldl_same (g := still) (fun s i => still_send (.rdOwn (4096 * g + 64 * i)) s) l s
  · rfl

@[simp] theorem still_recallRange (a n : Nat) (s : State) : still (recallRange a n s) = still s :=
  foldl_same (fun _ _ => still_recallGranule ..) _ s

@[simp] theorem still_readMirror (r : ReadBy) (b : Nat) (s : State) : still (readMirror r b s).2 = still s := by
  simp only [readMirror, apply_ite Prod.snd, apply_ite still, still_readOnce, still_recallGranule, ite_self]

@[simp] theorem still_readBurst (r : ReadBy) (b : Nat) (s : State) : still (readBurst r b s).2 = still s := by
  have honce : still (readOnce r b s).2 = still s := still_readOnce ..
  simp only [readBurst, apply_ite Prod.snd, apply_ite still, still_readMirror]
  split
  · rfl
  · split
    · rfl
    · split
      · next e =>
        rw [e] at honce
        exact honce
      · next e =>
        rw [e] at honce
        simp only [apply_ite Prod.snd, apply_ite still, still_readMirror, honce, ite_self]

@[simp] theorem still_readBursts (r : ReadBy) (b n : Nat) (s : State) : still (readBursts r b n s).2 = still s := by
  induction n generalizing b s with
  | zero => rfl
  | succ n ih => simp [readBursts, ih]

@[simp] theorem still_moduleRead (r : ReadBy) (a n : Nat) (s : State) : still (moduleRead r a n s).2 = still s := by
  simp [moduleRead, readMem]

@[simp] theorem still_foldEntry (b : Nat) (d : List Byte) (s : State) : still (foldEntry b d s) = still s := by
  simp only [foldEntry, apply_ite still, still_writeEntry, still_setEntry, ite_self]

@[simp] theorem still_landBurst (b : Nat) (d : List Byte) (poison : Bool) (s : State) : still (landBurst b d poison s) = still s := by
  have herrs : ∀ (u : State) (e : Table (List Byte)), still (u.setMem { u.mem with errs := e }) = still u := fun _ _ => still_setMem rfl
  have hpoison : ∀ (u : State) (p : List Nat), still (u.setMem { u.mem with poison := p }) = still u := fun _ _ => still_setMem rfl
  simp only [landBurst, apply_ite still, hpoison, herrs, still_storeBurst, still_foldEntry, ite_self]

@[simp] theorem still_queueBurst (b : Nat) (old : List Byte) (s : State) : still (queueBurst b old s) = still s := by
  unfold queueBurst
  split
  · exact still_setMem rfl
  · rfl

@[simp] theorem still_verifyBlock (block : Nat) (s : State) : still (verifyBlock block s) = still s := by
  unfold verifyBlock
  split
  · rfl
  · dsimp only
    split <;> simp [apply_ite still]

@[simp] theorem still_markRewrite (b : Nat) (s : State) : still (markRewrite b s) = still s := by
  unfold markRewrite
  extract_lets block
  split
  · rfl
  · simp only [apply_ite still, still_verifyBlock, still_setQuar, ite_self]

@[simp] theorem still_openOnRewrite (b : Nat) (s : State) : still (openOnRewrite b s) = still s := by
  unfold openOnRewrite
  split
  · simp only [apply_ite still, still_forgetChecked, still_writeEntry, ite_self]
  · rfl

@[simp] theorem still_landWaiting (st : Nat) (s : State) : still (landWaiting st s) = still s := by
  unfold landWaiting
  extract_lets ws s1
  rw [foldl_same (g := still) (fun _ _ => by simp)]
  exact still_modStack fun _ => rfl

@[simp] theorem still_putBurst (b : Nat) (d : List Byte) (poison : Bool) (s : State) :
    still (putBurst b d poison s).2 = still s := by
  have hwait : ∀ (st : Nat) (x : WaitingWrite),
      still (s.modStack st (fun v => { v with waiting := v.waiting ++ [x] })) = still s := fun _ _ => still_modStack fun _ => rfl
  simp only [putBurst, apply_ite Prod.snd, apply_ite still, hwait, still_markRewrite, still_queueBurst, still_landBurst,
    still_openOnRewrite, ite_self]

@[simp] theorem still_writeBurst (unit b : Nat) (d : List Byte) (poison : Bool) (s : State) :
    still (writeBurst unit b d poison s).2 = still s := by
  simp only [writeBurst, apply_ite Prod.snd, apply_ite still, still_logErr, still_putBurst, still_recallGranule, ite_self]

@[simp] theorem still_writeBursts (unit b : Nat) (ds : List (List Byte)) (s : State) :
    still (writeBursts unit b ds s).2 = still s := by
  induction ds generalizing b s with
  | nil => rfl
  | cons d ds ih =>
    have hburst : still (writeBurst unit b d false s).2 = still s := still_writeBurst ..
    unfold writeBursts
    split
    · next e =>
      rw [e] at hburst
      exact (ih ..).trans hburst
    · next e =>
      rw [e] at hburst
      exact hburst

@[simp] theorem still_writeMem (unit a : Nat) (data : List Byte) (s : State) : still (writeMem unit a data s).2 = still s := by
  simp only [writeMem, apply_ite Prod.snd, apply_ite still, still_writeBursts, still_recallRange, ite_self]

/-! ## What the waiting accesses and COLLECTs leave alone -/

@[simp] theorem still_noteStopped (dpa : Nat) (s : State) : still (noteStopped dpa s) = still s := still_logErr ..

@[simp] theorem still_noteUnsealed (dpa : Nat) (s : State) : still (noteUnsealed dpa s) = still s := by
  unfold noteUnsealed
  split
  · exact still_logErr ..
  · rfl

@[simp] theorem still_cxlRead (dpa : Nat) (s : State) : still (cxlRead dpa s) = still s := by
  have hread : still (readBursts (ledgerReader 10) (dpa / 32) 2 s).2 = still s := still_readBursts ..
  unfold cxlRead
  split
  · rfl
  · split
    · simp
    · split
      next e =>
      rw [e] at hread
      simp only [apply_ite still, still_send, still_noteUnsealed, still_noteStopped, hread, ite_self]

@[simp] theorem still_cxlWrite (dpa : Nat) (data : List Byte) (poison : Bool) (s : State) :
    still (cxlWrite dpa data poison s) = still s := by
  have hfirst := still_writeBurst 10 (dpa / 32) (data.take 32) poison s
  unfold cxlWrite
  split
  · rfl
  · split
    · simp
    · split
      · simp
      · next s1 e =>
        have hsecond := still_writeBurst 10 (dpa / 32 + 1) (padTo 32 (data.drop 32)) poison s1
        rw [e] at hfirst
        split
        · simp
        · next e2 =>
          rw [e2] at hsecond
          exact hsecond.trans hfirst

@[simp] theorem still_serveHeld (s : State) : still (serveHeld s) = still s := by
  have haccess : ∀ (s : State) (x : HeldAccess), still (cxlAccess x s) = still s := by
    intro s x
    unfold cxlAccess serveAccess
    split
    · rfl
    · split <;> simp
  exact foldl_same haccess _ (s.setHost { s.host with held := [] })

@[simp] theorem still_failCollect (c : Collect) (a : Answer) (member : Nat) (s : State) :
    still (failCollect c a member s) = still s := still_of_body (body_failCollect ..)

@[simp] theorem still_memberDone (w n member : Nat) (s : State) : still (memberDone w n member s) = still s :=
  still_of_body (body_memberDone ..)

@[simp] theorem still_dropCollect (w n : Nat) (s : State) : still (dropCollect w n s) = still s := rfl
@[simp] theorem still_putCollect (c : Collect) (s : State) : still (putCollect c s) = still s := rfl

@[simp] theorem still_vineSendAll (kind : Nat) (dsts args : List Nat) (data : List Byte) (s : State) :
    still (vineSendAll kind dsts args data s) = still s := still_of_body (body_vineSendAll ..)

@[simp] theorem still_contribute (c : Collect) (errs : List SymErr) (s : State) : still (contribute c errs s) = still s := by
  unfold contribute
  dsimp only
  split
  · rfl
  · split
    · exact still_failCollect ..
    · split
      · simp
      · split <;> simp

@[simp] theorem still_finishCollect (w n : Nat) (s : State) : still (finishCollect w n s) = still s := by
  unfold finishCollect
  split
  · rfl
  · next c _ =>
    dsimp only
    split
    · rfl
    · split
      · simp
      · split <;> simp

@[simp] theorem still_serveWaiting (s : State) : still (serveWaiting s) = still s := by
  have hcollect : ∀ (s : State) (c : Collect),
      still (finishCollect c.w c.n (if c.got.any (fun g => g.1 == s.vine.member) then s else contribute c [] s)) = still s := by
    intro s c
    rw [still_finishCollect]
    split
    · rfl
    · exact still_contribute ..
  exact (foldl_same hcollect _ (serveHeld s)).trans (still_serveHeld s)

/-! ## Time -/

/-- What the passing of time leaves alone: everything but the counters' count and the milliseconds that each wedge spends low. -/
structure Timeless where
  rest : State
  wedge : Nat → WedgePower

/-- What the passing of time leaves alone, of a state. -/
def timeless (s : State) : Timeless :=
  { rest := { s with ctl := { s.ctl with ticks := 0 }, pwr := { s.pwr with wedges := [] } }
    wedge := fun w => { s.wedge w with lowMs := 0 } }

theorem timeless_countLow (ms : Nat) (s : State) : timeless (countLow ms s) = timeless s := by
  refine foldl_same (fun s w => ?_) (List.range 4) s
  split
  · have hw : ∀ v, { (s.modWedge w (fun v => { v with lowMs := satAdd 16 v.lowMs ms })).wedge v with lowMs := 0 } =
        { s.wedge v with lowMs := 0 } := by
      intro v
      by_cases hv : v = w
      · rw [hv, wedge_modWedge]
      · rw [wedge_modWedge_ne s hv]
    exact congrArg (Timeless.mk _) (funext hw)
  · rfl

theorem timeless_advanceTo (t : Nat) (s : State) : timeless (s.advanceTo t) = timeless s := by
  unfold State.advanceTo
  split
  · dsimp only
    split
    · rfl
    · exact timeless_countLow ..
  · rfl

theorem countLow_ctl (ms : Nat) (s : State) : (countLow ms s).ctl = s.ctl :=
  foldl_same (g := State.ctl) (fun s w => by split <;> rfl) (List.range 4) s

@[simp] theorem advanceTo_now (t : Nat) {s : State} (h : s.ctl.running = true) : (s.advanceTo t).now = max s.now t := by
  simp only [State.advanceTo, h, Bool.true_and, decide_eq_true_eq, State.now]
  split
  · split
    · simp; omega
    · simp [countLow_ctl]; omega
  · omega

@[simp] theorem advanceTo_mem (t : Nat) (s : State) : (s.advanceTo t).mem = s.mem :=
  congrArg (fun x => x.rest.mem) (timeless_advanceTo t s)

@[simp] theorem advanceTo_stack (t : Nat) (s : State) : (s.advanceTo t).stack = s.stack :=
  congrArg (fun x => x.rest.stack) (timeless_advanceTo t s)

@[simp] theorem advanceTo_pips (t : Nat) (s : State) : (s.advanceTo t).pips = s.pips :=
  congrArg (fun x => x.rest.pips) (timeless_advanceTo t s)

@[simp] theorem advanceTo_capMv (t : Nat) (s : State) : (s.advanceTo t).pwr.capMv = s.pwr.capMv :=
  congrArg (fun x => x.rest.pwr.capMv) (timeless_advanceTo t s)

@[simp] theorem advanceTo_dieState (t w : Nat) (s : State) : ((s.advanceTo t).wedge w).dieState = (s.wedge w).dieState :=
  congrArg (fun x => (x.wedge w).dieState) (timeless_advanceTo t s)

@[simp] theorem advanceTo_wedge_temp (t w : Nat) (s : State) : ((s.advanceTo t).wedge w).temp = (s.wedge w).temp :=
  congrArg (fun x => (x.wedge w).temp) (timeless_advanceTo t s)

@[simp] theorem advanceTo_wedge_cool (t w : Nat) (s : State) : ((s.advanceTo t).wedge w).cool = (s.wedge w).cool :=
  congrArg (fun x => (x.wedge w).cool) (timeless_advanceTo t s)

end Sys2Proof.Proofs
end

section
/-! PROOFS. Heat and power (O53): the samples of stacks, dies and input power, the descents, and the stage monitors (R46, R123, R124,
R130, R150, R414, R416 to R418). -/

open Sys2Proof Sys2Proof.Machine Sys2Proof.Laws

namespace Sys2Proof.Proofs

/-! ## Descents -/

/-- The temperature has been 3 °C below a row's threshold for 10 ms (R123, R150, R416). -/
def Past (t : Table (Option Nat)) (now row : Nat) : Prop := ∃ a, tget none t row = some a ∧ a + 1000000 ≤ now

/-- A descent from a row, among rows that fall, stops at a row that the temperature is in or has not left for 10 ms, or at 0, and every
row it passes has been left that long. -/
theorem coolTo_spec {rows : List Nat} (hrows : rows.Pairwise (· > ·)) (own old now : Nat) (t : Table (Option Nat)) :
    coolTo rows own old now t ≤ old ∧ (0 < coolTo rows own old now t →
      coolTo rows own old now t ≤ own ∨ ¬ Past t now (coolTo rows own old now t)) ∧
    ∀ y ∈ rows, coolTo rows own old now t < y → y ≤ old → own < y ∧ Past t now y := by
  unfold coolTo
  extract_lets past
  have hpast : ∀ r, past r = true ↔ Past t now r := by
    intro r
    cases h : tget none t r with
    | none => simp [past, Past, h]
    | some a =>
      simp only [past, Past, h, Option.some.injEq, exists_eq_left']
      exact decide_eq_true_iff
  clear_value past
  have hstop : ∀ r, (decide (r ≤ own) || !past r) = true ↔ r ≤ own ∨ ¬ Past t now r := by simp [← hpast]
  have passed : ∀ {y}, ¬ (y ≤ own ∨ ¬ Past t now y) → own < y ∧ Past t now y := fun h =>
    ⟨Nat.lt_of_not_le fun hle => h (.inl hle), Classical.byContradiction fun hp => h (.inr hp)⟩
  have hmem : ∀ y, y ∈ rows.filter (fun r => decide (r ≤ old)) ↔ y ∈ rows ∧ y ≤ old := by simp
  cases hfind : (rows.filter (fun r => decide (r ≤ old))).find? (fun r => decide (r ≤ own) || !past r) with
  | none =>
    refine ⟨Nat.zero_le _, fun h => absurd h (Nat.lt_irrefl 0), fun y hy _ hle => ?_⟩
    have hgo := List.find?_eq_none.1 hfind y ((hmem y).2 ⟨hy, hle⟩)
    rw [hstop] at hgo
    exact passed hgo
  | some r =>
    obtain ⟨hr, as, bs, hl, has⟩ := List.find?_eq_some_iff_append.1 hfind
    have hin : r ∈ rows.filter (fun r => decide (r ≤ old)) := by simp [hl]
    refine ⟨((hmem r).1 hin).2, fun _ => (hstop r).1 hr, fun y hy hlt hle => ?_⟩
    have hsorted := hrows.filter (fun r => decide (r ≤ old))
    have hyl := (hmem y).2 ⟨hy, hle⟩
    rw [hl] at hsorted hyl
    have hya : y ∈ as := by
      rcases List.mem_append.1 hyl with h | h
      · exact h
      · rcases List.mem_cons.1 h with rfl | h
        · exact absurd hlt (Nat.lt_irrefl _)
        · have := (List.pairwise_cons.1 (List.pairwise_append.1 hsorted).2.1).1 y h
          exact absurd hlt (Nat.lt_asymm this)
    have hgo := has y hya
    rw [Bool.not_eq_true', ← Bool.not_eq_true, hstop] at hgo
    exact passed hgo

/-! ## A stack's heat -/

@[simp] theorem modStack_cells (s : State) (i : Nat) (f : Stack → Stack) : (s.modStack i f).mem.cells = s.mem.cells := rfl

/-- Between two states stack i keeps its temperature, its refresh row and its thermal row, and the other stacks and the cells stay. -/
structure SameHeat (i : Nat) (s t : State) : Prop where
  temp : (t.stack i).temp = (s.stack i).temp
  refresh : (t.stack i).refresh = (s.stack i).refresh
  thermal : (t.stack i).thermal = (s.stack i).thermal
  others : ∀ j, j ≠ i → t.stack j = s.stack j
  cells : t.mem.cells = s.mem.cells

theorem SameHeat.refl (i : Nat) (s : State) : SameHeat i s s := ⟨rfl, rfl, rfl, fun _ _ => rfl, rfl⟩

theorem SameHeat.trans {i : Nat} {s t u : State} (h : SameHeat i s t) (g : SameHeat i t u) : SameHeat i s u :=
  ⟨g.temp.trans h.temp, g.refresh.trans h.refresh, g.thermal.trans h.thermal, fun j hj => (g.others j hj).trans (h.others j hj),
    g.cells.trans h.cells⟩

theorem sameHeat_of_mem {i : Nat} {s t : State} (h : t.mem = s.mem) : SameHeat i s t := by
  have hs : t.stack = s.stack := funext fun j => by simp only [State.stack, h]
  exact ⟨by rw [hs], by rw [hs], by rw [hs], fun _ _ => by rw [hs], by rw [h]⟩

theorem sameHeat_of_body {i : Nat} {s t : State} (h : body t = body s) : SameHeat i s t := sameHeat_of_mem (mem_of_body h)

theorem sameHeat_modStack {i : Nat} {f : Stack → Stack} (s : State) (ht : ∀ v, (f v).temp = v.temp)
    (hr : ∀ v, (f v).refresh = v.refresh) (hh : ∀ v, (f v).thermal = v.thermal) : SameHeat i s (s.modStack i f) :=
  ⟨by rw [stack_modStack, ht], by rw [stack_modStack, hr], by rw [stack_modStack, hh], fun _ hj => stack_modStack_ne s hj f, rfl⟩

@[simp] theorem countHot_mem (i : Nat) (s : State) : (countHot i s).mem = s.mem := by
  unfold countHot
  split <;> rfl

@[simp] theorem countHot_ctl (i : Nat) (s : State) : (countHot i s).ctl = s.ctl := by
  unfold countHot
  split <;> rfl

theorem reportHot_sameHeat (i temp : Nat) (s : State) : SameHeat i s (reportHot i temp s) := by
  unfold reportHot
  split
  · exact sameHeat_of_body (by simp)
  · split
    · exact sameHeat_modStack s (fun _ => rfl) (fun _ => rfl) (fun _ => rfl)
    · exact sameHeat_of_body (by simp)

@[simp] theorem reportHot_ctl (i temp : Nat) (s : State) : (reportHot i temp s).ctl = s.ctl := by
  unfold reportHot
  split
  · exact ctl_of_body (s := s) (by simp)
  · split
    · rfl
    · exact ctl_of_body (by simp)

@[simp] theorem body_reportStop (i : Nat) (s : State) : body (reportStop i s) = body s := by
  unfold reportStop
  split
  · exact body_vineSend ..
  · rfl

theorem holdRuns_mem (k : Nat) (s : State) : (holdRuns k s).mem = s.mem :=
  foldl_same (g := State.mem) (fun _ _ => mem_of_body (body_endRunRecord ..)) _ (s.modPip k (fun v => { v with held := [] }))

/-- A stack enters a row: the row, its count and its reports, before anything becomes of its runs (R150, R151). -/
def heated (i row : Nat) (s : State) : State :=
  let old := (s.stack i).thermal
  let temp := (s.stack i).temp
  let s := s.modStack i (fun v => { v with thermal := row, riseTo := 0 })
  let s := if old = 0 || row = 4 then countHot i s else s
  let s := if old = 0 && row < 4 then reportHot i temp s else s
  if row = 4 then reportStop i (logErr 0x31 9 i 0 temp s) else s

/-- A rise of a stack: the runs of a pip stack stop when it becomes STOPPED, and those still held end when it becomes HOT (R151). -/
theorem heatUp_eq (i row : Nat) (s : State) : heatUp i row s =
    if isPipStack i = false then heated i row s
    else if row = 4 then stopRuns (pipOfStack i) (heated i row s)
    else if (s.stack i).thermal = 0 then holdRuns (pipOfStack i) (heated i row s) else heated i row s := by
  unfold heatUp
  simp only [Bool.not_eq_true']
  rfl

theorem heated_sameHeat (i row : Nat) (s : State) :
    SameHeat i (s.modStack i (fun v => { v with thermal := row, riseTo := 0 })) (heated i row s) := by
  unfold heated
  extract_lets old temp s1 s2 s3
  have h2 : SameHeat i s1 s2 := by
    unfold s2
    split
    · exact sameHeat_of_mem (countHot_mem ..)
    · exact .refl i s1
  have h3 : SameHeat i s2 s3 := by
    unfold s3
    split
    · exact reportHot_sameHeat ..
    · exact .refl i s2
  refine (h2.trans h3).trans ?_
  split
  · exact sameHeat_of_body (by simp)
  · exact .refl i s3

theorem heated_stopped_hotCnt {i : Nat} (hi : isPipStack i = true) (s : State) :
    ((heated i 4 s).pip (pipOfStack i)).hotCnt = satAdd 16 (s.pip (pipOfStack i)).hotCnt 1 := by
  have hb : body (heated i 4 s) = body (countHot i (s.modStack i (fun v => { v with thermal := 4, riseTo := 0 }))) := by
    simp [heated]
  rw [pip_of_body hb, countHot, if_pos hi, pip_modPip]
  rfl

/-! ## STACK_TEMP_SAMPLE -/

/-- A sample noted: the temperature, the refresh row and since when each threshold lies 3 °C above it, before any change of row. -/
def noted (i temp : Nat) (s : State) : State :=
  let (busy, s) := pipBusy i s
  s.modStack i (fun v => { v with
    temp := temp, refresh := max v.refresh (refreshRow temp busy),
    cool := coolRows (thermalRows (isPipStack i)) rowStart temp s.now v.cool,
    refreshCool := coolRows [3, 2, 1] refreshStart temp s.now v.refreshCool })

@[simp] theorem body_pipBusy (i : Nat) (s : State) : body (pipBusy i s).2 = body s := by
  unfold pipBusy
  split <;> rfl

section
variable (i temp : Nat) (s : State)

@[simp] theorem noted_pip : (noted i temp s).pip = s.pip :=
  (pip_of_body (body_pipBusy i s) : (pipBusy i s).2.pip = s.pip)

theorem noted_stack : (noted i temp s).stack i = { s.stack i with
    temp := temp
    refresh := ((noted i temp s).stack i).refresh
    cool := ((noted i temp s).stack i).cool
    refreshCool := ((noted i temp s).stack i).refreshCool } := by
  simp [noted, stack_of_body (body_pipBusy i s)]

@[simp] theorem noted_temp : ((noted i temp s).stack i).temp = temp := by rw [noted_stack]
@[simp] theorem noted_thermal : ((noted i temp s).stack i).thermal = (s.stack i).thermal := by rw [noted_stack]
@[simp] theorem noted_riseTo : ((noted i temp s).stack i).riseTo = (s.stack i).riseTo := by rw [noted_stack]

theorem noted_refresh : (s.stack i).refresh ≤ ((noted i temp s).stack i).refresh := by
  simp only [noted, stack_modStack, stack_of_body (body_pipBusy i s)]
  exact Nat.le_max_left ..

theorem noted_others {j : Nat} (hj : j ≠ i) : (noted i temp s).stack j = s.stack j := by
  simp [noted, hj, stack_of_body (body_pipBusy i s)]

@[simp] theorem noted_cells : (noted i temp s).mem.cells = s.mem.cells :=
  (congrArg Mem.cells (mem_of_body (body_pipBusy i s)) : (pipBusy i s).2.mem.cells = s.mem.cells)

end

/-- A sample of a stack that answers, or that trains: noted, and then nothing, a rise that waits for the slice's end, or a rise. -/
theorem stackTemp_eq {i : Nat} {s : State} (h : (s.stack i).sensors = true ∨ s.boot.stage = 5) (temp : Nat) :
    stackTemp i temp s =
      if thermalRow (isPipStack i) (min temp 255) ≤ (s.stack i).thermal then noted i (min temp 255) s
      else if thermalRow (isPipStack i) (min temp 255) < 4 && isPipStack i && (s.pip (pipOfStack i)).inSlice then
        (noted i (min temp 255) s).modStack i (fun v => { v with riseTo := max v.riseTo (thermalRow (isPipStack i) (min temp 255)) })
      else heatUp i (thermalRow (isPipStack i) (min temp 255)) (noted i (min temp 255) s) := by
  have hg : (!(s.stack i).sensors && decide (s.boot.stage ≠ 5)) = false := by
    rcases h with h | h <;> simp [h]
  rw [← noted_pip i (min temp 255) s]
  unfold stackTemp
  simp only [hg]
  rfl

/-- A rise that stops no runs leaves the stack in its new row. -/
theorem heatUp_sameHeat {i row : Nat} (s : State) (h : row ≠ 4 ∨ isPipStack i = false) :
    SameHeat i (s.modStack i (fun v => { v with thermal := row, riseTo := 0 })) (heatUp i row s) := by
  have hs := heated_sameHeat i row s
  rw [heatUp_eq]
  split
  · exact hs
  · next hp =>
    rw [if_neg (h.resolve_right hp)]
    split
    · exact hs.trans (sameHeat_of_mem (holdRuns_mem ..))
    · exact hs

/-- What a sample gives where it stops no runs. -/
structure Sampled (i temp row : Nat) (s t : State) : Prop where
  temp : (t.stack i).temp = temp
  refresh : (s.stack i).refresh ≤ (t.stack i).refresh
  others : ∀ j, j ≠ i → t.stack j = s.stack j
  cells : t.mem.cells = s.mem.cells
  row : if (s.stack i).thermal < row ∧ isPipStack i = true ∧ (s.pip (pipOfStack i)).inSlice = true then
      (t.stack i).thermal = (s.stack i).thermal ∧ (t.stack i).riseTo = max (s.stack i).riseTo row
    else (t.stack i).thermal = max (s.stack i).thermal row

theorem stackTemp_sampled {i row : Nat} {s : State} (h : (s.stack i).sensors = true ∨ s.boot.stage = 5) (temp : Nat)
    (hrow : row = thermalRow (isPipStack i) (min temp 255)) (hcase : row ≤ (s.stack i).thermal ∨ row < 4 ∨ isPipStack i = false) :
    Sampled i (min temp 255) row s (stackTemp i temp s) := by
  rw [stackTemp_eq h, ← hrow]
  generalize min temp 255 = m
  split
  · next hle =>
    exact ⟨noted_temp .., noted_refresh .., fun _ hj => noted_others _ _ _ hj, noted_cells .., by
      rw [if_neg (fun hx => absurd hx.1 (Nat.not_lt.2 hle)), noted_thermal, Nat.max_eq_left hle]⟩
  · next hlt =>
    split
    · next hslice =>
      simp only [Bool.and_eq_true, decide_eq_true_eq] at hslice
      obtain ⟨⟨-, hpip⟩, hin⟩ := hslice
      refine ⟨by simp, by simpa using noted_refresh i m s, fun j hj => ?_, by simp, ?_⟩
      · rw [stack_modStack_ne _ hj, noted_others _ _ _ hj]
      · rw [if_pos ⟨Nat.not_le.1 hlt, hpip, hin⟩]
        simp
    · next hslice =>
      have hs : SameHeat i ((noted i m s).modStack i (fun v => { v with thermal := row, riseTo := 0 })) (heatUp i row (noted i m s)) := by
        refine heatUp_sameHeat _ ((hcase.resolve_left hlt).imp_left Nat.ne_of_lt)
      refine ⟨by simp [hs.temp], ?_, fun j hj => ?_, by simp [hs.cells], ?_⟩
      · rw [hs.refresh, stack_modStack]
        exact noted_refresh ..
      · rw [hs.others j hj, stack_modStack_ne _ hj, noted_others _ _ _ hj]
      · have hno : ¬ ((s.stack i).thermal < row ∧ isPipStack i = true ∧ (s.pip (pipOfStack i)).inSlice = true) := by
          rintro ⟨-, hpip, hin⟩
          have hrow4 : row < 4 := (hcase.resolve_left hlt).resolve_right (by simp [hpip])
          exact hslice (by simp [hrow4, hpip, hin])
        rw [if_neg hno, hs.thermal, stack_modStack]
        exact (Nat.max_eq_right (Nat.le_of_not_le hlt)).symm

/-- A sample that makes a pip stack STOPPED stops its runs, even in a slice. -/
theorem stackTemp_stopped {i : Nat} {s : State} (h : (s.stack i).sensors = true ∨ s.boot.stage = 5) {temp : Nat}
    (hrow : thermalRow (isPipStack i) (min temp 255) = 4) (hlt : (s.stack i).thermal < 4) (hpip : isPipStack i = true) :
    stackTemp i temp s = stopRuns (pipOfStack i) (heated i 4 (noted i (min temp 255) s)) := by
  rw [stackTemp_eq h, hrow, if_neg (Nat.not_le.2 hlt)]
  simp [heatUp_eq, hpip]

/-! ## The step-downs of a stack -/

/-- The control part and a stack's thermal row: what the reports and the writes at the end of a descent leave alone. -/
def clockAndRow (i : Nat) (s : State) : Control × Nat := (s.ctl, (s.stack i).thermal)

theorem clockAndRow_landWaiting (i st : Nat) (s : State) : clockAndRow i (landWaiting st s) = clockAndRow i s := by
  have h := still_landWaiting st s
  simp only [clockAndRow, ctl_of_still h, thermal_of_still h]

theorem clockAndRow_reportHot (i temp : Nat) (s : State) : clockAndRow i (reportHot i temp (countHot i s)) = clockAndRow i s := by
  have h := (sameHeat_of_mem (i := i) (countHot_mem i s)).trans (reportHot_sameHeat i temp _)
  simp only [clockAndRow, reportHot_ctl, countHot_ctl, h.thermal]

theorem clockAndRow_setVine (i : Nat) (s : State) (v : Vine) : clockAndRow i (s.setVine v) = clockAndRow i s := rfl

theorem thermalDown_clockAndRow {i a : Nat} {s : State} (hcool : (s.stack i).coolSince = some a) (hrun : s.ctl.running = true) :
    clockAndRow i (thermalDown i s) = ((s.advanceTo (a + 1000000)).ctl,
      coolTo (thermalRows (isPipStack i)) (thermalRow (isPipStack i) (s.stack i).temp) (s.stack i).thermal
        (max s.now (a + 1000000)) (s.stack i).cool) := by
  simp only [thermalDown, hcool, apply_ite (clockAndRow i), clockAndRow_setVine, clockAndRow_reportHot, clockAndRow_landWaiting,
    ite_self]
  simp only [clockAndRow, stack_modStack, advanceTo_stack, advanceTo_now _ hrun]
  rfl

/-- REFRESH_STEPDOWN moves the clock and the stack's refresh row. -/
theorem refreshDown_eq {i a : Nat} {s : State} (hcool : (s.stack i).refreshSince = some a) (hrun : s.ctl.running = true) :
    refreshDown i s = (pipBusy i (s.advanceTo (a + 1000000))).2.modStack i (fun v => { v with
      refresh := coolTo [3, 2, 1] (refreshRow v.temp (pipBusy i (s.advanceTo (a + 1000000))).1) v.refresh (max s.now (a + 1000000))
        v.refreshCool }) := by
  rw [← advanceTo_now _ hrun, ← now_of_body (body_pipBusy i _)]
  simp only [refreshDown, hcool]
  rfl

theorem refreshDown_stack {i a : Nat} {s : State} (hcool : (s.stack i).refreshSince = some a) (hrun : s.ctl.running = true) :
    (refreshDown i s).stack i = { s.stack i with
      refresh := coolTo [3, 2, 1] (refreshRow (s.stack i).temp (pipBusy i (s.advanceTo (a + 1000000))).1) (s.stack i).refresh
        (max s.now (a + 1000000)) (s.stack i).refreshCool } := by
  rw [refreshDown_eq hcool hrun, stack_modStack, stack_of_body (body_pipBusy ..), advanceTo_stack]

theorem refreshDown_others {i a : Nat} {s : State} (hcool : (s.stack i).refreshSince = some a) (hrun : s.ctl.running = true)
    {j : Nat} (hj : j ≠ i) : (refreshDown i s).stack j = s.stack j := by
  rw [refreshDown_eq hcool hrun, stack_modStack_ne _ hj, stack_of_body (body_pipBusy ..), advanceTo_stack]

theorem refreshDown_now {i a : Nat} {s : State} (hcool : (s.stack i).refreshSince = some a) (hrun : s.ctl.running = true) :
    (refreshDown i s).now = max s.now (a + 1000000) := by
  rw [refreshDown_eq hcool hrun, ← advanceTo_now _ hrun]
  exact (now_of_body (body_pipBusy i _) : (pipBusy i (s.advanceTo (a + 1000000))).2.now = _)

/-! ## The die -/

/-- A step of the thermal level moves nothing but it and the tick of its last step. -/
theorem thermalStep_frame (w : Nat) (s : State) : thermalStep w s = s ∨
    ∃ mv, thermalStep w s = s.modWedge w (fun v => { v with thermalMv := mv, steppedAt := some s.now }) := by
  unfold thermalStep
  extract_lets v due mv
  split
  · exact .inl rfl
  · exact .inr ⟨mv, rfl⟩

theorem thermalStep_ctl (w : Nat) (s : State) : (thermalStep w s).ctl = s.ctl := by
  rcases thermalStep_frame w s with h | ⟨mv, h⟩ <;> rw [h]
  rfl

theorem thermalStep_boot (w : Nat) (s : State) : (thermalStep w s).boot = s.boot := by
  rcases thermalStep_frame w s with h | ⟨mv, h⟩ <;> rw [h]
  rfl

theorem thermalStep_dieState (w : Nat) (s : State) : ((thermalStep w s).wedge w).dieState = (s.wedge w).dieState := by
  rcases thermalStep_frame w s with h | ⟨mv, h⟩ <;> rw [h]
  rw [wedge_modWedge]

theorem thermalStep_temp (w : Nat) (s : State) : ((thermalStep w s).wedge w).temp = (s.wedge w).temp := by
  rcases thermalStep_frame w s with h | ⟨mv, h⟩ <;> rw [h]
  rw [wedge_modWedge]

theorem thermalStep_others {w v : Nat} (hv : v ≠ w) (s : State) : (thermalStep w s).wedge v = s.wedge v := by
  rcases thermalStep_frame w s with h | ⟨mv, h⟩ <;> rw [h]
  exact wedge_modWedge_ne s hv _

theorem dieDown_spec {w a : Nat} {s : State} (hcool : (s.wedge w).coolSince = some a) (hrun : s.ctl.running = true) :
    (dieDown w s).now = max s.now (a + 1000000) ∧ ((dieDown w s).wedge w).dieState =
      coolTo [3, 2, 1] (dieRow (s.wedge w).temp) (s.wedge w).dieState (max s.now (a + 1000000)) (s.wedge w).cool := by
  simp only [dieDown, hcool]
  constructor
  · rw [State.now, thermalStep_ctl]
    exact advanceTo_now _ hrun
  · rw [thermalStep_dieState, wedge_modWedge, advanceTo_now _ hrun, advanceTo_dieState, advanceTo_wedge_temp, advanceTo_wedge_cool]
    rfl

theorem wedge_of_pwr {s t : State} (h : t.pwr = s.pwr) : t.wedge = s.wedge := by
  funext w
  simp only [State.wedge, h]

/-- A trip makes the module FATAL, and before release it is its failure code (R382, R427); what waits is answered, and the wedges stay. -/
theorem goFatal_trip (s : State) : (goFatal 3 s).boot = { s.boot with stage := 10, fail := if s.released then s.boot.fail else 8 } ∧
    (goFatal 3 s).pwr = s.pwr := by
  have hl : body (logErr 0x80 0 0 0 3 s) = body s := body_logErr ..
  constructor
  · refine (boot_of_still (still_serveWaiting _)).trans ?_
    dsimp only [setBoot_boot]
    rw [boot_of_body hl]
    cases s.released <;> rfl
  · exact (pwr_of_still (still_serveWaiting _)).trans (pwr_of_body hl : (logErr 0x80 0 0 0 3 s).pwr = s.pwr)

theorem dieRow_of_trip {t : Nat} (h : 105 ≤ t) : dieRow t = 3 := if_pos h

theorem dieRow_below_trip {t : Nat} (h : t < 105) : dieRow t = if 100 ≤ t then 2 else if 95 ≤ t then 1 else 0 :=
  if_neg (Nat.not_le.2 h)

theorem dieRow_ne_trip {t : Nat} (h : t < 105) : dieRow t ≠ 3 := by
  rw [dieRow_below_trip h]
  split
  · decide
  · split <;> decide

/-- The reading that DIE_TEMP_SAMPLE takes: the hottest of the wedge's eight sensors, at most 255. -/
def hottest (temps : List Nat) : Nat := min 255 ((temps.take 8).foldl max 0)

/-- What a sample of a die below the trip threshold gives. -/
structure DieSampled (w x : Nat) (s t : State) : Prop where
  temp : (t.wedge w).temp = x
  others : ∀ v, v ≠ w → t.wedge v = s.wedge v
  boot : t.boot = s.boot
  dieState : (t.wedge w).dieState = max (s.wedge w).dieState (dieRow x)

theorem dieTemp_below {w : Nat} (temps : List Nat) (s : State) (h : hottest temps < 105) :
    DieSampled w (hottest temps) s (dieTemp w temps s) := by
  unfold dieTemp
  extract_lets x v row s1
  have hrow : row ≠ 3 := dieRow_ne_trip h
  rw [if_neg hrow]
  have hmsix : ∀ u : State, body (if v.dieState < row then msix 17 (logErr 0x32 0 0 0 x u) else u) = body u := by
    intro u
    split
    · rw [body_msix, body_logErr]
    · rfl
  have hw := wedge_of_pwr (pwr_of_body (hmsix s1))
  refine ⟨?_, fun v hv => ?_, ?_, ?_⟩
  · rw [thermalStep_temp, hw, wedge_modWedge]
    rfl
  · rw [thermalStep_others hv, hw, wedge_modWedge_ne s hv]
  · rw [thermalStep_boot, boot_of_body (hmsix s1)]
    rfl
  · rw [thermalStep_dieState, hw, wedge_modWedge]
    rfl

theorem dieTemp_trip (w : Nat) (temps : List Nat) (s : State) (h : 105 ≤ hottest temps) :
    dieTemp w temps s = goFatal 3 (s.modWedge w (fun v => { v with temp := hottest temps })) :=
  if_pos (dieRow_of_trip h)

/-! ## The power cap and the stage monitors -/

/-- The power part with one more sample, and since when the average has been low. -/
def withSample (watts : Nat) (s : State) : Power :=
  let s := s.setPwr { s.pwr with
    samples := (watts :: s.pwr.samples).take 100, peakW := max s.pwr.peakW (min watts 65535), energy := s.pwr.energy + watts }
  { s.pwr with lowSince := if 100 * s.avgWatts < 95 * s.pwr.watts then some (s.pwr.lowSince.getD s.now) else none }

theorem powerSample_eq (watts : Nat) (s : State) : powerSample watts s = s.setPwr
    (if s.pwr.watts < (s.setPwr (withSample watts s)).avgWatts ∧ s.capDue = true ∧ 650 < s.pwr.capMv then
      { withSample watts s with capMv := max 650 (s.pwr.capMv - 25), capSteppedAt := some s.now }
    else withSample watts s) := by
  split
  · next h =>
    obtain ⟨havg, hdue, hmv⟩ := h
    refine if_pos ?_
    simp only [Bool.and_eq_true, decide_eq_true_eq]
    exact ⟨⟨havg, hdue⟩, hmv⟩
  · next h =>
    refine if_neg fun hstep => h ?_
    simp only [Bool.and_eq_true, decide_eq_true_eq] at hstep
    obtain ⟨⟨havg, hdue⟩, hmv⟩ := hstep
    exact ⟨havg, hdue, hmv⟩

theorem capStepUp_eq {a : Nat} {s : State} (hlow : s.pwr.lowSince = some a) (hmv : s.pwr.capMv < 850) : ∃ tick, a + 1000000 ≤ tick ∧
    capStepUp s = (s.advanceTo tick).setPwr { (s.advanceTo tick).pwr with
      capMv := min 850 (s.pwr.capMv + 25), capSteppedAt := some (s.advanceTo tick).now } := by
  refine ⟨max (a + 1000000) ((s.pwr.capSteppedAt.map (· + msTicks 1)).getD 0), Nat.le_max_left .., ?_⟩
  simp only [capStepUp, hlow, if_neg (Nat.not_le.2 hmv), advanceTo_capMv]
  rfl

theorem capUnmet_spec {s : State} (hunmet : s.pwr.unmet = false) (hmv : s.pwr.capMv = 650) (havg : s.pwr.watts < s.avgWatts) :
    (capUnmet s).pwr.unmet = true ∧ (capUnmet s).pwr.capMv = 650 ∧ (capUnmet s).mem = s.mem := by
  let u := s.advanceTo ((s.pwr.capSteppedAt.getD 0) + msTicks 10)
  have hstep : capUnmet s = msix 17 (logErr 0x33 0 0 0 (u.setPwr { u.pwr with unmet := true }).avgWatts
      (u.setPwr { u.pwr with unmet := true })) := if_neg (by simp [hunmet, hmv, havg])
  have hb : body (capUnmet s) = body (u.setPwr { u.pwr with unmet := true }) := by simp [hstep]
  rw [pwr_of_body hb, mem_of_body hb]
  exact ⟨rfl, (advanceTo_capMv ..).trans hmv, advanceTo_mem ..⟩

/-- The slowest measure of the monitors whose rail allows handshakes (R46). -/
def slowest (ps : List Nat) (s : State) : Nat :=
  (((List.range 8).filter (fun j => decide (650 ≤ s.railMv (j / 2)))).map (fun j => ps.getD j 0)).foldl max 0

theorem stageMeasure_of_ok {ps : List Nat} {s : State}
    (hok : ∀ j, j < 8 → 650 ≤ s.railMv (j / 2) → s.stageOk (j / 2) (ps.getD j 0) = true) (hpg : s.boot.pg = true) :
    stageMeasure ps s = s.setPwr { s.pwr with
      maxPs := max s.pwr.maxPs (slowest ps s), curPs := slowest ps s } := by
  refine if_neg ?_
  simp only [hpg, Bool.not_true, Bool.false_or, Bool.not_eq_true', Bool.not_eq_false, List.all_eq_true]
  intro j hj
  simp only [List.mem_filter, List.mem_range, decide_eq_true_eq] at hj
  exact hok j hj.1 hj.2

theorem stageMeasure_of_not {ps : List Nat} {s : State}
    (h : s.boot.pg = false ∨ ∃ j, j < 8 ∧ 650 ≤ s.railMv (j / 2) ∧ s.stageOk (j / 2) (ps.getD j 0) = false) :
    stageMeasure ps s = s := by
  refine if_pos ?_
  simp only [Bool.or_eq_true, Bool.not_eq_true']
  refine h.imp_right fun ⟨j, hj, hrail, hps⟩ => ?_
  exact List.all_eq_false.2 ⟨j, by simp [hj, hrail], by rw [hps]; decide⟩

/-! ## The commands -/

theorem thermalRow_eq (pip : Bool) (temp : Nat) : thermalRow pip temp =
    if 95 ≤ temp then 4 else if 93 ≤ temp ∧ pip = true then 3 else if 90 ≤ temp then 2 else if 85 ≤ temp then 1 else 0 := by
  simp [thermalRow]

theorem exec_stackTempSample_of_sensing (i : Fin 16) (temp : Nat) {s : State} (hlo : 5 ≤ s.boot.stage) (hhi : s.boot.stage ≤ 7) :
    exec (.stackTempSample i temp) s = .next (stackTemp i temp s) :=
  congrArg Host.Outcome.next (if_pos (by simp [State.sensing, hlo, hhi]))

/-- A sample outside MEMORY to release, or of sensors that do not answer, is none (R130). -/
theorem exec_stackTempSample_of_not {i : Fin 16} {s : State}
    (h : s.boot.stage < 5 ∨ 7 < s.boot.stage ∨ ((s.stack i).sensors = false ∧ s.boot.stage ≠ 5)) (temp : Nat) :
    exec (.stackTempSample i temp) s = .next s := by
  show Host.Outcome.next (if s.sensing then stackTemp i temp s else s) = _
  split
  · next hsens =>
    simp only [State.sensing, Bool.and_eq_true, decide_eq_true_eq] at hsens
    obtain ⟨hsen, hst⟩ := (h.resolve_left (by omega)).resolve_left (by omega)
    exact congrArg Host.Outcome.next (if_pos (by simp [hsen, hst]))
  · rfl

theorem whenReleased_eq {s : State} (h : s.released = true) (f : State → State) : whenReleased f s = f s := if_pos h

/-- A descent among the thermal rows of a stack (R150, log entry 43). -/
theorem thermalDescent (pip : Bool) (own old now : Nat) (t : Table (Option Nat)) :
    let x := coolTo (thermalRows pip) own old now t
    x ≤ old ∧ (0 < x → x ≤ own ∨ ¬ Past t now x) ∧
      ∀ y, x < y → y ≤ old → (y = 3 → pip = true) → y ≤ 4 → own < y ∧ Past t now y := by
  obtain ⟨hle, hstop, hpass⟩ := coolTo_spec (rows := thermalRows pip) (by cases pip <;> decide) own old now t
  refine ⟨hle, hstop, fun y hlt hold hpip h4 => hpass y ?_ hlt hold⟩
  have hy : y = 1 ∨ y = 2 ∨ y = 3 ∨ y = 4 := by omega
  rcases hy with rfl | rfl | rfl | rfl
  · cases pip <;> decide
  · cases pip <;> decide
  · rw [hpip rfl]
    decide
  · cases pip <;> decide

/-- A descent among three rows: those of refresh, or the states of a die (R123, R416). -/
theorem threeRowDescent (own old now : Nat) (t : Table (Option Nat)) :
    let x := coolTo [3, 2, 1] own old now t
    x ≤ old ∧ (0 < x → x ≤ own ∨ ¬ Past t now x) ∧ ∀ y, x < y → y ≤ old → y ≤ 3 → own < y ∧ Past t now y := by
  obtain ⟨hle, hstop, hpass⟩ := coolTo_spec (rows := [3, 2, 1]) (by decide) own old now t
  refine ⟨hle, hstop, fun y hlt hold h3 => hpass y ?_ hlt hold⟩
  simp only [List.mem_cons, List.not_mem_nil, or_false]
  omega

theorem exec_stackTempSample_stopped (i : Fin 16) {temp : Nat} {s : State} (hlo : 5 ≤ s.boot.stage) (hhi : s.boot.stage ≤ 7)
    (hs : (s.stack i).sensors = true ∨ s.boot.stage = 5) (hrow : thermalRow (isPipStack i) (min temp 255) = 4)
    (hlt : (s.stack i).thermal < 4) (hpip : isPipStack i = true) :
    ∃ v, exec (.stackTempSample i temp) s = .next (stopRuns (pipOfStack i) v) ∧ (v.stack i).temp = min temp 255 ∧
      (v.stack i).thermal = 4 ∧ (v.pip (pipOfStack i)).hotCnt = satAdd 16 (s.pip (pipOfStack i)).hotCnt 1 ∧
      (∀ j, j ≠ i.val → v.stack j = s.stack j) ∧ v.mem.cells = s.mem.cells := by
  have h := heated_sameHeat i 4 (noted i (min temp 255) s)
  refine ⟨heated i 4 (noted i (min temp 255) s), ?_, ?_, ?_, ?_, fun j hj => ?_, ?_⟩
  · rw [exec_stackTempSample_of_sensing i temp hlo hhi, stackTemp_stopped hs hrow hlt hpip]
  · rw [h.temp, stack_modStack, noted_temp]
  · rw [h.thermal, stack_modStack]
  · rw [heated_stopped_hotCnt hpip, noted_pip]
  · rw [h.others j hj, stack_modStack_ne _ hj, noted_others _ _ _ hj]
  · rw [h.cells, modStack_cells, noted_cells]

section
variable {s : State} (hrel : s.released = true)
include hrel

theorem exec_stackThermalStepdown {i : Fin 16} {a : Nat} (hcool : (s.stack i).coolSince = some a) (hrun : s.ctl.running = true) :
    ∃ t, exec (.stackThermalStepdown i) s = .next t ∧ t.now = max s.now (a + 1000000) ∧
      ∀ x past, x = (t.stack i).thermal → past = Past (s.stack i).cool t.now →
        x ≤ (s.stack i).thermal ∧ (0 < x → x ≤ thermalRow (isPipStack i) (s.stack i).temp ∨ ¬ past x) ∧
        ∀ y, x < y → y ≤ (s.stack i).thermal → (y = 3 → isPipStack i = true) → y ≤ 4 →
          thermalRow (isPipStack i) (s.stack i).temp < y ∧ past y := by
  have h := thermalDown_clockAndRow hcool hrun
  simp only [clockAndRow, Prod.mk.injEq] at h
  obtain ⟨hctl, hrow⟩ := h
  have hnow : (thermalDown i s).now = max s.now (a + 1000000) := by
    rw [← advanceTo_now _ hrun]
    exact congrArg Control.ticks hctl
  refine ⟨thermalDown i s, congrArg Host.Outcome.next (whenReleased_eq hrel _), hnow, ?_⟩
  rintro x past rfl rfl
  rw [hrow, hnow]
  exact thermalDescent ..

theorem exec_stackThermalStepdown_of_warm {i : Fin 16} (hcool : (s.stack i).coolSince = none) :
    exec (.stackThermalStepdown i) s = .next s := by
  show Host.Outcome.next (whenReleased (thermalDown i) s) = _
  simp only [whenReleased_eq hrel, thermalDown, hcool]

theorem exec_refreshStepdown {i : Fin 16} {a : Nat} (hcool : (s.stack i).refreshSince = some a) (hrun : s.ctl.running = true) :
    ∃ t, exec (.refreshStepdown i) s = .next t ∧ t.now = max s.now (a + 1000000) ∧
      (t.stack i).thermal = (s.stack i).thermal ∧ (∀ j, j ≠ i.val → t.stack j = s.stack j) ∧
      (isPipStack i = false → ∀ x past, x = (t.stack i).refresh → past = Past (s.stack i).refreshCool t.now →
        x ≤ (s.stack i).refresh ∧ (0 < x → x ≤ refreshRow (s.stack i).temp false ∨ ¬ past x) ∧
        ∀ y, x < y → y ≤ (s.stack i).refresh → y ≤ 3 → refreshRow (s.stack i).temp false < y ∧ past y) := by
  have hnow := refreshDown_now hcool hrun
  have hstack := refreshDown_stack hcool hrun
  refine ⟨refreshDown i s, congrArg Host.Outcome.next (whenReleased_eq hrel _), hnow, by rw [hstack],
    fun j hj => refreshDown_others hcool hrun hj, ?_⟩
  rintro hplain x past rfl rfl
  have hbusy : (pipBusy i (s.advanceTo (a + 1000000))).1 = false := by simp [pipBusy, hplain]
  rw [hstack, hnow, hbusy]
  exact threeRowDescent ..

theorem exec_refreshStepdown_of_warm {i : Fin 16} (hcool : (s.stack i).refreshSince = none) :
    exec (.refreshStepdown i) s = .next s := by
  show Host.Outcome.next (whenReleased (refreshDown i) s) = _
  simp only [whenReleased_eq hrel, refreshDown, hcool]

theorem exec_refreshDue_of_slice {i : Fin 16} (hpip : isPipStack i = true) (hin : (s.pip (pipOfStack i)).inSlice = true) :
    ∃ t, exec (.refreshDue i) s = .next t ∧
      (t.pip (pipOfStack i)) = { s.pip (pipOfStack i) with refreshDue := min 4 ((s.pip (pipOfStack i)).refreshDue + 1) } ∧
      (∀ j, j ≠ pipOfStack i → t.pip j = s.pip j) ∧ t = { s with pips := t.pips } :=
  ⟨s.modPip (pipOfStack i) (fun v => { v with refreshDue := min 4 (v.refreshDue + 1) }),
    congrArg Host.Outcome.next ((whenReleased_eq hrel _).trans (if_pos (by simp [hpip, hin]))),
    pip_modPip .., fun _ hj => pip_modPip_ne s hj _, rfl⟩

theorem exec_refreshDue_of_no_slice {i : Fin 16} (h : (isPipStack i && (s.pip (pipOfStack i)).inSlice) = false) :
    exec (.refreshDue i) s = .next s :=
  congrArg Host.Outcome.next ((whenReleased_eq hrel _).trans (if_neg (by simp [h])))

theorem exec_dieThermalStepdown {w : Fin 4} {a : Nat} (hcool : (s.wedge w).coolSince = some a) (hrun : s.ctl.running = true) :
    ∃ t, exec (.dieThermalStepdown w) s = .next t ∧ t.now = max s.now (a + 1000000) ∧
      ∀ x past, x = (t.wedge w).dieState → past = Past (s.wedge w).cool t.now →
        x ≤ (s.wedge w).dieState ∧ (0 < x → x ≤ dieRow (s.wedge w).temp ∨ ¬ past x) ∧
        ∀ y, x < y → y ≤ (s.wedge w).dieState → y ≤ 3 → dieRow (s.wedge w).temp < y ∧ past y := by
  obtain ⟨hnow, hrow⟩ := dieDown_spec hcool hrun
  refine ⟨dieDown w s, congrArg Host.Outcome.next (whenReleased_eq hrel _), hnow, ?_⟩
  rintro x past rfl rfl
  rw [hrow, hnow]
  exact threeRowDescent ..

theorem exec_dieThermalStepdown_of_warm {w : Fin 4} (hcool : (s.wedge w).coolSince = none) :
    exec (.dieThermalStepdown w) s = .next s := by
  show Host.Outcome.next (whenReleased (dieDown w) s) = _
  simp only [whenReleased_eq hrel, dieDown, hcool]

theorem exec_powerSample (watts : Nat) :
    ∃ t, exec (.powerSample watts) s = .next t ∧ t.pwr.samples = (watts :: s.pwr.samples).take 100 ∧
      t.pwr.energy = s.pwr.energy + watts ∧ t.pwr.peakW = max s.pwr.peakW (min watts 65535) ∧
      t.pwr.capMv = (if s.pwr.watts < t.avgWatts ∧ s.capDue = true ∧ 650 < s.pwr.capMv then max 650 (s.pwr.capMv - 25)
        else s.pwr.capMv) ∧ t = { s with pwr := t.pwr } := by
  refine ⟨powerSample watts s, congrArg Host.Outcome.next (whenReleased_eq hrel _), ?_⟩
  rw [powerSample_eq]
  split
  · next h => exact ⟨rfl, rfl, rfl, (if_pos h).symm, rfl⟩
  · next h => exact ⟨rfl, rfl, rfl, rfl, rfl⟩

theorem exec_capStepUp {a : Nat} (hlow : s.pwr.lowSince = some a) (hmv : s.pwr.capMv < 850) :
    ∃ t, exec .capStepUp s = .next t ∧ t.pwr.capMv = min 850 (s.pwr.capMv + 25) ∧ t.pwr.capSteppedAt = some t.now ∧
      (s.ctl.running = true → a + 1000000 ≤ t.now) := by
  obtain ⟨tick, htick, heq⟩ := capStepUp_eq hlow hmv
  refine ⟨capStepUp s, congrArg Host.Outcome.next (whenReleased_eq hrel _), ?_⟩
  rw [heq]
  refine ⟨rfl, rfl, fun hrun => ?_⟩
  calc a + 1000000 ≤ tick := htick
    _ ≤ max s.now tick := Nat.le_max_right ..
    _ = (s.advanceTo tick).now := (advanceTo_now _ hrun).symm

theorem exec_powerCapUnmet (hunmet : s.pwr.unmet = false) (hmv : s.pwr.capMv = 650) (havg : s.pwr.watts < s.avgWatts) :
    ∃ t, exec .powerCapUnmet s = .next t ∧ t.pwr.unmet = true ∧ t.pwr.capMv = 650 ∧ t.mem = s.mem :=
  ⟨capUnmet s, congrArg Host.Outcome.next (whenReleased_eq hrel _), capUnmet_spec hunmet hmv havg⟩

end

theorem exec_dieTempSample (w : Fin 4) (temps : List Nat) {s : State} (hpg : s.boot.pg = true) (hstage : s.boot.stage ≤ 8) {x : Nat}
    (hx : x = hottest temps) :
    ∃ t, exec (.dieTempSample w temps) s = .next t ∧ (t.wedge w).temp = x ∧ (∀ v, v ≠ w.val → t.wedge v = s.wedge v) ∧
      (105 ≤ x → t.boot.stage = 10 ∧ t.boot.fail = if s.released = true then s.boot.fail else 8) ∧
      (x < 105 → t.boot = s.boot ∧
        (t.wedge w).dieState = max (s.wedge w).dieState (if 100 ≤ x then 2 else if 95 ≤ x then 1 else 0)) := by
  subst hx
  refine ⟨dieTemp w temps s, congrArg Host.Outcome.next (if_pos (by simp [hpg, hstage])), ?_⟩
  rcases Nat.lt_or_ge (hottest temps) 105 with hlt | hge
  · have h := dieTemp_below (w := w) temps s hlt
    refine ⟨h.temp, h.others, fun hge => absurd hlt (Nat.not_lt.2 hge), fun _ => ⟨h.boot, ?_⟩⟩
    rw [h.dieState, dieRow_below_trip hlt]
  · rw [dieTemp_trip _ _ _ hge]
    obtain ⟨hboot, hpwr⟩ := goFatal_trip (s.modWedge w (fun v => { v with temp := hottest temps }))
    rw [wedge_of_pwr hpwr, hboot]
    exact ⟨by rw [wedge_modWedge], fun v hv => wedge_modWedge_ne s hv _, fun _ => ⟨rfl, rfl⟩, fun hlt => absurd hlt (Nat.not_lt.2 hge)⟩

/-- Settles O53: each command's own lemma. The descents are `coolTo_spec`, the rises `heated_sameHeat`, and what waits while the module
becomes FATAL or a stack leaves STOPPED moves no heat (`still`). -/
theorem heatAndPowerSamples : Obligations.HeatAndPowerSamples := by
  intro i w temp watts temps ps s
  refine ⟨?_, fun h => exec_stackTempSample_of_not h temp, fun hrel => ⟨?_, exec_stackThermalStepdown_of_warm hrel, ?_,
    exec_refreshStepdown_of_warm hrel, exec_refreshDue_of_slice hrel, exec_refreshDue_of_no_slice hrel, ?_,
    exec_dieThermalStepdown_of_warm hrel, exec_powerSample hrel watts, fun _ => exec_capStepUp hrel, exec_powerCapUnmet hrel⟩,
    fun hpg hstage _ hx => exec_dieTempSample w temps hpg hstage hx, fun hok hpg => ?_,
    fun h => congrArg Host.Outcome.next (stageMeasure_of_not h)⟩
  · intro hlo hhi hs row hrow
    rw [← thermalRow_eq] at hrow
    refine ⟨fun hcase => ?_, ?_⟩
    · have h := stackTemp_sampled hs temp hrow hcase
      exact ⟨_, exec_stackTempSample_of_sensing i temp hlo hhi, h.temp, h.refresh, h.others, h.cells, h.row⟩
    · rintro hlt rfl hpip
      exact exec_stackTempSample_stopped i hlo hhi hs hrow.symm hlt hpip
  · exact fun _ hcool hrun => exec_stackThermalStepdown hrel hcool hrun
  · exact fun _ hcool hrun => exec_refreshStepdown hrel hcool hrun
  · exact fun _ hcool hrun => exec_dieThermalStepdown hrel hcool hrun
  · exact ⟨_, congrArg Host.Outcome.next (stageMeasure_of_ok hok hpg), rfl, rfl, rfl⟩

end Sys2Proof.Proofs
end

section
/-! PROOFS. The command windows as the host's registers and slots show them (O6, O8, O9, O29): the rules of a change of one window,
the writes to a window's registers, and the vector that waits for its delay (R78, R82, R90, R92, R93, R98, R388). -/

open Sys2Proof Sys2Proof.Machine Sys2Proof.Laws

namespace Sys2Proof.Proofs

/-! ## A change of one window -/

theorem onlyWindow_refl (w : Nat) (s : State) : OnlyWindow w (s.win w) s s := ⟨rfl, fun _ _ => rfl, rfl⟩

theorem onlyWindow_setWin (w : Nat) (v : Window) (s : State) : OnlyWindow w v s (s.setWin w v) :=
  ⟨win_setWin s w v, fun _ ho => win_setWin_ne s ho v, rfl⟩

theorem onlyWindow_modWin {w : Nat} (hw : w < 16) {f : Window → Window} {s : State} {v : Window} (hv : f (s.win w) = v) :
    OnlyWindow w v s (s.modWin w f) :=
  ⟨(win_modWin s hw f).trans hv, fun _ ho => win_modWin_ne s ho f, modWin_frame s w f⟩

theorem onlyWindow_trans {w : Nat} {u v : Window} {s t x : State} (h : OnlyWindow w u s t) (g : OnlyWindow w v t x) :
    OnlyWindow w v s x := by
  obtain ⟨-, hothers, hframe⟩ := h
  obtain ⟨hwin, gothers, gframe⟩ := g
  refine ⟨hwin, fun o ho => (gothers o ho).trans (hothers o ho), gframe.trans ?_⟩
  rw [hframe]

/-! ## What leaves the windows alone -/

@[simp] theorem win_send (t : HostTx) (s : State) : (send t s).win = s.win := rfl

@[simp] theorem win_msix (v : Nat) (s : State) : (msix v s).win = s.win := by
  unfold msix
  split <;> rfl

@[simp] theorem win_logErr (code kind idx addr detail : Nat) (s : State) : (logErr code kind idx addr detail s).win = s.win := by
  unfold logErr
  extract_lets
  split
  · rfl
  · exact win_msix ..

/-! ## Writes to the registers of a window -/

/-- An aligned write as wide as the register that it meets reaches the register (R9, R440). -/
theorem hostRegWrite_of_width {off size : Nat} (v : Nat) {s : State} (hopen : s.barOpen = true) (hrec : s.recovery = false)
    (hsize : size = 4 ∨ size = 8) (halign : off % size = 0) (hwidth : regWidth off = some size) :
    hostRegWrite off size v s = regWrite off v s := by
  have haccess : s.access off size = .register := by simp [State.access, hrec, hsize, halign, hwidth]
  simp only [hostRegWrite, hopen, haccess, Bool.not_true, Bool.false_eq_true, if_false]

theorem winOff_block {w o : Nat} (hw : w < 16) (ho : o < 0x1000) : winOff w o / 0x100000 = 1 := by
  unfold winOff
  omega

theorem winOff_offset {w o : Nat} (hw : w < 16) (ho : o < 0x1000) : winOff w o % 0x100000 = 0x1000 * w + o := by
  unfold winOff
  omega

theorem regWidth_winOff {w o : Nat} (hw : w < 16) (ho : o < 0x1000) : regWidth (winOff w o) = widthIn 1 o := by
  have hpage : ¬ 0x10000 ≤ 0x1000 * w + o := by omega
  have hlow : ¬ 0x10000 ≤ o := by omega
  have hoff : (0x1000 * w + o) % 0x1000 = o % 0x1000 := by omega
  simp only [regWidth, winOff_block hw ho, winOff_offset hw ho, widthIn, hpage, hlow, hoff, if_false]

theorem regWrite_winOff {w o : Nat} (hw : w < 16) (ho : o < 0x1000) (v : Nat) (s : State) :
    regWrite (winOff w o) v s = winWrite w o v s := by
  have hwin : (0x1000 * w + o) / 0x1000 = w := by omega
  have hoff : (0x1000 * w + o) % 0x1000 = o := by omega
  simp only [regWrite, winOff_block hw ho, winOff_offset hw ho, hwin, hoff]

/-- A write of 4 bytes to a 4-byte register of a window. -/
theorem hostRegWrite_winOff {w o : Nat} (hw : w < 16) (ho : o < 0x1000) (hwidth : widthIn 1 o = some 4) (halign : o % 4 = 0) (v : Nat)
    {s : State} (hopen : s.barOpen = true) (hrec : s.recovery = false) : hostRegWrite (winOff w o) 4 v s = winWrite w o v s := by
  have hfour : winOff w o % 4 = 0 := by
    unfold winOff
    omega
  rw [hostRegWrite_of_width v hopen hrec (.inl rfl) hfour ((regWidth_winOff hw ho).trans hwidth), regWrite_winOff hw ho]

/-! ## WIN_CTL -/

/-- Clearing ENABLE with the home core as it stands. -/
theorem winCtlWrite_disable {w v : Nat} {s : State} (hreset : bit v 1 = false) (hen : bit v 0 = false)
    (hcore : bits v 8 3 = (s.win w).homeCore) :
    winCtlWrite w v s = s.modWin w (fun r => { r with enable := false, heldConfig := false }) := by
  simp [winCtlWrite, hreset, hen, hcore]

/-- HOME_CORE of a disabled window as a write of WIN_CTL sets it. -/
def setHomeCore (w core : Nat) (s : State) : State :=
  if core = (s.win w).homeCore then s else s.modWin w (fun r => { r with homeCore := core })

theorem setHomeCore_onlyWindow {w : Nat} (hw : w < 16) (core : Nat) (s : State) :
    OnlyWindow w { s.win w with homeCore := core } s (setHomeCore w core s) := by
  unfold setHomeCore
  split
  · next hcore => exact hcore ▸ onlyWindow_refl w s
  · exact onlyWindow_modWin hw rfl

/-- Setting ENABLE of a disabled window: its home core first, then the window as its rings are placed. -/
theorem winCtlWrite_enable {w v : Nat} {s : State} (hreset : bit v 1 = false) (hen : bit v 0 = true) (hoff : (s.win w).enable = false)
    (hw : w < 16) (hrec : s.recovery = false) :
    OnlyWindow w (if (s.win w).configOk
      then { s.win w with homeCore := bits v 8 3, enable := true, heldConfig := false }
      else { s.win w with homeCore := bits v 8 3, enable := true, heldConfig := true, errConfig := true }) s (winCtlWrite w v s) := by
  have hcore := setHomeCore_onlyWindow hw (bits v 8 3) s
  generalize hset : setHomeCore w (bits v 8 3) s = t at hcore
  have ⟨hwin, _, hframe⟩ := hcore
  have hrec' : t.recovery = false := by rw [hframe]; exact hrec
  have hconf : (t.win w).configOk = (s.win w).configOk := by rw [hwin]; rfl
  have hctl : winCtlWrite w v s = if (s.win w).configOk
      then t.modWin w (fun r => { r with enable := true, heldConfig := false })
      else t.modWin w (fun r => { r with enable := true, heldConfig := true, errConfig := true }) := by
    unfold setHomeCore at hset
    rw [← hconf]
    simp only [winCtlWrite, hreset, hen, hoff, hset, hwin, hrec', Bool.false_and, Bool.false_eq_true, Bool.not_true, if_false]
  rw [hctl]
  refine onlyWindow_trans hcore ?_
  split
  · exact onlyWindow_modWin hw (by rw [hwin])
  · exact onlyWindow_modWin hw (by rw [hwin])

/-- RESET of a disabled window with nothing in flight or reserved. -/
theorem winCtlWrite_reset {w v : Nat} {s : State} (hreset : bit v 1 = true) (hoff : (s.win w).enable = false)
    (hidle : (s.win w).inflight = 0) (hout : (s.win w).outReserved = 0) :
    winCtlWrite w v s = s.setWin w (Window.cleared w (s.win w).orphans) := by
  simp [winCtlWrite, hreset, hoff, hidle, hout]

/-- RESET of an enabled window is logged; ENABLE is judged as in a write without RESET. -/
theorem winCtlWrite_reset_enabled {w v : Nat} {s : State} (hreset : bit v 1 = true) (hen : bit v 0 = false)
    (hcore : bits v 8 3 = (s.win w).homeCore) (hon : (s.win w).enable = true) :
    winCtlWrite w v s =
      (logInvalid (winOff w 0) v s).modWin w (fun r => { r with enable := false, heldConfig := false }) := by
  simp [winCtlWrite, hreset, hen, hcore, hon]

/-- Settles O8: each write is a case of WIN_CTL. -/
theorem windowControlWrites : Obligations.WindowControlWrites := by
  intro w v s hopen hrec
  have hwrite : hostRegWrite (winOff w 0) 4 v.toNat s = winCtlWrite w v.toNat s :=
    hostRegWrite_winOff w.isLt (by decide) rfl rfl _ hopen hrec
  refine ⟨fun hen hreset hcore => ⟨_, congrArg Host.Outcome.next hwrite, ?_⟩,
    fun hen hreset hoff => ⟨_, congrArg Host.Outcome.next hwrite, winCtlWrite_enable hreset hen hoff w.isLt hrec⟩,
    fun hreset hoff hidle hout => ⟨_, congrArg Host.Outcome.next hwrite, ?_⟩,
    fun hen hreset hcore hon => ⟨_, congrArg Host.Outcome.next hwrite, ?_⟩⟩
  · rw [winCtlWrite_disable hreset hen hcore]
    exact onlyWindow_modWin w.isLt rfl
  · rw [winCtlWrite_reset hreset hoff hidle hout]
    exact onlyWindow_setWin w _ s
  · rw [winCtlWrite_reset_enabled hreset hen hcore hon]
    have hsame : (logInvalid (winOff w 0) v.toNat s).win = s.win := win_logErr ..
    exact onlyWindow_modWin w.isLt (by rw [hsame])

/-! ## Head counts -/

/-- Before its counts wrap, a ring takes a head up to its tail (R90, R92, R388). -/
theorem headCount_of_lt {tail : Nat} (h : tail < 2 ^ 32) (v : Nat) : headCount tail v = if v ≤ tail then some v else none := if_pos h

theorem replyHeadWrite_onlyWindow {w : Nat} (hw : w < 16) (v : Nat) {s : State} (h : (s.win w).replyTail < 2 ^ 32) :
    OnlyWindow w (if v ≤ (s.win w).replyTail then { s.win w with replyHead := v } else { s.win w with errHead := true }) s
      (replyHeadWrite w v s) := by
  refine onlyWindow_modWin hw ?_
  rw [headCount_of_lt h]
  by_cases hv : v ≤ (s.win w).replyTail
  · simp only [hv, if_true]
  · simp only [hv, if_false]

theorem outHeadWrite_onlyWindow {w : Nat} (hw : w < 16) (v : Nat) {s : State} (h : (s.win w).outTail < 2 ^ 32) :
    OnlyWindow w (if v ≤ (s.win w).outTail then { s.win w with outHead := v } else { s.win w with errHead := true }) s
      (outHeadWrite w v s) := by
  refine onlyWindow_modWin hw ?_
  rw [headCount_of_lt h]
  by_cases hv : v ≤ (s.win w).outTail
  · simp only [hv, if_true]
  · simp only [hv, if_false]

/-- Settles O9: by what a write of each head does. -/
theorem ringHeadsFollowTheHost : Obligations.RingHeadsFollowTheHost := by
  intro w v s hopen hrec
  have hreply : hostRegWrite (winOff w 0x1C) 4 v.toNat s = replyHeadWrite w v.toNat s :=
    hostRegWrite_winOff w.isLt (by decide) rfl rfl _ hopen hrec
  have hout : hostRegWrite (winOff w 0x34) 4 v.toNat s = outHeadWrite w v.toNat s :=
    hostRegWrite_winOff w.isLt (by decide) rfl rfl _ hopen hrec
  have hlog : hostRegWrite 0x18C 4 v.toNat s = errHeadWrite v.toNat s :=
    hostRegWrite_of_width _ hopen hrec (.inl rfl) rfl rfl
  refine ⟨fun h => ⟨_, congrArg Host.Outcome.next hreply, replyHeadWrite_onlyWindow w.isLt _ h⟩,
    fun h => ⟨_, congrArg Host.Outcome.next hout, outHeadWrite_onlyWindow w.isLt _ h⟩,
    fun h hv => (congrArg Host.Outcome.next hlog).trans ?_, fun h hv => (congrArg Host.Outcome.next hlog).trans ?_⟩
  · rw [errHeadWrite, headCount_of_lt h, if_pos hv]
    rfl
  · rw [errHeadWrite, headCount_of_lt h, if_neg (Nat.not_le.2 hv)]

/-! ## The record in the next slot -/

/-- Settles O6: the candidate is cut out of BAR2 at its slot, and taking a record asks for its landed flag. -/
theorem recordSlot : Obligations.RecordSlot := by
  rintro w n s rfl
  refine ⟨rfl, rfl, fun htake => ?_⟩
  simp only [State.canTake, Bool.and_eq_true] at htake
  obtain ⟨⟨⟨⟨-, hlanded⟩, -⟩, -⟩, -⟩ := htake
  exact hlanded

/-! ## The delayed vector -/

/-- The end of the delay of a window whose rings are both disabled sends nothing and changes nothing (R93). -/
theorem irqDelay_of_disabled {w : Nat} {s : State} (hreply : (s.win w).replyEn = false) (hout : (s.win w).outEn = false) :
    irqDelay w s = s := by
  unfold irqDelay
  extract_lets v
  split
  · rfl
  · simp [v, hreply, hout]

/-- A module after release whose window 0 had an entry in an enabled ring at tick 0, and whose rings have both been disabled since;
DELAY_US is 1, and its 100 ticks have passed. -/
def disabledRings : State :=
  { State.reset with
    boot := { Boot.reset with stage := 7 }
    ctl := { Control.reset with ticks := 100 }
    wins := [(0, { Window.reset 0 with irqDelay := 1, irqPending := 1, irqFirst := some 0 })] }

/-- Refutes O29: nothing in its hypotheses has a ring of the window enabled, and with both disabled the command leaves the count of
DELAY_US as it stood. -/
theorem not_delayedWindowVector : ¬ Obligations.DelayedWindowVector := by
  intro h
  obtain ⟨u, ⟨hwin, -, -⟩, hexec⟩ := h 0 0 disabledRings rfl rfl (by decide) (by decide)
  have hstays : exec (.irqDelayExpire 0) disabledRings = .next disabledRings :=
    congrArg Host.Outcome.next (irqDelay_of_disabled (w := 0) rfl rfl)
  have hmuted : disabledRings.hostWritable = false := rfl
  rw [hstays, hmuted, Host.Outcome.next.injEq] at hexec
  have hfirst : (u.win 0).irqFirst = none := congrArg Window.irqFirst hwin
  rw [← show disabledRings = u from hexec] at hfirst
  exact absurd hfirst (by decide)

end Sys2Proof.Proofs
end

section
/-! PROOFS. Intake of records (O22, O23, O24): the round robin, the checks of orders 4 to 9, and the taking of a record (R79, R80, R83,
R85, R86). -/

open Sys2Proof Sys2Proof.Machine Sys2Proof.Laws

namespace Sys2Proof.Proofs

/-! ## The round robin -/

/-- How many windows stand before window w in the round (R83). -/
def roundDistance (s : State) (w : Nat) : Nat := (w + 15 - s.lastWin) % 16

/-- The window that stands behind i others in the round. -/
def roundWindow (s : State) (i : Nat) : Nat := (s.lastWin + 1 + i) % 16

theorem roundWindow_lt (s : State) (i : Nat) : roundWindow s i < 16 := Nat.mod_lt _ (by decide)

theorem roundDistance_lt (s : State) (w : Nat) : roundDistance s w < 16 := Nat.mod_lt _ (by decide)

theorem roundWindow_roundDistance {s : State} (hlast : s.lastWin < 16) {w : Nat} (hw : w < 16) :
    roundWindow s (roundDistance s w) = w := by
  unfold roundWindow roundDistance
  omega

theorem roundDistance_roundWindow {s : State} (hlast : s.lastWin < 16) {i : Nat} (hi : i < 16) :
    roundDistance s (roundWindow s i) = i := by
  unfold roundWindow roundDistance
  omega

/-- A window comes next when none that stands before it in the round could take a record. -/
theorem isNext_iff {s : State} {w : Nat} : s.isNext w = true ↔ ∀ i, i < roundDistance s w → s.couldTake (roundWindow s i) = false := by
  simp only [State.isNext, List.all_eq_true, List.mem_range, Bool.not_eq_true', roundDistance, roundWindow]

/-- Of two windows that could take a record, the one that comes next does not stand behind the other. -/
theorem roundDistance_le_of_isNext {s : State} (hlast : s.lastWin < 16) {w o : Nat} (hnext : s.isNext w = true) (ho : o < 16)
    (hcould : s.couldTake o = true) : roundDistance s w ≤ roundDistance s o := by
  refine Nat.le_of_not_lt fun hlt => ?_
  have hnone := isNext_iff.1 hnext _ hlt
  rw [roundWindow_roundDistance hlast ho, hcould] at hnone
  exact Bool.noConfusion hnone

/-- Where some window could take a record, one does at the least distance in the round. -/
theorem exists_least_distance {s : State} (hlast : s.lastWin < 16) {w : Nat} (hw : w < 16) (hcould : s.couldTake w = true) :
    ∃ i, i < 16 ∧ s.couldTake (roundWindow s i) = true ∧ ∀ j, j < i → s.couldTake (roundWindow s j) = false := by
  have hsome : ((List.range 16).find? (fun i => s.couldTake (roundWindow s i))).isSome = true :=
    List.find?_isSome.2 ⟨roundDistance s w, List.mem_range.2 (roundDistance_lt s w), by
      rw [roundWindow_roundDistance hlast hw, hcould]⟩
  obtain ⟨i, hi⟩ := Option.isSome_iff_exists.1 hsome
  obtain ⟨hspec, hmem, hmin⟩ := List.find?_range_eq_some.1 hi
  exact ⟨i, List.mem_range.1 hmem, hspec, fun j hj => by simpa only [Bool.not_eq_true'] using hmin j hj⟩

/-- Settles O23: the window of the least distance among those that could take a record comes next, and distances tell windows apart. -/
theorem roundRobinServesSomeWindow : Obligations.RoundRobinServesSomeWindow := by
  rintro s hlast ⟨w, hw, hcould⟩
  obtain ⟨i, hi, hspec, hmin⟩ := exists_least_distance hlast hw hcould
  have hdistance : roundDistance s (roundWindow s i) = i := roundDistance_roundWindow hlast hi
  have hnext : s.isNext (roundWindow s i) = true := by
    rw [isNext_iff, hdistance]
    exact hmin
  refine ⟨_, ⟨roundWindow_lt s i, hspec, hnext⟩, fun o ho hocould honext => ?_⟩
  have hsame : roundDistance s o = roundDistance s (roundWindow s i) :=
    Nat.le_antisymm (roundDistance_le_of_isNext hlast honext (roundWindow_lt s i) hspec)
      (roundDistance_le_of_isNext hlast hnext ho hocould)
  rw [← roundWindow_roundDistance hlast ho, hsame, hdistance]

/-! ## Checks 4 to 9 -/

theorem recordFault_of_format {w : Nat} {r : Taken} {s : State} (hformat : r.at 2 1 ≠ 1) : s.recordFault w r = some (badField 2) := by
  simp [State.recordFault, hformat]

theorem foldl_min_zero (l : List Nat) : l.foldl min 0 = 0 := by
  induction l with
  | nil => rfl
  | cons a l ih => rw [List.foldl_cons, Nat.zero_min, ih]

section
variable {w : Nat} {r : Taken} {s : State} (hformat : r.at 2 1 = 1)
include hformat

theorem recordFault_of_unknown (hop : opcodes.contains r.opcode = false) : s.recordFault w r = some (badOpcode r.opcode) := by
  simp only [State.recordFault, hformat, hop, ne_eq, not_true_eq_false, if_false, Bool.not_false, if_true]

theorem recordFault_of_pcieOnly (hop : opcodes.contains r.opcode = true) (hproto : s.host.proto < 2) (hfamily : 7 < r.opcode) :
    s.recordFault w r = some (badState 1) := by
  simp only [State.recordFault, hformat, hop, hproto, hfamily, ne_eq, not_true_eq_false, if_false, Bool.not_true, Bool.false_eq_true,
    decide_true, Bool.and_true, if_true]

/-- A record that passes orders 4 to 6 and fails the authority check at its own opcode, whose offset is 0, answers with that offset. -/
theorem recordFault_of_unprivileged (hop : opcodes.contains r.opcode = true) (hproto : 2 ≤ s.host.proto)
    (hpriv : s.winPriv w = false) (hprivileged : privilegedOps.contains r.opcode = true) :
    s.recordFault w r = some (notAuthorised 0) := by
  have hfaults : ∃ l, authorityFaults s w r r.list = 0 :: l := by
    unfold authorityFaults
    simp only [hpriv, hprivileged, Bool.not_true, Bool.or_false, Bool.false_eq_true, if_false, List.append_assoc]
    exact ⟨_, rfl⟩
  obtain ⟨l, hl⟩ := hfaults
  have hlowest : lowest (0 :: l) = some 0 := congrArg some (foldl_min_zero l)
  have hmode : ¬ s.host.proto < 2 := Nat.not_lt.2 hproto
  simp only [State.recordFault, hformat, hop, hmode, hl, hlowest, ne_eq, not_true_eq_false, if_false, Bool.not_true, Bool.false_eq_true,
    decide_false, Bool.false_and]

end

/-- The opcodes that O24 names are the privileged ones (R96). -/
theorem privileged_of_mem {op : Nat} (h : op ∈ [3, 4, 6, 7, 0x10, 0x11, 0x12, 0x13, 0x14, 0x20, 0x21, 0x22, 0x25, 0x26, 0x27, 0x38, 0x40,
    0x50, 0x51, 0x60, 0x61, 0x62, 0x63, 0x70, 0x72]) : privilegedOps.contains op = true := List.contains_iff_mem.2 h

theorem opcodes_of_privileged {op : Nat} (h : privilegedOps.contains op = true) : opcodes.contains op = true := by
  have hall : ∀ o ∈ privilegedOps, opcodes.contains o = true := by decide
  exact hall op (List.contains_iff_mem.1 h)

/-- Settles O24: one lemma per check, each over the records that pass those before it. -/
theorem recordCheckOrder : Obligations.RecordCheckOrder := by
  intro w r s
  refine ⟨recordFault_of_format, recordFault_of_unknown, recordFault_of_pcieOnly, fun hformat hop hproto hpriv hrec => ?_⟩
  have hprivileged := privileged_of_mem hop
  have hwin : s.winPriv w = false := by simp [State.winPriv, hpriv, hrec]
  exact recordFault_of_unprivileged hformat (opcodes_of_privileged hprivileged) hproto hwin hprivileged

/-! ## Taking a record -/

theorem takeSlot_onlyWindow {w : Nat} (hw : w < 16) (t : Taken) (void : Bool) (s : State) :
    (takeSlot w t void s).win w = { s.win w with
        expect := ((s.win w).expect + 1) % 2 ^ 32, landed := serase (t.n % 4096) (s.win w).landed,
        taken := (s.win w).taken ++ [t], outList := [], errVoid := (s.win w).errVoid || void,
        fenceAfter := if !void && bit (t.at 1 1) 1 then some t.n else (s.win w).fenceAfter } ∧
      ∀ o, o ≠ w → (takeSlot w t void s).win o = s.win o :=
  ⟨win_modWin s hw _, fun _ ho => win_modWin_ne s ho _⟩

/-- A void record is answered as it is taken. -/
theorem takeRecord_of_void {w : Nat} (src : Src) {s : State} (hcan : s.canTake w = true) (hnext : s.isNext w = true) {d : Nat}
    (hvoid : voidDetail (s.candidate w) = some d) :
    takeRecord w src s = complete w (s.win w).expect { badField d with flags := flagVoid } (takeSlot w (s.candidate w) true s) := by
  simp only [takeRecord, hcan, hnext, hvoid]
  rfl

theorem listApart_of_opcode {s : State} {t : Taken} (h : t.opcode ≠ 0x32) : s.listApart t = false := by simp [State.listApart, h]

/-- Nothing but a STEP has a list to read. -/
theorem stepList_of_opcode {s : State} {t : Taken} (h : t.opcode ≠ 0x32) (src : Src) : s.stepList t src = (.bytes [], s) := by
  simp [State.stepList, listApart_of_opcode h, h]

/-- A record other than STEP that meets no check is taken and waits for its turn. -/
theorem takeRecord_of_good {w : Nat} (src : Src) {s : State} (hcan : s.canTake w = true) (hnext : s.isNext w = true)
    (hvoid : voidDetail (s.candidate w) = none) (hop : (s.candidate w).opcode ≠ 0x32) {r : Taken}
    (hr : r = { s.candidate w with formed := s.formedNaming (s.candidate w) }) (hfault : s.recordFault w r = none)
    (hstate : s.stateFault r = none) : takeRecord w src s = forwardRecord r (takeSlot w r false s) := by
  have htaken : { s.candidate w with list := wordsOf 2 [], formed := s.formedNaming (s.candidate w) } = r := hr.symm
  have hstep : (r.opcode == 0x32) = false := by
    rw [beq_eq_false_iff_ne, hr]
    exact hop
  simp only [takeRecord, hcan, hnext, hvoid, stepList_of_opcode hop, htaken, hstep, hfault, hstate, Option.orElse_none, Bool.and_true,
    Bool.not_true, Bool.false_and, Bool.not_false, Bool.false_eq_true, if_false, if_true]

/-- Only a stem forwards records (R349). -/
theorem forwardRecord_of_not_stem {t : Taken} {s : State} (h : s.vine.state ≠ 3) : forwardRecord t s = s := by
  simp [forwardRecord, forwardWith, h]

/-- Settles O22: by the slot's own rule, and by what taking a void and a good record does. -/
theorem takingARecord : Obligations.TakingARecord := by
  intro w src s hcan hnext
  refine ⟨fun t v => takeSlot_onlyWindow w.isLt t v s,
    fun d hvoid => congrArg Host.Outcome.next (takeRecord_of_void src hcan hnext hvoid),
    fun hvoid hop r hr hfault hstate => ?_⟩
  have htake : exec (.recordTake w src) s = .next (forwardRecord r (takeSlot w r false s)) :=
    congrArg Host.Outcome.next (takeRecord_of_good src hcan hnext hvoid hop hr hfault hstate)
  refine ⟨htake, fun hstem => htake.trans (congrArg Host.Outcome.next (forwardRecord_of_not_stem ?_))⟩
  show (s.modWin w _).vine.state ≠ 3
  rwa [modWin_vine]

end Sys2Proof.Proofs
end

section
/-! PROOFS. Replies (O19, O20): what the completion of a record sends and changes, and the layout of a reply's 64 bytes (R74, R81, R88 to
R90, R93). -/

open Sys2Proof Sys2Proof.Machine Sys2Proof.Laws

namespace Sys2Proof.Proofs

/-! ## What a completion leaves alone -/

/-- The state but for the windows and what has been sent to the host. -/
def apart (s : State) : State := { s with host := { s.host with out := [] }, wins := [] }

theorem eq_of_apart {s t : State} (h : apart t = apart s) : t = { s with host := { s.host with out := t.host.out }, wins := t.wins } :=
  calc t = { apart t with host := { (apart t).host with out := t.host.out }, wins := t.wins } := rfl
    _ = { apart s with host := { (apart s).host with out := t.host.out }, wins := t.wins } := by rw [h]

theorem hostWritable_of_apart {s t : State} (h : apart t = apart s) : t.hostWritable = s.hostWritable :=
  (congrArg State.hostWritable h : (apart t).hostWritable = (apart s).hostWritable)

@[simp] theorem apart_setWin (s : State) (w : Nat) (v : Window) : apart (s.setWin w v) = apart s := rfl
@[simp] theorem apart_send (t : HostTx) (s : State) : apart (send t s) = apart s := rfl

@[simp] theorem apart_modWin (s : State) (w : Nat) (f : Window → Window) : apart (s.modWin w f) = apart s := by
  unfold State.modWin
  split <;> rfl

@[simp] theorem apart_msix (v : Nat) (s : State) : apart (msix v s) = apart s := by
  unfold msix
  split <;> rfl

@[simp] theorem apart_modTaken (s : State) (w : Nat) (f : List Taken → List Taken) : apart (s.modTaken w f) = apart s := by
  unfold State.modTaken
  split <;> exact apart_modWin ..

@[simp] theorem apart_releaseOutput (rs : List (Nat × Nat)) (s : State) : apart (releaseOutput rs s) = apart s :=
  foldl_same (fun _ _ => apart_modWin ..) rs s

@[simp] theorem apart_dropFenceAfter (w n : Nat) (s : State) : apart (dropFenceAfter w n s) = apart s := apart_modWin ..

@[simp] theorem apart_ringEntry (w : Nat) (counts : Bool) (s : State) : apart (ringEntry w counts s) = apart s := by
  unfold ringEntry
  extract_lets v
  split
  · rfl
  · split
    · exact apart_msix ..
    · rfl

theorem hostWrite_of_writable {s : State} (h : s.hostWritable = true) (addr : Nat) (data : List Byte) :
    hostWrite addr data s = send (.write addr data) s := if_pos h

/-! ## The rings of a window -/

/-- The registers of a window's reply ring, and its records in flight. -/
structure ReplySide where
  base : Nat
  log2 : Nat
  tail : Nat
  taken : List Taken

/-- The reply side of a window. -/
def replySide (v : Window) : ReplySide := { base := v.replyBase, log2 := v.replyLog2, tail := v.replyTail, taken := v.taken }

/-- A change of a window that leaves its reply side alone leaves it alone in every window. -/
theorem replySide_modWin {f : Window → Window} (hf : ∀ v, replySide (f v) = replySide v) (s : State) (w o : Nat) :
    replySide ((s.modWin w f).win o) = replySide (s.win o) := by
  by_cases hw : w < 16
  · by_cases ho : o = w
    · rw [ho, win_modWin s hw, hf]
    · rw [win_modWin_ne s ho]
  · rw [State.modWin, if_neg hw]

@[simp] theorem replySide_releaseOutput (rs : List (Nat × Nat)) (s : State) (w : Nat) :
    replySide ((releaseOutput rs s).win w) = replySide (s.win w) :=
  foldl_same (g := fun s => replySide (s.win w)) (fun s r => by exact replySide_modWin (fun _ => by rfl) s r.1 w) rs s

@[simp] theorem replySide_dropFenceAfter (w n : Nat) (s : State) (o : Nat) :
    replySide ((dropFenceAfter w n s).win o) = replySide (s.win o) :=
  replySide_modWin (fun v => by split <;> rfl) s w o

/-- An entry of a ring moves only the window's counts of unsignalled entries. -/
@[simp] theorem replySide_ringEntry (w : Nat) (counts : Bool) (s : State) (o : Nat) :
    replySide ((ringEntry w counts s).win o) = replySide (s.win o) := by
  have hset : ∀ v, replySide v = replySide (s.win w) → replySide ((s.setWin w v).win o) = replySide (s.win o) := by
    intro v hv
    by_cases ho : o = w
    · rw [ho, win_setWin, hv]
    · rw [win_setWin_ne s ho]
  unfold ringEntry
  extract_lets v
  split
  · rfl
  · split
    · rw [win_msix]
      exact hset _ rfl
    · exact hset _ rfl

/-- After what has been sent, an entry of a ring sends nothing more, or the window's vector (R93). -/
theorem ringEntry_out (w : Nat) (counts : Bool) {s : State} {l : List HostTx} {x : HostTx} (h : s.host.out = l ++ [x]) :
    (ringEntry w counts s).host.out = l ++ [x] ∨ (ringEntry w counts s).host.out = l ++ [x, .msix w] := by
  have hvector : ∀ v, (send (.msix w) (s.setWin w v)).host.out = l ++ [x, .msix w] := by
    intro v
    rw [send_out, setWin_host, h, List.append_assoc, List.singleton_append]
  unfold ringEntry msix
  extract_lets v
  split
  · exact .inl h
  · split
    · split
      · exact .inr (hvector _)
      · exact .inl h
    · exact .inl h

/-! ## A reply -/

/-- The write of reply `tail` of a window's ring (R88, R90). -/
def replyWrite (v : ReplySide) (t : Taken) (ordinal stamp : Nat) (a : Answer) : HostTx :=
  .write (v.base + 64 * (v.tail % 2 ^ v.log2)) (replyBytes t (decide (a.flags / 8 % 2 = 1)) v.log2 v.tail ordinal stamp a)

/-- While host writes leave the module a reply is sent, its ring moves on, and the entry counts toward the window's vector. -/
theorem writeReply_eq (w : Nat) {s : State} (h : s.hostWritable = true) (t : Taken) (ordinal stamp : Nat) (a : Answer) :
    writeReply w t ordinal stamp a s = ringEntry w (s.win w).replyEn
      ((send (replyWrite (replySide (s.win w)) t ordinal stamp a) s).modWin w (fun v => { v with replyTail := v.replyTail + 1 })) := by
  rw [writeReply, hostWrite_of_writable h]
  rfl

theorem apart_writeReply (w : Nat) {s : State} (h : s.hostWritable = true) (t : Taken) (ordinal stamp : Nat) (a : Answer) :
    apart (writeReply w t ordinal stamp a s) = apart s := by
  rw [writeReply_eq w h, apart_ringEntry, apart_modWin, apart_send]

theorem replySide_writeReply {w : Nat} (hw : w < 16) {s : State} (h : s.hostWritable = true) (t : Taken) (ordinal stamp : Nat)
    (a : Answer) : replySide ((writeReply w t ordinal stamp a s).win w) =
      { replySide (s.win w) with tail := (s.win w).replyTail + 1 } := by
  rw [writeReply_eq w h, replySide_ringEntry, win_modWin _ hw]
  rfl

theorem writeReply_out (w : Nat) {s : State} (h : s.hostWritable = true) (t : Taken) (ordinal stamp : Nat) (a : Answer) :
    (writeReply w t ordinal stamp a s).host.out = s.host.out ++ [replyWrite (replySide (s.win w)) t ordinal stamp a] ∨
    (writeReply w t ordinal stamp a s).host.out = s.host.out ++ [replyWrite (replySide (s.win w)) t ordinal stamp a, .msix w] := by
  rw [writeReply_eq w h]
  exact ringEntry_out w _ (congrArg HostPort.out (modWin_host ..))

/-! ## Completion -/

/-- A record of a window has the count that it is found by. -/
theorem count_of_record {s : State} {w n : Nat} {t : Taken} (h : s.record w n = some t) : t.n = n := by
  unfold State.record at h
  split at h
  · simpa using List.find?_some h
  · split at h
    · exact absurd h (by simp)
    · simpa using List.find?_some h

/-- A record leaves its window: its reservations and the fence that it held are given back (R81, R94). -/
def retire (w n : Nat) (t : Taken) (s : State) : State :=
  dropFenceAfter w n (releaseOutput t.reserved (s.modTaken w (dropFirst (fun u => u == t))))

theorem complete_eq {w n : Nat} (a : Answer) {s : State} {t : Taken} (hrec : s.record w n = some t) (horphan : t.orphan = false) :
    complete w n a s = writeReply w t t.ordinal t.stamp a (retire w n t s) := by
  simp [complete, completeAt, retire, hrec, horphan]

theorem apart_retire (w n : Nat) (t : Taken) (s : State) : apart (retire w n t s) = apart s := by simp [retire]

@[simp] theorem modTaken_host (s : State) (w : Nat) (f : List Taken → List Taken) : (s.modTaken w f).host = s.host := by
  unfold State.modTaken
  split <;> exact modWin_host ..

@[simp] theorem releaseOutput_host (rs : List (Nat × Nat)) (s : State) : (releaseOutput rs s).host = s.host :=
  foldl_same (fun _ _ => modWin_host ..) rs s

@[simp] theorem dropFenceAfter_host (w n : Nat) (s : State) : (dropFenceAfter w n s).host = s.host := modWin_host ..

theorem retire_host (w n : Nat) (t : Taken) (s : State) : (retire w n t s).host = s.host := by simp [retire]

theorem replySide_retire {w : Nat} (hw : w < 16) (n : Nat) (t : Taken) (s : State) : replySide ((retire w n t s).win w) =
    { replySide (s.win w) with taken := dropFirst (fun u => u == t) (s.win w).taken } := by
  have hlow : w < 32 := by omega
  simp only [retire, replySide_dropFenceAfter, replySide_releaseOutput, State.modTaken, hlow, if_true, win_modWin s hw]
  rfl

/-- Settles O19: the record leaves its window (`retire`), and its reply goes to the window's ring as it stood (`writeReply`). -/
theorem completionWritesOneReply : Obligations.CompletionWritesOneReply := by
  intro w n r a s hw hwritable hrec horphan
  have happart : apart (retire w n r s) = apart s := apart_retire ..
  have hwritable' : (retire w n r s).hostWritable = true := (hostWritable_of_apart happart).trans hwritable
  have hout := writeReply_out w hwritable' r r.ordinal r.stamp a
  have hafter := replySide_writeReply hw hwritable' r r.ordinal r.stamp a
  have hframe := (apart_writeReply w hwritable' r r.ordinal r.stamp a).trans happart
  have hside := replySide_retire hw n r s
  rw [hside, retire_host] at hout
  rw [hside] at hafter
  rw [complete_eq a hrec horphan]
  exact ⟨_, rfl, hout, (congrArg ReplySide.tail hafter).trans (congrArg (· + 1) (congrArg ReplySide.tail hside)),
    congrArg ReplySide.taken hafter, eq_of_apart hframe⟩

/-! ## Fields of byte lists -/

@[simp] theorem length_natLe (n v : Nat) : (natLe n v).length = n := by
  induction n generalizing v with
  | zero => rfl
  | succ n ih => rw [natLe, List.length_cons, ih]

/-- Little-endian bytes spell the number that they were made of, as far as they reach (R8). -/
theorem leNat_natLe (n v : Nat) : leNat (natLe n v) = v % 256 ^ n := by
  induction n generalizing v with
  | zero => exact (Nat.mod_one v).symm
  | succ n ih =>
    have hbyte : (BitVec.ofNat 8 v).toNat = v % 256 := BitVec.toNat_ofNat v 8
    rw [natLe, leNat, ih, hbyte, Nat.pow_succ', Nat.mod_mul]

@[simp] theorem length_padTo (n : Nat) (bs : List Byte) : (padTo n bs).length = n := by
  simp only [padTo, List.length_take, List.length_append, List.length_replicate]
  omega

/-- A field behind a first part is a field of what follows that part. -/
theorem fld_append_of_le {a : List Byte} {off : Nat} (h : a.length ≤ off) (b : List Byte) (size : Nat) :
    fld (a ++ b) off size = fld b (off - a.length) size := by
  rw [fld, fld, List.drop_append, List.drop_of_length_le h, List.nil_append]

/-- The field that a first part fills. -/
theorem fld_append_self (a b : List Byte) {size : Nat} (h : a.length = size) : fld (a ++ b) 0 size = leNat a := by
  rw [fld, List.drop_zero, ← h, List.take_left]

theorem fld_natLe_append (n v : Nat) (b : List Byte) : fld (natLe n v ++ b) 0 n = v % 256 ^ n := by
  rw [fld_append_self _ _ (length_natLe n v), leNat_natLe]

theorem fld_cons_zero (x : Byte) (b : List Byte) : fld (x :: b) 0 1 = x.toNat := rfl

theorem fld_cons_succ (x : Byte) (b : List Byte) (off size : Nat) : fld (x :: b) (off + 1) size = fld b off size := rfl

/-! ## The layout of a reply -/

/-- OPCODE is a record's first byte. -/
theorem toNat_headD (bs : List Byte) : (bs.headD 0).toNat = fld bs 0 1 := by
  cases bs with
  | nil => rfl
  | cons b bs => exact (fld_cons_zero b bs).symm

/-- The phase of a ring's entry n, as R89 writes it. -/
theorem ringPhase_eq (n lg : Nat) : ringPhase n lg = 1 - (n >>> lg) % 2 := by rw [ringPhase, Nat.shiftRight_eq_div_pow]

theorem toNat_phase (n lg : Nat) : (BitVec.ofNat 8 (ringPhase n lg)).toNat = 1 - (n >>> lg) % 2 := by
  rw [BitVec.toNat_ofNat, ringPhase_eq]
  omega

theorem bytesAt_length {bs : List Byte} {off n : Nat} (h : off + n ≤ bs.length) : (bytesAt bs off n).length = n := by
  simp only [bytesAt, List.length_take, List.length_drop]
  omega

/-- The parts of a reply in their order. -/
theorem replyBytes_eq (r : Taken) (void : Bool) (lg n ordinal stamp : Nat) (a : Answer) : replyBytes r void lg n ordinal stamp a =
    bytesAt r.bytes 8 8 ++ (natLe 4 r.n ++ (if void then 0xFF#8 else r.bytes.headD 0) :: BitVec.ofNat 8 (ringPhase n lg) ::
      (natLe 2 a.status ++ (natLe 4 a.flags ++ (natLe 4 a.detail ++ (natLe 8 ordinal ++ (natLe 8 stamp ++ (padTo 20 a.result ++
        [0, 0, 0, BitVec.ofNat 8 (ringPhase n lg)]))))))) := by
  simp only [replyBytes, List.append_assoc, List.cons_append, List.nil_append]

/-- Settles O20: a field is what stands behind the parts before it, whose lengths add up to its offset. -/
theorem replyLayout : Obligations.ReplyLayout := by
  intro r void lg n ordinal stamp a hlen
  have htag : (bytesAt r.bytes 8 8).length = 8 := bytesAt_length (by omega)
  have hop : (if void then 0xFF#8 else r.bytes.headD 0).toNat = if void then 0xFF else r.opcode := by
    cases void
    · exact toNat_headD r.bytes
    · rfl
  rw [replyBytes_eq]
  refine ⟨?length, ?seqCount, ?opcode, ?phaseA, ?phaseB, ?status, ?flags, ?detail, ?ordinalField, ?stampField⟩
  case length => simp [htag]
  all_goals simp only [fld_append_of_le, fld_cons_succ, htag, length_natLe, length_padTo, Nat.reduceLeDiff, Nat.reduceSub]
  case opcode => rw [fld_cons_zero, hop]
  case phaseA | phaseB => rw [fld_cons_zero, toNat_phase]
  case seqCount | status | flags | detail | ordinalField | stampField => exact fld_natLe_append ..

end Sys2Proof.Proofs
end

section
/-! PROOFS. The records of the control family that O25 and O26 speak of: NOP, FENCE, FLUSH_ACK, QUERY and ATTEST, by what a record's
command does with the record that it is about (R66, R72, R73, R94, R95, R402, R403). -/

open Sys2Proof Sys2Proof.Machine Sys2Proof.Laws

namespace Sys2Proof.Proofs

/-! ## The record that a command is about -/

/-- A command is about its window's own record where no record of its count that outlived a reset meets its condition. -/
theorem called_of_record {s : State} {w n : Nat} {p : Taken → Bool} {t : Taken} (hrec : s.record w n = some t) (hp : p t = true)
    (horphans : ∀ o ∈ (s.win w).orphans, fld o.bytes 4 4 = n → p o = false) : s.called w n p = some (w, t) := by
  have hnone : (s.win w).orphans.find? (fun t => fld t.bytes 4 4 == n && p t) = none := by
    refine List.find?_eq_none.2 fun o ho hboth => ?_
    obtain ⟨hcount, hpo⟩ := Bool.and_eq_true_iff.1 hboth
    rw [horphans o ho (eq_of_beq hcount)] at hpo
    exact Bool.noConfusion hpo
  simp only [State.called, hnone, hrec, hp, if_true]

/-- A record that may run is the one that its command is about. -/
theorem onRecord_of_ready {op w n : Nat} {t : Taken} {s : State} (h : Ready op w n t s) {p : Taken → Bool} (hp : p t = true)
    (f : Nat → Taken → State → State) : onRecord op w n p f s = f w t s := by
  obtain ⟨hrec, hlive, hop, hstarted, hruns, horphans⟩ := h
  have hcalled : s.called w n (fun t => t.opcode == op && !t.started && p t) = some (w, t) := by
    refine called_of_record hrec (by simp [hop, hstarted, hp]) fun o ho hcount => ?_
    by_cases hsame : o.opcode = op
    · simp [horphans o ho hcount hsame]
    · simp [hsame]
  simp only [onRecord, hlive, hruns, hcalled, Bool.and_self, Bool.not_true, Bool.false_eq_true, if_false]

theorem onOp_of_ready {op w n : Nat} {t : Taken} {s : State} (h : Ready op w n t s) (f : Nat → Taken → State → State) :
    onOp op w n f s = f w t s := onRecord_of_ready h rfl f

/-! ## Records that outlived a reset -/

/-- The completion of a record that outlived a reset of the host port takes it out of its window and writes nothing (R73). -/
theorem complete_orphan {w n : Nat} (a : Answer) {s : State} {t : Taken} (hrec : s.record (32 + w) n = some t)
    (horphan : t.orphan = true) : complete (32 + w) n a s =
      s.modWin w (fun v => { v with orphans := dropFirst (fun u => u == t) v.orphans }) := by
  have hhigh : ¬ 32 + w < 32 := by omega
  have hnone : ¬ 32 + w < 16 := by omega
  have hback : 32 + w - 32 = w := by omega
  simp only [complete, completeAt, hrec, horphan, if_true, dropFenceAfter, State.modTaken, State.modWin, hhigh, hnone, hback, if_false]

/-- A NOP's command is about the record of its count that outlived a reset of the host port, where there is one. -/
theorem exec_nop_orphan {w : Fin 16} {n : U32} {r : Taken} {s : State}
    (hfind : (s.win w).orphans.find? (fun t => fld t.bytes 4 4 == n.toNat && (t.opcode == 0 && !t.started)) = some r)
    (hlive : s.live = true) : exec (.nop w n) s = .next (complete (32 + w) r.n (done []) s) := by
  have hcalled : s.called w n.toNat (fun t => t.opcode == 0 && !t.started && true) = some (32 + w.val, r) := by
    simp only [State.called, Bool.and_true, hfind]
  refine congrArg Host.Outcome.next ?_
  simp only [onOp, onRecord, hlive, hcalled]
  rfl

/-! ## FLUSH_ACK -/

/-- Entries whose keys lie from lo to below hi read as the default once they are cleared. -/
theorem tget_tclear {α : Type} (d : α) (t : Table α) (lo hi k : Nat) :
    tget d (tclear t lo hi) k = if lo ≤ k ∧ k < hi then d else tget d t k := by
  induction t with
  | nil => simp [tclear]
  | cons e t ih =>
    obtain ⟨j, v⟩ := e
    unfold tclear at ih ⊢
    rw [List.filter_cons]
    by_cases hk : k = j
    · subst hk
      by_cases hin : lo ≤ k ∧ k < hi
      · have hout : (decide (k < lo) || decide (hi ≤ k)) = false := by simp; omega
        simp only [hout, hin, ih, Bool.false_eq_true, if_false, and_self, if_true]
      · have hout : (decide (k < lo) || decide (hi ≤ k)) = true := by simp; omega
        simp only [hout, hin, tget, if_true, if_false]
    · split
      · simp only [tget, hk, if_false, ih]
      · simp only [tget, hk, if_false, ih]

/-- The 32-byte bursts that a range touches are those from its first to below the first behind it. -/
theorem lt_ceilDiv_iff (b e : Nat) : b < ceilDiv e 32 ↔ 32 * b < e := by
  unfold ceilDiv
  omega

/-- Completed writes to a range leave the write queue (R66). -/
theorem tget_landRange (a n : Nat) (s : State) (b : Nat) : tget [] (landRange a n s).mem.unlanded b =
    if a / 32 ≤ b ∧ 32 * b < a + n then [] else tget [] s.mem.unlanded b := by
  have hclear := tget_tclear ([] : List Byte) s.mem.unlanded (a / 32) (ceilDiv (a + n) 32) b
  simp only [lt_ceilDiv_iff] at hclear
  exact hclear

/-! ## Fences -/

theorem modRecord_vine (w n : Nat) (f : Taken → Taken) (s : State) : (modRecord w n f s).vine = s.vine := by
  unfold modRecord
  split
  · rfl
  · unfold State.modTaken
    split <;> exact modWin_vine ..

/-- A CASCADE fence of a member or stem of a cascade group is handed to the stem; a standalone module only begins it (R355). -/
theorem exec_fenceCascade {w : Fin 16} {n : U32} {r : Taken} {s : State} (h : Ready 1 w n.toNat r s) (hscope : r.at 0x20 1 = 2) :
    exec (.fenceCascade w n) s = .next (if 2 ≤ s.vine.state then askGroupFence r (startRecord w r.n s) else startRecord w r.n s) := by
  have hcascade : (startRecord w r.n s).inCascade = decide (2 ≤ s.vine.state) := by
    rw [State.inCascade, startRecord, modRecord_vine]
  refine congrArg Host.Outcome.next ((onRecord_of_ready h (by rw [hscope]; rfl) _).trans ?_)
  simp only [fenceBegin, hcascade, decide_eq_true_eq]

/-- With no fence of the group held here there is no request to answer. -/
theorem answerFences_of_none {s : State} (h : s.vine.fenceWaits = []) : answerFences s = s := by
  rw [answerFences, h]
  rfl

/-- A fence that holds completes once its condition is met (R72). -/
theorem fenceRelease_of_ends {w n : Nat} {r : Taken} {s : State} (hrec : s.record w n = some r)
    (horphans : ∀ o ∈ (s.win w).orphans, fld o.bytes 4 4 ≠ n) (hlive : s.live = true) (hop : r.opcode = 1) (hstarted : r.started = true)
    (hwaits : s.vine.fenceWaits = []) (hends : s.fenceEnds w r = true) : fenceRelease w n s = complete w n (done []) s := by
  have hcalled : s.called w n (fun t => t.opcode == 1 && t.started) = some (w, r) :=
    called_of_record hrec (by simp [hop, hstarted]) fun o ho hcount => absurd hcount (horphans o ho)
  simp only [fenceRelease, answerFences_of_none hwaits, hlive, hcalled, hends, count_of_record hrec, Bool.not_true, Bool.false_eq_true,
    if_false, if_true]

/-- The condition of a fence, as R72 gives it by scope. -/
theorem fenceEnds_iff {w : Nat} {r : Taken} {s : State} : s.fenceEnds w r = true ↔
    if r.at 0x20 1 = 2 ∧ 2 ≤ s.vine.state then r.progress = 1 else s.fencePassed w r.order (r.at 0x20 1 != 0) = true := by
  by_cases hgroup : r.at 0x20 1 = 2 ∧ 2 ≤ s.vine.state
  · simp [State.fenceEnds, State.inCascade, hgroup]
  · rw [if_neg hgroup, State.fenceEnds, if_neg (by simpa [State.inCascade] using hgroup)]

/-- Settles O25: each record's command is about that record (`onRecord_of_ready`), or about one that outlived a reset. -/
theorem nopFlushAndFences : Obligations.NopFlushAndFences := by
  intro w n r s
  refine ⟨fun h => congrArg Host.Outcome.next (onOp_of_ready h _), fun hfind hlive horphan hrec => ?_,
    fun h hwaiting hclosed => ?_,
    fun h hscope => congrArg Host.Outcome.next (onRecord_of_ready h (by rw [hscope]; rfl) _),
    fun h hscope => congrArg Host.Outcome.next (onRecord_of_ready h (by rw [hscope]; rfl) _),
    exec_fenceCascade,
    fun hrec horphans hlive hop hstarted hwaits hends => congrArg Host.Outcome.next
      (fenceRelease_of_ends hrec horphans hlive hop hstarted hwaits (fenceEnds_iff.2 hends))⟩
  · refine ⟨_, exec_nop_orphan hfind hlive, ?_⟩
    rw [complete_orphan _ hrec horphan]
    exact onlyWindow_modWin w.isLt rfl
  · exact ⟨landRange r.base r.len s, congrArg Host.Outcome.next (onRecord_of_ready h (by rw [hwaiting, hclosed]; rfl) _),
      tget_landRange r.base r.len s, rfl⟩

/-! ## QUERY and ATTEST -/

/-- Settles O26: each record's command is about that record, and ATTEST's report is among what a record shows of its taking. -/
theorem queryAndAttest : Obligations.QueryAndAttest := by
  refine fun w n r s => ⟨fun h => congrArg Host.Outcome.next (onOp_of_ready h query),
    fun h => congrArg Host.Outcome.next (onOp_of_ready h attest), fun v hop => ?_⟩
  have hbyte : fld (s.slotBytes v (s.win v).expect) 0 1 = 5 := hop
  simp only [State.candidate, hbyte]
  rfl

end Sys2Proof.Proofs
end

section
/-! PROOFS. MODEL_LOAD and LAYER_DESC (O36): what the operations on pool pages, key slots, parks and quarantines leave alone, and what
the three commands do with a record in its turn (R169, R171). -/

open Sys2Proof Sys2Proof.Machine Sys2Proof.Laws

namespace Sys2Proof.Proofs

/-! ## A record in its turn, and its checks -/

/-- A record that may run and stands in its turn is the one that its command is about. -/
theorem inOrder_of_ready {op w n : Nat} {t : Taken} {s : State} (h : ReadyInTurn op w n t s) {p : Taken → Bool} (hp : p t = true)
    (f : Nat → Taken → State → State) : inOrder op w n p f s = f w t s := by
  obtain ⟨hready, hturn⟩ := h
  rw [inOrder, onRecord_of_ready hready hp, if_pos hturn]

theorem checked_of_none {checks : List (Bool × Answer)} (h : firstFail checks = none) (w n : Nat) (go : State → State) (s : State) :
    checked w n checks go s = go s := by
  rw [checked, h]

@[simp] theorem firstFail_nil : firstFail [] = none := rfl

theorem firstFail_cons {b : Bool} (h : b = true) (a : Answer) (checks : List (Bool × Answer)) :
    firstFail ((b, a) :: checks) = firstFail checks := by
  rw [h]
  rfl

/-! ## The cells and the models -/

/-- The bytes stored in device memory, and the models. -/
def cellsAndModels (s : State) : Table Byte × Table Model := (s.mem.cells, s.seqs.models)

theorem cells_of_cellsAndModels {s t : State} (h : cellsAndModels t = cellsAndModels s) : t.mem.cells = s.mem.cells :=
  congrArg Prod.fst h

theorem model_of_cellsAndModels {s t : State} (h : cellsAndModels t = cellsAndModels s) (k : Nat) : t.model k = s.model k :=
  congrArg (fun x : Table Byte × Table Model => tget Model.none x.2 k) h

theorem cellsAndModels_of_body {s t : State} (h : body t = body s) : cellsAndModels t = cellsAndModels s :=
  (congrArg cellsAndModels h : cellsAndModels (body t) = cellsAndModels (body s))

@[simp] theorem cellsAndModels_setCodec (s : State) (v : Codec) : cellsAndModels (s.setCodec v) = cellsAndModels s := rfl
@[simp] theorem cellsAndModels_setPun (s : State) (v : Punnets) : cellsAndModels (s.setPun v) = cellsAndModels s := rfl
@[simp] theorem cellsAndModels_modPun (s : State) (p : Nat) (f : PunPort → PunPort) :
    cellsAndModels (s.modPun p f) = cellsAndModels s := rfl
@[simp] theorem cellsAndModels_setPage (s : State) (p : Nat) (v : PoolPage) : cellsAndModels (s.setPage p v) = cellsAndModels s := rfl
@[simp] theorem cellsAndModels_usePage (p use key : Nat) (s : State) : cellsAndModels (usePage p use key s) = cellsAndModels s := rfl
@[simp] theorem cellsAndModels_msix (v : Nat) (s : State) : cellsAndModels (msix v s) = cellsAndModels s :=
  cellsAndModels_of_body (body_msix ..)
@[simp] theorem cellsAndModels_logErr (code kind idx addr detail : Nat) (s : State) :
    cellsAndModels (logErr code kind idx addr detail s) = cellsAndModels s := cellsAndModels_of_body (body_logErr ..)
@[simp] theorem cellsAndModels_complete (w n : Nat) (a : Answer) (s : State) :
    cellsAndModels (complete w n a s) = cellsAndModels s := cellsAndModels_of_body (body_complete ..)

/-! ### Key slots and pool pages -/

@[simp] theorem cellsAndModels_giveKey (tn : Nat) (s : State) : cellsAndModels (giveKey tn s) = cellsAndModels s := by
  unfold giveKey
  split
  · rfl
  · split <;> rfl

theorem cellsAndModels_takePage {j use key : Nat} {s : State} {y : Nat × State} (h : takePage j use key s = some y) :
    cellsAndModels y.2 = cellsAndModels s := by
  unfold takePage at h
  split at h
  · nomatch h
  · obtain rfl := Option.some.inj h
    rfl

@[simp] theorem cellsAndModels_takeAreaPages (key n : Nat) (s : State) :
    cellsAndModels (takeAreaPages key n s).2 = cellsAndModels s := by
  refine List.foldlRecOn (motive := fun a : List Nat × State => cellsAndModels a.2 = cellsAndModels s) _ _ rfl fun a ha k _ => ?_
  split
  · next htake => exact (cellsAndModels_takePage htake).trans ha
  · exact ha

@[simp] theorem cellsAndModels_unrefPage (p : Nat) (s : State) : cellsAndModels (unrefPage p s) = cellsAndModels s := by
  unfold unrefPage
  extract_lets v
  split
  · rfl
  · split <;> rfl

@[simp] theorem cellsAndModels_unrefPages (ps : List Nat) (s : State) : cellsAndModels (unrefPages ps s) = cellsAndModels s :=
  foldl_same (fun _ _ => cellsAndModels_unrefPage ..) ps s

/-! ### Quarantines -/

@[simp] theorem cellsAndModels_clearQuarantine (block how : Nat) (s : State) :
    cellsAndModels (clearQuarantine block how s) = cellsAndModels s := by
  unfold clearQuarantine
  split
  · rfl
  · exact cellsAndModels_logErr ..

@[simp] theorem cellsAndModels_clearModelBlocks (m : Nat) (s : State) :
    cellsAndModels (clearModelBlocks m s) = cellsAndModels s := foldl_same (fun _ _ => cellsAndModels_clearQuarantine ..) _ s

/-! ### Parks -/

@[simp] theorem cellsAndModels_unbindBank (b : Option (Nat × Nat)) (s : State) :
    cellsAndModels (unbindBank b s) = cellsAndModels s := by
  unfold unbindBank
  split <;> rfl

@[simp] theorem cellsAndModels_setQueue (c : Nat) (q : List CodecStream) (s : State) :
    cellsAndModels (setQueue c q s) = cellsAndModels s := rfl

@[simp] theorem cellsAndModels_dropStreams (p : Nat → CodecStream → Bool) (s : State) :
    cellsAndModels (dropStreams p s) = cellsAndModels s := by
  refine foldl_same (fun t c => ?_) _ s
  exact (cellsAndModels_setQueue ..).trans (foldl_same (fun u (v : CodecStream) => cellsAndModels_unbindBank v.bind u) _ t)

@[simp] theorem cellsAndModels_noteWear (p : Nat) (s : State) : cellsAndModels (noteWear p s) = cellsAndModels s := by
  unfold noteWear
  extract_lets v wn t
  have hsame : cellsAndModels t = cellsAndModels s := by simp [t]
  split
  · rfl
  · split <;> exact hsame

@[simp] theorem cellsAndModels_issueCmd (p opcode handle idx lba lbas : Nat) (s : State) :
    cellsAndModels (issueCmd p opcode handle idx lba lbas s) = cellsAndModels s := by
  unfold issueCmd
  extract_lets t
  split
  · exact cellsAndModels_noteWear p t
  · rfl

@[simp] theorem cellsAndModels_deallocate (p lba lbas : Nat) (s : State) :
    cellsAndModels (deallocate p lba lbas s) = cellsAndModels s := by
  unfold deallocate
  extract_lets t
  split
  · rfl
  · split
    · exact cellsAndModels_issueCmd p 9 0 0 lba lbas t
    · rfl

@[simp] theorem cellsAndModels_setPortState (p st : Nat) (s : State) :
    cellsAndModels (setPortState p st s) = cellsAndModels s := by
  unfold setPortState
  split
  · rfl
  · simp

@[simp] theorem cellsAndModels_settlePort (p : Nat) (s : State) : cellsAndModels (settlePort p s) = cellsAndModels s := by
  unfold settlePort
  extract_lets rs t
  split
  · rfl
  · calc cellsAndModels (answerRetires rs t)
      _ = cellsAndModels t := foldl_same (fun _ _ => cellsAndModels_complete ..) rs t
      _ = cellsAndModels s := cellsAndModels_setPortState p 5 (unbindPort p s)

@[simp] theorem cellsAndModels_expirePark (k : Park) (s : State) : cellsAndModels (expirePark k s) = cellsAndModels s := by
  have hbanks : ∀ t : State, cellsAndModels (k.blocks.foldl (fun s b => unbindBank b.bind s) t) = cellsAndModels t :=
    fun t => foldl_same (fun _ _ => cellsAndModels_unbindBank ..) _ t
  simp [expirePark, endPark, reclaimPark, hbanks]

/-! ## MODEL_LOAD -/

/-- A model that goes leaves its slot empty. -/
theorem model_dropModel (m : Nat) (s : State) : (dropModel m s).model m = Model.none := model_modModel ..

theorem cells_dropModel (m : Nat) (s : State) : (dropModel m s).mem.cells = s.mem.cells :=
  congrArg Prod.fst ((cellsAndModels_unrefPages (s.model m).pages (clearModelBlocks m s)).trans (cellsAndModels_clearModelBlocks m s))

/-! ### PLACE of a free slot, by what firmware finds -/

section
variable {r : Taken} {s : State} (hfree : (s.model (r.at 0x21 1)).state = 0) (w : Nat)
include hfree

theorem firstFail_free : firstFail [((s.model (r.at 0x21 1)).state == 0, badState 2)] = none := by
  rw [firstFail_cons (beq_iff_eq.2 hfree), firstFail_nil]

theorem modelPlace_pipSpaceLacking (hmode : r.at 0x36 1 ≠ 1) :
    modelPlace .pipSpaceLacking w r s = complete w r.n (badState 3) s :=
  (checked_of_none (firstFail_free hfree) ..).trans (if_neg hmode)

theorem modelPlace_rowsBeyondEngines (hexceed : (placedModel r [] []).mayExceed = true) :
    modelPlace .rowsBeyondEngines w r s = complete w r.n (badState 8) s :=
  (checked_of_none (firstFail_free hfree) ..).trans (if_pos hexceed)

theorem modelPlace_pagesLacking {k : Nat} (hlack : s.mayLack (placedModel r [] []) k = true) :
    modelPlace (.pagesLacking k) w r s = complete w r.n (noPages k) s :=
  (checked_of_none (firstFail_free hfree) ..).trans (if_pos hlack)

theorem modelPlace_placed {map : List MapEntry} {pages : List Nat} (hok : s.placementOk (placedModel r map pages) = true) :
    modelPlace (.placed map pages) w r s = placeModel w r (placedModel r map pages) s :=
  (checked_of_none (firstFail_free hfree) ..).trans (if_pos hok)

end

/-! ### A placement -/

/-- The pages of a model's areas, and the state once its tenant has a key slot and its pages and those of its areas are taken. -/
def areaTaken (tenant area : Nat) (m : Model) (s : State) : List Nat × State :=
  takeAreaPages (tenantKey tenant) area (m.pages.foldl (fun s p => usePage p 2 (tenantKey tenant) s) (giveKey tenant s))

/-- The state in which a placed model m of a tenant stands in slot id, with a number of pages for its areas. -/
def withPlaced (id tenant area : Nat) (m : Model) (s : State) : State :=
  (areaTaken tenant area m s).2.modModel id (fun _ => { m with pages := m.pages ++ (areaTaken tenant area m s).1 })

/-- PLACE with pages, room for the map and a key slot. The number of area pages is a variable, which the kernel does not compute with. -/
theorem placeModel_of_room {t : Taken} {m : Model} {s : State} {area : Nat} (harea : m.scalePageCount + m.gainPageCount = area)
    (hpages : m.pages.length + area ≤ s.freePages) (hmap : 48 * m.map.length ≤ t.at 0x48 4)
    (hkey : s.keyRoom t.tenant = true) (w : Nat) :
    placeModel w t m s = complete w t.n (done (natLe 4 (48 * m.map.length) ++ natLe 4 m.map.length ++ natLe 8 m.weightBytes))
      (hostWrite (t.at 0x40 8) (m.map.flatMap MapEntry.bytes) (withPlaced (t.at 0x21 1) t.tenant area m s)) := by
  rw [placeModel, harea]
  refine checked_of_none ?_ ..
  rw [firstFail_cons (decide_eq_true hpages), firstFail_cons (decide_eq_true hmap), firstFail_cons hkey, firstFail_nil]

theorem cellsAndModels_areaTaken (tenant area : Nat) (m : Model) (s : State) :
    cellsAndModels (areaTaken tenant area m s).2 = cellsAndModels s := by
  rw [areaTaken, cellsAndModels_takeAreaPages, foldl_same (fun t p => cellsAndModels_usePage p 2 (tenantKey tenant) t),
    cellsAndModels_giveKey]

/-- A placed model stands in its slot with the pages of its areas; the other models and the cells are as they were. -/
theorem withPlaced_spec (id tenant area : Nat) (m : Model) (s : State) :
    (∃ ps, (withPlaced id tenant area m s).model id = { m with pages := m.pages ++ ps }) ∧
    (∀ k, k ≠ id → (withPlaced id tenant area m s).model k = s.model k) ∧
    (withPlaced id tenant area m s).mem.cells = s.mem.cells := by
  have hsame := cellsAndModels_areaTaken tenant area m s
  refine ⟨⟨_, model_modModel ..⟩, fun k hk => ?_, ?_⟩
  · rw [withPlaced, model_modModel_ne _ hk, model_of_cellsAndModels hsame]
  · rw [withPlaced, modModel_mem, cells_of_cellsAndModels hsame]

/-! ### DROP -/

/-- DROP of a model that nothing names ends the parks that hold its sequences, then the model. -/
theorem modelDrop_of_unnamed {t : Taken} {s : State} (h : firstFail (s.dropChecks (t.at 0x21 1)) = none) (w : Nat) :
    modelDrop w t s = complete w t.n (done []) (dropModel (t.at 0x21 1)
      ((s.pun.parks.filter (fun k => k.state == 4 && k.saved.model == t.at 0x21 1)).foldl (fun s k => expirePark k s) s)) := by
  unfold modelDrop
  extract_lets m
  rw [checked_of_none h]

theorem cells_expireParks (l : List Park) (s : State) : (l.foldl (fun s k => expirePark k s) s).mem.cells = s.mem.cells :=
  cells_of_cellsAndModels (foldl_same (fun t k => cellsAndModels_expirePark k t) l s)

/-! ### The commands -/

section
variable {w : Fin 16} {n : U32} {r : Taken} {s : State} (h : ReadyInTurn 0x20 w n.toNat r s)
include h

theorem exec_modelLoadPlace (hop : r.at 0x20 1 = 0) (plan : Placement) :
    exec (.modelLoadPlace w n plan) s = .next (modelPlace plan w r s) :=
  congrArg Host.Outcome.next (inOrder_of_ready h (by rw [hop]; rfl) _)

theorem exec_modelLoadDrop (hop : r.at 0x20 1 = 1) : exec (.modelLoadDrop w n) s = .next (modelDrop w r s) :=
  congrArg Host.Outcome.next (inOrder_of_ready h (by rw [hop]; rfl) _)

end

/-! ## LAYER_DESC -/

/-- Model m with a layer described: usable once every layer has a descriptor (R171). -/
def describe (m : Model) (l : Nat) (d : LayerDesc) : Model :=
  let m := { m with descs := tset none m.descs l (some d) }
  { m with state := if m.described then 2 else m.state }

theorem describe_descs_same (m : Model) (l : Nat) (d : LayerDesc) : tget none (describe m l d).descs l = some d :=
  tget_tset_same none m.descs l (some d)

theorem describe_descs_ne (m : Model) {l j : Nat} (h : j ≠ l) (d : LayerDesc) :
    tget none (describe m l d).descs j = tget none m.descs j := tget_tset_ne none m.descs h (some d)

/-- LAYER_DESC of a layer of a loaded model (R171). -/
theorem exec_layerDesc {w : Fin 16} {n : U32} {r : Taken} {s : State} (h : ReadyInTurn 0x21 w n.toNat r s)
    (hloaded : (s.model (r.at 0x20 1)).state ≠ 0) (hlayer : r.at 0x22 2 ≤ (s.model (r.at 0x20 1)).layers)
    (hfn : s.actFnOk (r.at 0x3C 2) = true) : exec (.layerDesc w n) s = .next (complete w r.n (done [])
      (s.modModel (r.at 0x20 1) (fun _ => describe (s.model (r.at 0x20 1)) (r.at 0x22 2) (descOf r)))) := by
  refine congrArg Host.Outcome.next ((inOrder_of_ready h rfl _).trans ?_)
  unfold layerDesc
  extract_lets id m
  rw [checked_of_none (by rw [firstFail_cons (bne_iff_ne.2 hloaded), firstFail_cons (decide_eq_true hlayer), firstFail_cons hfn,
    firstFail_nil])]
  rfl

/-- Settles O36: PLACE by what firmware finds for it (`modelPlace_…`), a placement by `withPlaced_spec`, and DROP and LAYER_DESC by what
is left once their checks have passed. -/
theorem modelsAreLoadedAndDropped : Obligations.ModelsAreLoadedAndDropped := by
  intro w n r s
  refine ⟨fun h hop hfree => ?place, fun h hop hunnamed => ?drop, fun h hloaded hlayer hfn => ?describe⟩
  case place =>
    simp only [exec_modelLoadPlace h hop]
    refine ⟨fun hmode => congrArg _ (modelPlace_pipSpaceLacking hfree w hmode),
      fun hexceed => congrArg _ (modelPlace_rowsBeyondEngines hfree w hexceed),
      fun k hlack => congrArg _ (modelPlace_pagesLacking hfree w hlack), fun map pages hok hpages hmap hkey => ?_⟩
    rw [Nat.add_assoc] at hpages
    obtain ⟨⟨ps, hplaced⟩, hothers, hcells⟩ := withPlaced_spec (r.at 0x21 1) r.tenant _ (placedModel r map pages) s
    exact ⟨_, congrArg _ ((modelPlace_placed hfree w hok).trans (placeModel_of_room rfl hpages hmap hkey w)), by rw [hplaced]; rfl,
      by rw [hplaced], hothers, hcells⟩
  case drop =>
    exact ⟨_, (exec_modelLoadDrop h hop).trans (congrArg _ (modelDrop_of_unnamed hunnamed w)), model_dropModel ..,
      (cells_dropModel ..).trans (cells_expireParks ..)⟩
  case describe =>
    refine ⟨_, exec_layerDesc h hloaded hlayer hfn, ?_, fun l hl => ?_, fun k hk => model_modModel_ne _ hk _, rfl⟩
    · rw [model_modModel, describe_descs_same]
    · rw [model_modModel, describe_descs_ne _ hl]

end Sys2Proof.Proofs
end

section
/-! PROOFS. Press instructions (O47): how an instruction issued to an empty queue runs at once, and what each of the six leaves of its
engine's groups and of Orchard SRAM (R173 to R184, R192, R193, R406). -/

open Sys2Proof Sys2Proof.Machine Sys2Proof.Laws

namespace Sys2Proof.Proofs

/-! ## A change of one Press engine -/

theorem pressEngine_modPress (s : State) (e : Nat) (f : PressEngine → PressEngine) :
    (s.modPress e f).pressEngine e = f (s.pressEngine e) := tget_tmod_same ..

theorem pressEngine_modPress_ne (s : State) {e k : Nat} (h : k ≠ e) (f : PressEngine → PressEngine) :
    (s.modPress e f).pressEngine k = s.pressEngine k := tget_tmod_ne _ _ h f

theorem pressEngine_of_engines {s t : State} (h : t.press.engines = s.press.engines) : t.pressEngine = s.pressEngine := by
  funext k
  simp only [State.pressEngine, h]

theorem press_of_body {s t : State} (h : body t = body s) : t.press = s.press :=
  (congrArg State.press h : (body t).press = (body s).press)
theorem orchard_of_body {s t : State} (h : body t = body s) : t.orchard = s.orchard :=
  (congrArg State.orchard h : (body t).orchard = (body s).orchard)

@[simp] theorem modPress_mem (s : State) (e : Nat) (f : PressEngine → PressEngine) : (s.modPress e f).mem = s.mem := rfl
@[simp] theorem modPress_orchard (s : State) (e : Nat) (f : PressEngine → PressEngine) : (s.modPress e f).orchard = s.orchard := rfl

/-- The state but for the Press block and Orchard SRAM. -/
def outsidePress (s : State) : State := { s with press := Press.reset, orchard := [] }

@[simp] theorem outsidePress_modPress (s : State) (e : Nat) (f : PressEngine → PressEngine) :
    outsidePress (s.modPress e f) = outsidePress s := rfl

theorem eq_of_outsidePress {s t : State} (h : outsidePress t = outsidePress s) : t = { s with press := t.press, orchard := t.orchard } :=
  calc t = { outsidePress t with press := t.press, orchard := t.orchard } := rfl
    _ = { outsidePress s with press := t.press, orchard := t.orchard } := by rw [h]

theorem eq_of_outsidePress_orchard {s t : State} (h : outsidePress t = outsidePress s) (horchard : t.orchard = s.orchard) :
    t = { s with press := t.press } :=
  (eq_of_outsidePress h).trans (by rw [horchard])

/-- Only the engines of the Press block may differ from those of s. -/
def SameButEngines (s t : State) : Prop := t.press = { s.press with engines := t.press.engines }

theorem sameButEngines_refl (s : State) : SameButEngines s s := rfl

theorem sameButEngines_modPress {s t : State} (h : SameButEngines s t) (e : Nat) (f : PressEngine → PressEngine) :
    SameButEngines s (t.modPress e f) := by
  unfold SameButEngines at *
  rw [State.modPress, setPress_press, h]

/-- From s to t the groups of engine e have become what f makes of them, and nothing else of the engines has changed. -/
def MapsGroups (e : Nat) (f : List (Nat × PressGroup) → List (Nat × PressGroup)) (s t : State) : Prop :=
  t.pressEngine e = { s.pressEngine e with groups := f (s.pressEngine e).groups } ∧ ∀ k, k ≠ e → t.pressEngine k = s.pressEngine k

theorem mapsGroups_modPress (e : Nat) (f : List (Nat × PressGroup) → List (Nat × PressGroup)) {s u : State}
    (h : u.pressEngine = s.pressEngine) : MapsGroups e f s (u.modPress e (fun v => { v with groups := f v.groups })) :=
  ⟨by rw [pressEngine_modPress, h], fun k hk => by rw [pressEngine_modPress_ne _ hk, h]⟩

theorem mapsGroups_of_engines {e : Nat} {f : List (Nat × PressGroup) → List (Nat × PressGroup)} {s t u : State} (h : MapsGroups e f s u)
    (heq : t.press.engines = u.press.engines) : MapsGroups e f s t := by
  rw [MapsGroups, pressEngine_of_engines heq]
  exact h

theorem mapsGroups_idle {e : Nat} {f : List (Nat × PressGroup) → List (Nat × PressGroup)} {s t : State} (h : MapsGroups e f s t)
    (hq : (s.pressEngine e).queue = []) : (t.pressEngine e).queue = [] := by
  obtain ⟨hengine, -⟩ := h
  rw [hengine]
  exact hq

/-! ## The groups of an engine -/

/-- The groups but for those of a number: what DISCARD leaves. -/
def without (g : Nat) (l : List (Nat × PressGroup)) : List (Nat × PressGroup) := l.filter (fun x => x.1 != g)

theorem drop_of_group_none {v : PressEngine} {g : Nat} (h : v.group g = none) : v.drop g = v := by
  have hall : ∀ x ∈ v.groups, (x.1 != g) = true := by simpa [PressEngine.group, bne_iff_ne] using h
  rw [PressEngine.drop, List.filter_eq_self.2 hall]

/-- A group put back under its number is the one that is found there. -/
theorem group_put {v : PressEngine} {g : Nat} {x : PressGroup} (h : v.group g = some x) (z : PressGroup) :
    (v.put g z).group g = some z := by
  have hsame : (fun y : Nat × PressGroup => y.1 == g) ∘ (fun y => if y.1 == g then (g, z) else y) = fun y => y.1 == g := by
    funext y
    by_cases hy : y.1 = g <;> simp [hy]
  obtain ⟨p, hp, -⟩ := Option.map_eq_some_iff.1 h
  have hnum : (p.1 == g) = true := List.find?_some (p := fun x : Nat × PressGroup => x.1 == g) hp
  simp only [PressEngine.group, PressEngine.put, mapIf, List.find?_map, hsame, hp, Option.map_some, hnum, if_true]

theorem group_modPress_put {s : State} {e g : Nat} {x : PressGroup} (h : (s.pressEngine e).group g = some x) (z : PressGroup) :
    ((s.modPress e (fun v => v.put g z)).pressEngine e).group g = some z := by
  rw [pressEngine_modPress]
  exact group_put h z

theorem queue_modPress_put (s : State) (e g : Nat) (z : PressGroup) :
    ((s.modPress e (fun v => v.put g z)).pressEngine e).queue = (s.pressEngine e).queue := by
  rw [pressEngine_modPress]
  rfl

theorem taken_of_apart {v : PressEngine} {i : PressInstr}
    (h : ∀ x ∈ v.groups, x.1 ≠ i.group ∧ overlaps x.2.tile x.2.count i.tile i.count = false) : v.taken i = false :=
  List.any_eq_false.2 fun x hx => by
    obtain ⟨hnum, htiles⟩ := h x hx
    simp [hnum, htiles]

/-! ## An instruction issued to an empty queue -/

/-- The state in which an instruction begins that alone stood in its engine's queue. -/
def begun (e : Nat) (i : PressInstr) (s : State) : State :=
  (s.modPress e (fun v => { v with queue := v.queue ++ [i] })).modPress e (fun v => { v with queue := [] })

@[simp] theorem begun_mem (e : Nat) (i : PressInstr) (s : State) : (begun e i s).mem = s.mem := rfl
@[simp] theorem begun_seqs (e : Nat) (i : PressInstr) (s : State) : (begun e i s).seqs = s.seqs := rfl
@[simp] theorem begun_orchard (e : Nat) (i : PressInstr) (s : State) : (begun e i s).orchard = s.orchard := rfl

@[simp] theorem outsidePress_begun (e : Nat) (i : PressInstr) (s : State) : outsidePress (begun e i s) = outsidePress s := by
  rw [begun, outsidePress_modPress, outsidePress_modPress]

theorem sameButEngines_begun (e : Nat) (i : PressInstr) (s : State) : SameButEngines s (begun e i s) :=
  sameButEngines_modPress (sameButEngines_modPress (sameButEngines_refl s) ..) ..

/-- With nothing before it only an OPEN or a RESTORE can have to wait (R181). -/
theorem waits_nil (v : PressEngine) (i : PressInstr) : v.waits [] i = ((i.op == 1 || i.op == 6) && v.taken i) := by
  unfold PressEngine.waits
  cases i.op == 1 || i.op == 6
  · exact Bool.and_false _
  · exact Bool.or_false _

theorem waits_nil_of_other {i : PressInstr} (h : (i.op == 1 || i.op == 6) = false) (v : PressEngine) : v.waits [] i = false := by
  rw [waits_nil, h, Bool.false_and]

theorem drainPress_of_empty {e : Nat} {s : State} (h : (s.pressEngine e).queue = []) (fuel : Nat) : drainPress e fuel s = s := by
  cases fuel with
  | zero => rfl
  | succ n => simp only [drainPress, h, PressEngine.nextReady]

section
variable {e : Nat} {s : State} (hq : (s.pressEngine e).queue = [])
include hq

theorem pressEngine_begun (i : PressInstr) : (begun e i s).pressEngine = s.pressEngine := by
  funext k
  by_cases hk : k = e
  · subst hk
    rw [begun, pressEngine_modPress, pressEngine_modPress, ← hq]
  · rw [begun, pressEngine_modPress_ne _ hk, pressEngine_modPress_ne _ hk]

/-- An instruction that finds the queue empty and need not wait runs at once, and the queue is empty again. -/
theorem issuePress_runs {i : PressInstr} (hready : (s.pressEngine e).waits [] i = false) {t : State}
    (hrun : runPress e i (begun e i s) = t) (hidle : (t.pressEngine e).queue = []) : issuePress e i s = t := by
  have hfree : ¬ 64 ≤ (s.pressEngine e).queue.length := by simp [hq]
  have hqueued : (s.modPress e (fun v => { v with queue := v.queue ++ [i] })).pressEngine e = { s.pressEngine e with queue := [i] } := by
    rw [pressEngine_modPress, hq]
    rfl
  have hnext : ((s.modPress e (fun v => { v with queue := v.queue ++ [i] })).pressEngine e).nextReady []
      ((s.modPress e (fun v => { v with queue := v.queue ++ [i] })).pressEngine e).queue = some (i, []) := by
    have hwaits : PressEngine.waits { s.pressEngine e with queue := [i] } [] i = false := hready
    rw [hqueued, PressEngine.nextReady, hwaits]
    rfl
  rw [issuePress, if_neg hfree, drainPress, hnext]
  exact (congrArg (drainPress e 64) hrun).trans (drainPress_of_empty hidle 64)

/-- An instruction that changes only its engine's groups, and whatever else lies outside the engines, runs so at once. -/
theorem issuePress_mapsGroups {i : PressInstr} (hready : (s.pressEngine e).waits [] i = false) {t : State}
    (hrun : runPress e i (begun e i s) = t) {f : List (Nat × PressGroup) → List (Nat × PressGroup)} (h : MapsGroups e f s t) :
    issuePress e i s = t := issuePress_runs hq hready hrun (mapsGroups_idle h hq)

end

/-- An instruction that meets no uncorrectable word takes effect. -/
theorem runPress_of_clean {i : PressInstr} (h : i.own.bad = none) (e : Nat) (s : State) : runPress e i s = doPress e i s := by
  rw [runPress, h]

/-- An instruction for a group that is not open reads no lane word. -/
theorem runPress_of_unread {e : Nat} {i : PressInstr} {s : State} (h : s.pressReads e i = none) : runPress e i s = doPress e i s := by
  unfold runPress
  rw [h]
  split <;> trivial

/-- PASS, CLOSE and SAVE, the instructions that read the lane words of their open group. -/
def ReadsLanes (i : PressInstr) : Prop := i.op = 2 ∨ i.op = 3 ∨ i.op = 5

theorem pressReads_of_readsLanes {i : PressInstr} (h : ReadsLanes i) (e : Nat) (s : State) :
    s.pressReads e i = ((s.pressEngine e).group i.group).map (·.mat) := by
  rcases h with h | h | h <;> simp [State.pressReads, h]

theorem waits_of_readsLanes {i : PressInstr} (h : ReadsLanes i) (v : PressEngine) : v.waits [] i = false := by
  refine waits_nil_of_other ?_ v
  rcases h with h | h | h <;> simp [h]

/-! ## What the instructions do -/

theorem doPress_open {e : Nat} {i : PressInstr} (hop : i.op = 1) (s : State) : doPress e i s =
    s.modPress e (fun v => { v with groups := v.groups ++ [(i.group, openedGroup i)] }) := by
  simp only [doPress, hop]

theorem doPress_pass {e : Nat} {i : PressInstr} (hop : i.op = 2) (s : State) : doPress e i s = passGroup e i s := by
  simp only [doPress, hop]

theorem groupResults_of_seqs {s u : State} (h : u.seqs = s.seqs) : groupResults u = groupResults s := by
  funext x
  simp only [groupResults, State.model, h]

theorem withPairs_of_orchard {s u : State} (h : u.orchard = s.orchard) : u.withPairs = s.withPairs := by
  funext e x
  simp only [State.withPairs, State.orchardWord, h]

/-- The module once engine e has closed group g, which stood as x: its results written to address a, and its tiles free (R180, R184). -/
def closedGroup (e g a : Nat) (x : PressGroup) (s : State) : State :=
  { s.modPress e (fun v => v.drop g) with
    orchard := tsets 0 s.orchard (orchardAt e a) (f32Bytes (groupResults s (s.withPairs e x))) }

@[simp] theorem outsidePress_closedGroup (e g a : Nat) (x : PressGroup) (s : State) :
    outsidePress (closedGroup e g a x s) = outsidePress s := rfl

theorem closedGroup_orchard (e g a : Nat) (x : PressGroup) {s u : State} (hseqs : u.seqs = s.seqs) (horchard : u.orchard = s.orchard) :
    (closedGroup e g a x u).orchard = tsets 0 s.orchard (orchardAt e a) (f32Bytes (groupResults s (s.withPairs e x))) := by
  rw [closedGroup, groupResults_of_seqs hseqs, withPairs_of_orchard horchard, horchard]

theorem closedGroup_engines (e g a : Nat) (x : PressGroup) (s : State) :
    (closedGroup e g a x s).press.engines = (s.modPress e (fun v => { v with groups := without g v.groups })).press.engines := rfl

theorem doPress_close {e : Nat} {i : PressInstr} (hop : i.op = 3) {s : State} {x : PressGroup}
    (hgroup : (s.pressEngine e).group i.group = some x) : doPress e i s = closedGroup e i.group i.addr x s := by
  simp only [doPress, hop, hgroup, closedGroup]

theorem saveGroup_orchard (e a : Nat) (x : PressGroup) {s u : State} (h : u.orchard = s.orchard) :
    (saveGroup e a x u).orchard = (saveGroup e a x s).orchard := by
  simp only [saveGroup, setPress_orchard, h]

@[simp] theorem outsidePress_saveGroup (e a : Nat) (x : PressGroup) (s : State) : outsidePress (saveGroup e a x s) = outsidePress s := rfl

theorem mem_saveGroup_saved (e a : Nat) (x : PressGroup) (s : State) : (orchardAt e a, x) ∈ (saveGroup e a x s).press.saved :=
  List.mem_append_right _ (List.mem_singleton_self _)

theorem saveGroup_engines (e a : Nat) (x : PressGroup) (s : State) : (saveGroup e a x s).press.engines = s.press.engines := rfl

theorem doPress_discard {e : Nat} {i : PressInstr} (hop : i.op = 4) (s : State) : doPress e i s =
    s.modPress e (fun v => { v with groups := without i.group v.groups }) := by
  simp only [doPress, hop, PressEngine.drop, without]

/-- SAVE of an open group frees the tiles and writes its context (R192). -/
theorem doPress_save {e : Nat} {i : PressInstr} (hop : i.op = 5) {s : State} {x : PressGroup}
    (hgroup : (s.pressEngine e).group i.group = some x) : doPress e i s =
      saveGroup e i.addr x (s.modPress e (fun v => { v with groups := without i.group v.groups })) := by
  simp only [doPress, hop, hgroup, PressEngine.drop, without]

/-- RESTORE of a context into as many tiles as it was saved from opens its group again (R192). -/
theorem doPress_restore {e : Nat} {i : PressInstr} (hop : i.op = 6) {s : State} {k : Nat} {x : PressGroup}
    (hsaved : s.press.saved.find? (fun y => y.1 == orchardAt e i.addr) = some (k, x)) (hcount : x.count = i.count) : doPress e i s =
      s.modPress e (fun v => { v with groups := v.groups ++ [(i.group, s.restored e i.addr i.tile x)] }) := by
  simp only [doPress, hop, hsaved, hcount, ne_eq, not_true_eq_false, if_false]

/-- PASS, CLOSE and SAVE of a group that is not open change nothing. -/
theorem doPress_of_group_none {e : Nat} {i : PressInstr} (hreads : ReadsLanes i) {s : State}
    (hgroup : (s.pressEngine e).group i.group = none) : doPress e i s = s := by
  rcases hreads with hop | hop | hop
  · simp only [doPress, hop, passGroup, hgroup]
  · simp only [doPress, hop, hgroup]
  · simp only [doPress, hop, hgroup]

/-- An instruction for a group that is not open is over once it has begun. -/
theorem runPress_of_group_none {e : Nat} {i : PressInstr} (hreads : ReadsLanes i) {s : State}
    (hgroup : (s.pressEngine e).group i.group = none) : runPress e i s = s := by
  rw [runPress_of_unread (by rw [pressReads_of_readsLanes hreads, hgroup]; rfl), doPress_of_group_none hreads hgroup]

/-! ### Uncorrectable lane words -/

theorem noteOwn_lane_press (layer : Nat) (e : Fin 8) (tile : Fin 56) (g : Fin 8) (s : State) : (noteOwn layer (.lane e tile g) s).press =
    { s.press with faultCount := satAdd 8 s.press.faultCount 1, faultLayer := layer % 256, faultEngine := e.val, faultTile := tile.val,
                   faultGroup := g.val, faultKind := 1 } := by
  have hlog := press_of_body (body_logErr 0x15 3 e.val 0 tile.val s)
  simp only [noteOwn, notePress, setPress_press, hlog]

theorem noteOwn_lane_mem (layer : Nat) (e : Fin 8) (tile : Fin 56) (g : Fin 8) (s : State) :
    (noteOwn layer (.lane e tile g) s).mem = s.mem := by
  rw [noteOwn, notePress, setPress_mem, mem_of_body (body_logErr ..)]

theorem noteOwn_lane_orchard (layer : Nat) (e : Fin 8) (tile : Fin 56) (g : Fin 8) (s : State) :
    (noteOwn layer (.lane e tile g) s).orchard = s.orchard := by
  rw [noteOwn, notePress, setPress_orchard, orchard_of_body (body_logErr ..)]

/-- An instruction that reads an uncorrectable word of its group records it and discards the group (R177). -/
theorem runPress_of_bad {e : Nat} {i : PressInstr} (hreads : ReadsLanes i) {f : OwnFault} (hbad : i.own.bad = some f) {s : State}
    {x : PressGroup} (hgroup : (s.pressEngine e).group i.group = some x) :
    runPress e i s = (noteOwn (x.mat / 8) f s).modPress e (fun v => v.drop i.group) := by
  have hop : i.op ≠ 6 := by rcases hreads with h | h | h <;> simp [h]
  have hmat : s.pressReads e i = some x.mat := by rw [pressReads_of_readsLanes hreads, hgroup]; rfl
  simp only [runPress, hbad, hmat, hop, if_false]
  rfl

/-! ### PASS -/

theorem streamTile_withModel (m : Nat) (rows : List Nat) (cells : List (Nat × List RowTerm)) (act : Nat → Nat → F32) (x : PressGroup) :
    streamTile { x with model := m } rows cells act = { streamTile x rows cells act with model := m } := by
  refine List.foldl_hom (fun y : PressGroup => { y with model := m }) fun y c => ?_
  refine List.foldl_hom (fun y : PressGroup => { y with model := m }) fun y q => ?_
  refine List.foldl_hom (fun y : PressGroup => { y with model := m }) fun y t => ?_
  rfl

/-- A group and the module as a PASS of the group finds them: spilled first where the group stands at a spill point (R183). -/
def spilled (e : Nat) (x : PressGroup) (s : State) : PressGroup × State := if x.spills then spillGroup e x s else (x, s)

/-- A spill changes a group's lane words only. -/
theorem spilled_group (e : Nat) (x : PressGroup) (s : State) : (spilled e x s).1 = { x with lanes := (spilled e x s).1.lanes } := by
  unfold spilled
  split <;> rfl

theorem outsidePress_spilled (e : Nat) (x : PressGroup) (s : State) : outsidePress (spilled e x s).2 = outsidePress s := by
  unfold spilled
  split <;> rfl

/-- A spill counts at the engine. -/
theorem sameButEngines_spilled {s t : State} (h : SameButEngines s t) (e : Nat) (x : PressGroup) : SameButEngines s (spilled e x t).2 := by
  unfold spilled
  split
  · exact sameButEngines_modPress (t := { t with orchard := _ }) h ..
  · exact h

/-- What a spill makes of a group and of Orchard SRAM, by Orchard SRAM alone. -/
theorem spilled_of_orchard {s u : State} (h : u.orchard = s.orchard) (e : Nat) (x : PressGroup) :
    ((spilled e x u).1, (spilled e x u).2.orchard) =
      if x.spills then ((spillGroup e x s).1, (spillGroup e x s).2.orchard) else (x, s.orchard) := by
  unfold spilled
  split
  · simp only [spillGroup, withPairs_of_orchard h, h, modPress_orchard]
  · rw [h]

theorem spilled_engine (e : Nat) (x : PressGroup) (s : State) : ((spilled e x s).2.pressEngine e).queue = (s.pressEngine e).queue ∧
    ((spilled e x s).2.pressEngine e).group = (s.pressEngine e).group := by
  unfold spilled
  split
  · have hcounts : ((spillGroup e x s).2.pressEngine e) = { s.pressEngine e with spills := satAdd 32 (s.pressEngine e).spills x.count } :=
      pressEngine_modPress ..
    rw [hcounts]
    exact ⟨rfl, rfl⟩
  · exact ⟨rfl, rfl⟩

/-- The activations that a PASS finds in Orchard SRAM (log entry 27). -/
def passAct (e : Nat) (i : PressInstr) (base : Nat) (orchard : Table Byte) (q col : Nat) : F32 :=
  BitVec.ofNat 32 (leNat (tslice 0 orchard
    (orchardAt e (i.addr + 4 * ((q - 32 * i.tile) * (8 * tilePositions i.fmt) + (col - base)))) 4))

/-- The group after a PASS over some cells: with the K-tile's terms in its lane words, and advanced by the tile's positions. -/
def streamed (x : PressGroup) (m : Nat) (i : PressInstr) (cells : List (Nat × List RowTerm)) (act : Nat → Nat → F32) : PressGroup :=
  { streamTile { x with model := m } (passRows x i) cells act with pos := x.pos + tilePositions i.fmt }

theorem streamed_model (x : PressGroup) (m : Nat) (i : PressInstr) (cells : List (Nat × List RowTerm)) (act : Nat → Nat → F32) :
    (streamed x m i cells act).model = m := by
  rw [streamed, streamTile_withModel]

theorem streamed_lanes (x : PressGroup) (m : Nat) (i : PressInstr) (cells : List (Nat × List RowTerm)) (act : Nat → Nat → F32) :
    (streamed x m i cells act).lanes = (streamTile x (passRows x i) cells act).lanes := by
  rw [streamed, streamTile_withModel]

/-- PASS of an open group whose weights lie in model m and read well puts the streamed group in the group's place. -/
theorem passGroup_streams {e : Nat} {i : PressInstr} {s v u : State} {x y : PressGroup} {m : Nat} {cells : List (Nat × List RowTerm)}
    (hgroup : (s.pressEngine e).group i.group = some x) (hspill : spilled e x s = (y, v)) (hweights : v.weightModel y i.wsrc = some m)
    (hcells : tileCells (v.passIn m y i) e i y (tileBase (v.model m) y i.fmt i.wsrc) (8 * tilePositions i.fmt) (addErrs i.errs v) =
      (.ok cells, u)) :
    passGroup e i s = u.modPress e (fun w => w.put i.group
      (streamed y m i cells (passAct e i (tileBase (v.model m) y i.fmt i.wsrc) v.orchard))) := by
  rw [spilled] at hspill
  simp only [passGroup, hgroup, hspill, hweights, hcells]
  rfl

/-! ## The commands -/

theorem whenPowered_eq {s : State} (h : s.enginesOn = true) (f : State → State) : whenPowered f s = f s := if_pos h

/-- OPEN as its command issues it. -/
def openOf (group tile count rows lenLog2 mat col addr : Nat) : PressInstr :=
  { PressInstr.plain 1 group with
    tile := tile, count := count, rows := rows, lenLog2 := lenLog2, mat := mat, col := col, addr := addr }

/-- PASS as its command issues it. -/
def passOf (group tile count fmt wsrc addr : Nat) (errs : List SymErr) (own : OwnReads) : PressInstr :=
  { PressInstr.plain 2 group with
    tile := tile, count := count, fmt := fmt, wsrc := wsrc, addr := addr, errs := errs, own := own }

/-- CLOSE as its command issues it. -/
def closeOf (group addr : Nat) (own : OwnReads) : PressInstr :=
  { PressInstr.plain 3 group with addr := addr, own := own }

/-- SAVE as its command issues it. -/
def saveOf (group addr : Nat) (own : OwnReads) : PressInstr :=
  { PressInstr.plain 5 group with addr := addr, own := own }

/-- RESTORE as its command issues it. -/
def restoreOf (group tile count addr : Nat) (own : OwnReads) : PressInstr :=
  { PressInstr.plain 6 group with tile := tile, count := count, addr := addr, own := own }

section
variable {e : Fin 8} {s : State} (hon : s.enginesOn = true)
include hon

theorem exec_pressOpen {group tile count rows : Nat} (htiles : tilesOk group tile count = true) (hlo : 1 ≤ rows)
    (hhi : rows ≤ min 256 (32 * count)) (lenLog2 mat col addr : Nat) : exec (.pressOpen e group tile count rows lenLog2 mat col addr) s =
      .next (issuePress e (openOf group tile count rows lenLog2 mat col addr) s) := by
  have hrows : inRange rows 1 (min 256 (32 * count)) = true := by simp only [inRange, hlo, hhi, decide_true, Bool.and_self]
  exact congrArg Host.Outcome.next ((whenPowered_eq hon _).trans (if_pos (by rw [htiles, hrows]; rfl)))

theorem exec_pressPass (group tile count fmt wsrc addr : Nat) (errs : List SymErr) (own : OwnReads) :
    exec (.pressPass e group tile count fmt wsrc addr errs own) s =
      .next (issuePress e (passOf group tile count fmt wsrc addr errs own) s) := congrArg Host.Outcome.next (whenPowered_eq hon _)

theorem exec_pressClose (group addr : Nat) (own : OwnReads) :
    exec (.pressClose e group addr own) s = .next (issuePress e (closeOf group addr own) s) :=
  congrArg Host.Outcome.next (whenPowered_eq hon _)

theorem exec_pressDiscard (group : Nat) : exec (.pressDiscard e group) s = .next (issuePress e (PressInstr.plain 4 group) s) :=
  congrArg Host.Outcome.next (whenPowered_eq hon _)

theorem exec_pressSave (group addr : Nat) (own : OwnReads) :
    exec (.pressSave e group addr own) s = .next (issuePress e (saveOf group addr own) s) :=
  congrArg Host.Outcome.next (whenPowered_eq hon _)

theorem exec_pressRestore {group tile count : Nat} (htiles : tilesOk group tile count = true) (addr : Nat) (own : OwnReads) :
    exec (.pressRestore e group tile count addr own) s = .next (issuePress e (restoreOf group tile count addr own) s) :=
  congrArg Host.Outcome.next ((whenPowered_eq hon _).trans (if_pos htiles))

end

section
variable {e : Nat} {s : State} (hq : (s.pressEngine e).queue = [])
include hq

theorem group_begun {g : Nat} {o : Option PressGroup} (h : (s.pressEngine e).group g = o) (i : PressInstr) :
    ((begun e i s).pressEngine e).group g = o := by
  rw [pressEngine_begun hq, h]

theorem issuePress_open {i : PressInstr} (hop : i.op = 1) (hown : i.own.bad = none) (hfree : (s.pressEngine e).taken i = false) :
    ∃ t, issuePress e i s = t ∧ t = { s with press := t.press } ∧ MapsGroups e (· ++ [(i.group, openedGroup i)]) s t := by
  have hmaps := mapsGroups_modPress e (· ++ [(i.group, openedGroup i)]) (pressEngine_begun hq i)
  have hready : (s.pressEngine e).waits [] i = false := by rw [waits_nil, hfree, Bool.and_false]
  have hrun := (runPress_of_clean hown e (begun e i s)).trans (doPress_open hop _)
  exact ⟨_, issuePress_mapsGroups hq hready hrun hmaps, eq_of_outsidePress_orchard (by simp) (by simp), hmaps⟩

theorem issuePress_discard (g : Nat) : ∃ t, issuePress e (PressInstr.plain 4 g) s = t ∧ t = { s with press := t.press } ∧
    MapsGroups e (without g) s t := by
  have hmaps := mapsGroups_modPress e (without g) (pressEngine_begun hq (PressInstr.plain 4 g))
  have hrun := (runPress_of_clean rfl e (begun e (PressInstr.plain 4 g) s)).trans (doPress_discard (i := PressInstr.plain 4 g) rfl _)
  exact ⟨_, issuePress_mapsGroups hq (waits_nil_of_other rfl _) hrun hmaps, eq_of_outsidePress_orchard (by simp) (by simp), hmaps⟩

theorem issuePress_restore {i : PressInstr} (hop : i.op = 6) (hown : i.own.bad = none) (hfree : (s.pressEngine e).taken i = false)
    {k : Nat} {x : PressGroup} (hsaved : s.press.saved.find? (fun y => y.1 == orchardAt e i.addr) = some (k, x))
    (hcount : x.count = i.count) : ∃ t, issuePress e i s = t ∧ t = { s with press := t.press } ∧
      MapsGroups e (· ++ [(i.group, s.restored e i.addr i.tile x)]) s t := by
  have hmaps := mapsGroups_modPress e (· ++ [(i.group, s.restored e i.addr i.tile x)]) (pressEngine_begun hq i)
  have hready : (s.pressEngine e).waits [] i = false := by rw [waits_nil, hfree, Bool.and_false]
  have hrun := (runPress_of_clean hown e (begun e i s)).trans (doPress_restore hop hsaved hcount)
  exact ⟨_, issuePress_mapsGroups hq hready hrun hmaps, eq_of_outsidePress_orchard (by simp) (by simp), hmaps⟩

section
variable {i : PressInstr} (hreads : ReadsLanes i)
include hreads

theorem issuePress_of_group_none (hgroup : (s.pressEngine e).group i.group = none) : issuePress e i s = begun e i s :=
  issuePress_runs hq (waits_of_readsLanes hreads _) (runPress_of_group_none hreads (group_begun hq hgroup i))
    (by rw [pressEngine_begun hq, hq])

variable {x : PressGroup} (hgroup : (s.pressEngine e).group i.group = some x)
include hgroup

theorem issuePress_close (hop : i.op = 3) (hown : i.own.bad = none) : ∃ t, issuePress e i s = t ∧
    t = { s with press := t.press, orchard := t.orchard } ∧
    t.orchard = tsets 0 s.orchard (orchardAt e i.addr) (f32Bytes (groupResults s (s.withPairs e x))) ∧
    MapsGroups e (without i.group) s t := by
  have hrun := (runPress_of_clean hown e (begun e i s)).trans (doPress_close hop (group_begun hq hgroup i))
  have hmaps := mapsGroups_of_engines (mapsGroups_modPress e (without i.group) (pressEngine_begun hq i))
    (closedGroup_engines e i.group i.addr x (begun e i s))
  exact ⟨_, issuePress_mapsGroups hq (waits_of_readsLanes hreads _) hrun hmaps, eq_of_outsidePress (by simp),
    closedGroup_orchard _ _ _ _ (begun_seqs ..) (begun_orchard ..), hmaps⟩

theorem issuePress_save (hop : i.op = 5) (hown : i.own.bad = none) : ∃ t, issuePress e i s = t ∧
    t = { s with press := t.press, orchard := (saveGroup e i.addr x s).orchard } ∧ (orchardAt e i.addr, x) ∈ t.press.saved ∧
    MapsGroups e (without i.group) s t := by
  have hrun := (runPress_of_clean hown e (begun e i s)).trans (doPress_save hop (group_begun hq hgroup i))
  have hmaps := mapsGroups_of_engines (mapsGroups_modPress e (without i.group) (pressEngine_begun hq i))
    (saveGroup_engines e i.addr x _)
  refine ⟨_, issuePress_mapsGroups hq (waits_of_readsLanes hreads _) hrun hmaps, (eq_of_outsidePress (s := s) (by simp)).trans ?_,
    mem_saveGroup_saved .., hmaps⟩
  rw [saveGroup_orchard e i.addr x ((modPress_orchard ..).trans (begun_orchard e i s))]

/-- A read of an uncorrectable lane word discards the group, writes nothing and is recorded in PRS_FAULT_LOG (R177). -/
theorem issuePress_bad {d : Fin 8} {tile : Fin 56} {g : Fin 8} (hbad : i.own.bad = some (.lane d tile g)) :
    ∃ t, issuePress e i s = t ∧ t.mem = s.mem ∧ t.orchard = s.orchard ∧ MapsGroups e (without i.group) s t ∧
      t.press = { s.press with
        engines := t.press.engines, faultCount := satAdd 8 s.press.faultCount 1, faultLayer := x.mat / 8 % 256, faultEngine := d.val,
        faultTile := tile.val, faultGroup := g.val, faultKind := 1 } := by
  have hpress := noteOwn_lane_press (x.mat / 8) d tile g (begun e i s)
  have hmaps := mapsGroups_modPress e (without i.group)
    ((pressEngine_of_engines (by rw [hpress])).trans (pressEngine_begun hq i))
  have hrun := runPress_of_bad hreads hbad (group_begun hq hgroup i)
  refine ⟨_, issuePress_mapsGroups hq (waits_of_readsLanes hreads _) hrun hmaps, ?_, ?_, hmaps, ?_⟩
  · rw [modPress_mem, noteOwn_lane_mem, begun_mem]
  · rw [modPress_orchard, noteOwn_lane_orchard, begun_orchard]
  · rw [State.modPress, setPress_press, hpress]
    rfl

end

/-- What a PASS finds that has begun: its group, and Orchard SRAM, spilled where the group stands at a spill point. -/
theorem spilled_begun (i : PressInstr) {x y : PressGroup} {o : Table Byte}
    (hspill : (y, o) = if x.spills then ((spillGroup e x s).1, (spillGroup e x s).2.orchard) else (x, s.orchard)) :
    ∃ v : State, spilled e x (begun e i s) = (y, v) ∧
      v = { s with press := { s.press with engines := v.press.engines }, orchard := o } ∧
      (v.pressEngine e).queue = [] ∧ (v.pressEngine e).group = (s.pressEngine e).group := by
  obtain ⟨hgroup, horchard⟩ := Prod.mk.inj ((spilled_of_orchard (begun_orchard e i s) e x).trans hspill.symm)
  obtain ⟨hqueue, hfind⟩ := spilled_engine e x (begun e i s)
  have hengines : SameButEngines s (spilled e x (begun e i s)).2 := sameButEngines_spilled (sameButEngines_begun e i s) e x
  refine ⟨_, Prod.ext hgroup rfl, ?_, hqueue.trans (by rw [pressEngine_begun hq, hq]), hfind.trans (by rw [pressEngine_begun hq])⟩
  rw [← hengines, ← horchard]
  exact eq_of_outsidePress ((outsidePress_spilled ..).trans (outsidePress_begun ..))

/-- A PASS that reads its weights well streams its token rows into its group, spilled first where it stands at a spill point. -/
theorem issuePress_pass {i : PressInstr} (hop : i.op = 2) (hown : i.own.bad = none) {x y : PressGroup}
    (hgroup : (s.pressEngine e).group i.group = some x) {m : Nat} (hweights : s.weightModel x i.wsrc = some m) {o : Table Byte}
    (hspill : (y, o) = if x.spills then ((spillGroup e x s).1, (spillGroup e x s).2.orchard) else (x, s.orchard))
    {cells : List (Nat × List RowTerm)}
    (hcells : ∀ v : State, v = { s with press := { s.press with engines := v.press.engines }, orchard := o } →
      ∃ u, tileCells (v.passIn m y i) e i y (tileBase (s.model m) y i.fmt i.wsrc) (8 * tilePositions i.fmt) (addErrs i.errs v) =
        (.ok cells, u) ∧ u.press.engines = v.press.engines) :
    ∃ t z, issuePress e i s = t ∧ (t.pressEngine e).group i.group = some z ∧ z.pos = x.pos + tilePositions i.fmt ∧ z.model = m ∧
      z.lanes = (streamTile y (passRows x i) cells (passAct e i (tileBase (s.model m) y i.fmt i.wsrc) o)).lanes := by
  obtain ⟨v, hpair, hstate, hqueue, hfind⟩ := spilled_begun hq i hspill
  obtain ⟨u, hread, hengines⟩ := hcells v hstate
  have hy : y = { x with lanes := y.lanes } := by
    have hsame := spilled_group e x (begun e i s)
    rwa [hpair] at hsame
  have hmodel : v.model m = s.model m := by rw [hstate]; rfl
  have hfound : v.weightModel y i.wsrc = some m := by rw [hstate, hy]; exact hweights
  have hpass := passGroup_streams (group_begun hq hgroup i) hpair hfound (by rw [hmodel]; exact hread)
  have hopen : (u.pressEngine e).group i.group = some x := by rw [pressEngine_of_engines hengines, hfind, hgroup]
  have hidle : (u.pressEngine e).queue = [] := by rw [pressEngine_of_engines hengines, hqueue]
  have hrun := ((runPress_of_clean hown e (begun e i s)).trans (doPress_pass hop _)).trans hpass
  refine ⟨_, _, issuePress_runs hq (waits_of_readsLanes (.inl hop) _) hrun ((queue_modPress_put ..).trans hidle),
    group_modPress_put hopen _, ?_, streamed_model .., (streamed_lanes ..).trans ?_⟩
  · rw [streamed, hy]
  · have hrows : passRows y i = passRows x i := by rw [hy]; rfl
    have horchard : v.orchard = o := by rw [hstate]
    rw [hrows, hmodel, horchard]

end

/-- Settles O47: each instruction finds the queue empty and runs at once (`issuePress_…`), and what it does to its engine's groups is
`MapsGroups`. -/
theorem pressGroupsOpenStreamAndClose : Obligations.PressGroupsOpenStreamAndClose := by
  intro e group tile count rows fmt lenLog2 mat col wsrc addr errs own s hon hq
  refine ⟨fun htiles hlo hhi hfree => ?opens, fun x hgroup => ⟨?passes, fun hown => ?closes, ?discards, fun hown => ?saves,
    fun tile g hbad i hi => ?bad⟩, fun k x hown htiles hsaved hcount hfree => ?restores, fun hgroup => ?unopened⟩
  case opens =>
    obtain ⟨t, hissue, hframe, hengine, hothers⟩ := issuePress_open hq
      (i := openOf group tile count rows lenLog2 mat col addr) rfl rfl (taken_of_apart hfree)
    exact ⟨t, (exec_pressOpen hon htiles hlo hhi ..).trans (congrArg _ hissue), hframe, hothers, hengine⟩
  case passes =>
    intro m cells y o base hown hweights hspill hbase hcells
    subst hbase
    obtain ⟨t, z, hissue, hfind, hpos, hmodel, hlanes⟩ := issuePress_pass hq
      (i := passOf group tile count fmt wsrc addr errs own) rfl hown hgroup hweights hspill (hcells _ rfl)
    exact ⟨t, z, (exec_pressPass hon ..).trans (congrArg _ hissue), hfind, hpos, hmodel, hlanes⟩
  case closes =>
    obtain ⟨t, hissue, hframe, horchard, hengine, hothers⟩ := issuePress_close hq (i := closeOf group addr own) (.inr (.inl rfl)) hgroup
      rfl hown
    exact ⟨t, (exec_pressClose hon ..).trans (congrArg _ hissue), hframe, hengine, horchard, hothers⟩
  case discards =>
    obtain ⟨t, hissue, hframe, hengine, hothers⟩ := issuePress_discard hq group
    exact ⟨t, (exec_pressDiscard hon ..).trans (congrArg _ hissue), hframe, hengine, hothers⟩
  case saves =>
    obtain ⟨t, hissue, hframe, hsaved, hengine, hothers⟩ := issuePress_save hq (i := saveOf group addr own) (.inr (.inr rfl)) hgroup
      rfl hown
    exact ⟨t, (exec_pressSave hon ..).trans (congrArg _ hissue), hframe, hengine, hsaved, hothers⟩
  case bad =>
    obtain ⟨j, hreads, hnum, hlane, hexec⟩ : ∃ j, ReadsLanes j ∧ j.group = group ∧ j.own = own ∧ exec i s = .next (issuePress e j s) := by
      rcases hi with rfl | rfl | rfl
      · exact ⟨_, .inl rfl, rfl, rfl, exec_pressPass hon ..⟩
      · exact ⟨_, .inr (.inl rfl), rfl, rfl, exec_pressClose hon ..⟩
      · exact ⟨_, .inr (.inr rfl), rfl, rfl, exec_pressSave hon ..⟩
    subst hnum hlane
    obtain ⟨t, hissue, hmem, horchard, ⟨hengine, hothers⟩, hpress⟩ := issuePress_bad hq hreads hgroup hbad
    refine ⟨t, hexec.trans (congrArg _ hissue), hmem, horchard, ?_, hengine, hothers, ?_⟩
    · rw [hpress]
    · rw [hpress]
      exact ⟨rfl, rfl, rfl, rfl, rfl, rfl⟩
  case restores =>
    obtain ⟨t, hissue, hframe, hengine, hothers⟩ := issuePress_restore hq (i := restoreOf group tile count addr own) rfl hown
      (taken_of_apart hfree) hsaved hcount
    exact ⟨t, (exec_pressRestore hon htiles ..).trans (congrArg _ hissue), hframe, hengine, hothers⟩
  case unopened =>
    have hsame : ∀ i k, (begun e i s).pressEngine k = s.pressEngine k := fun i k => congrFun (pressEngine_begun hq i) k
    obtain ⟨t, hissue, hframe, hengine, hothers⟩ := issuePress_discard hq group
    refine ⟨⟨_, (exec_pressClose hon ..).trans (congrArg _ (issuePress_of_group_none hq (.inr (.inl rfl)) hgroup)), rfl, hsame _⟩,
      ⟨t, (exec_pressDiscard hon ..).trans (congrArg _ hissue), by rw [hframe], fun k => ?_⟩,
      ⟨_, (exec_pressSave hon ..).trans (congrArg _ (issuePress_of_group_none hq (.inr (.inr rfl)) hgroup)), rfl, hsame _⟩,
      ⟨_, (exec_pressPass hon ..).trans (congrArg _ (issuePress_of_group_none hq (.inl rfl) hgroup)), rfl, hsame _⟩⟩
    by_cases hk : k = e
    · rw [hk, hengine]
      exact drop_of_group_none hgroup
    · exact hothers k hk

end Sys2Proof.Proofs
end

section
/-! PROOFS. COLLECT on a module in no group (O59): what each stage does for a set of one member, and the record's completion (R185, R189,
R357, R370). -/

open Sys2Proof Sys2Proof.Machine Sys2Proof.Laws

namespace Sys2Proof.Proofs

/-! ## What a set of one member leaves alone -/

/-- A hand-off to no member but the module itself sends nothing. -/
theorem vineSendAll_self {ms : List Nat} {s : State} (h : ms = [s.vine.member]) (kind : Nat) (args : List Nat) (data : List Byte) :
    vineSendAll kind ms args data s = s := by
  have hnone : ms.filter (fun m => m ≠ s.vine.member) = [] := by simp [h]
  rw [vineSendAll, hnone]
  rfl

theorem startRecord_frame (w n : Nat) (s : State) : startRecord w n s = { s with wins := (startRecord w n s).wins } := by
  unfold startRecord modRecord
  split
  · rfl
  · unfold State.modTaken State.modWin
    split <;> split <;> rfl

theorem closedIn_of_pips {s t : State} (hpips : t.pips = s.pips) (hboot : t.boot = s.boot) (a n : Nat) :
    t.closedIn a n = s.closedIn a n := by
  simp only [State.closedIn, State.pipClosed, State.pipUnit, State.pip, State.released, hpips, hboot]

theorem mem_sinsert_self (n : Nat) (l : List Nat) : n ∈ sinsert n l := by
  induction l with
  | nil => exact List.mem_singleton_self n
  | cons m l ih =>
    rw [sinsert]
    split
    · exact List.mem_cons_self
    · split
      · next heq => exact heq ▸ List.mem_cons_self
      · exact List.mem_cons_of_mem _ ih

/-! ## The one COLLECT of a module -/

theorem collect_of_only {c : Collect} {s : State} (h : s.vine.collects = [c]) : s.collect c.w c.n = some c := by
  simp [State.collect, h]

/-- The module with a COLLECT as its only one, and some windows. -/
def runningAlone (c : Collect) (wins : Table Window) (s : State) : State :=
  { s with wins := wins, vine := { s.vine with collects := [c] } }

/-- A COLLECT that enters, or takes its own place, where no other is at work. -/
theorem putCollect_of_alone {c : Collect} {s : State} (h : ∀ x ∈ s.vine.collects, x.w = c.w ∧ x.n = c.n) :
    putCollect c s = runningAlone c s.wins s := by
  have hnone : s.vine.collects.filter (fun x => !(x.w == c.w && x.n == c.n)) = [] :=
    List.filter_eq_nil_iff.2 fun x hx => by simp [h x hx]
  simp only [putCollect, dropCollect, hnone]
  rfl

theorem putCollect_startRecord {s : State} (h : s.vine.collects = []) (c : Collect) (w n : Nat) :
    putCollect c (startRecord w n s) = runningAlone c (startRecord w n s).wins s := by
  have hvine : (startRecord w n s).vine = s.vine := modRecord_vine ..
  rw [putCollect_of_alone (by simp [hvine, h]), startRecord_frame]
  rfl

theorem closedIn_runningAlone (c : Collect) (wins : Table Window) (s : State) (a n : Nat) :
    (runningAlone c wins s).closedIn a n = s.closedIn a n := closedIn_of_pips rfl rfl a n

theorem stoppedLine_runningAlone (c : Collect) (wins : Table Window) (s : State) (a n : Nat) :
    (runningAlone c wins s).stoppedLine a n = s.stoppedLine a n := rfl

theorem dropCollect_of_only {c : Collect} {s : State} (h : s.vine.collects = [c]) :
    dropCollect c.w c.n s = { s with vine := { s.vine with collects := [] } } := by
  simp [dropCollect, h, State.setVine]

/-- A COLLECT with a member's data. -/
def withData (m : Nat) (d : List Byte) (c : Collect) : Collect := { c with got := c.got ++ [(m, d)], raw := false }

/-- SRC of the only member is read, and goes to no other member. -/
theorem contribute_alone {c : Collect} {errs : List SymErr} {d : List Byte} {v u : State} (hmembers : c.members = [v.vine.member])
    (hsources : c.sources = [v.vine.member]) (honly : v.vine.collects = [c]) (hopen : v.closedIn c.src c.len = false)
    (hline : v.stoppedLine c.src c.len = none)
    (hread : moduleRead (plainReader 7) c.src c.len (addErrs errs v) = ({ bytes := d, bad := none }, u)) (hvine : u.vine = v.vine) :
    contribute c errs v = putCollect (withData v.vine.member d c) u := by
  have hsend := vineSendAll_self (ms := c.members) (s := u) (by rw [hmembers, hvine]) 0x40 [c.w, c.n] d
  have hfound : u.collect c.w c.n = some c := collect_of_only (by rw [hvine, honly])
  have hmine : [v.vine.member].contains v.vine.member = true := by simp
  have hothers : c.members.any (· != v.vine.member) = false := by simp [hmembers]
  simp only [contribute, hsources, hmine, hopen, hline, hread, hothers, hsend, hfound, Bool.not_true, Bool.or_self, Bool.false_eq_true,
    if_false, Bool.false_and]
  rfl

/-- The record completes once its only member has written its DST. -/
theorem memberDone_alone {c : Collect} {m : Nat} {s : State} (honly : s.vine.collects = [c]) (hmembers : c.members = [m])
    (hraw : c.raw = false) : memberDone c.w c.n m s =
      complete c.answer.1 c.answer.2 (done (natLe 4 1 ++ natLe 4 0xFFFFFFFF)) { s with vine := { s.vine with collects := [] } } := by
  have hall : [m].all (sinsert m c.done).contains = true := by simp [mem_sinsert_self]
  simp only [memberDone, collect_of_only honly, hall, if_true, dropCollect_of_only honly, hraw, collectResult, hmembers]
  rfl

/-- The only member writes its DST once it has read its SRC, and the record completes. -/
theorem finishCollect_alone {c : Collect} {d : List Byte} {x y : State} (hmembers : c.members = [x.vine.member])
    (hsources : c.sources = [x.vine.member]) (honly : x.vine.collects = [c]) (hgot : c.got = [(x.vine.member, d)]) (hdone : c.done = [])
    (hraw : c.raw = false) (hopen : x.closedIn c.dst c.written = false) (hgroup : x.vine.state = 0)
    (hwrite : writeMem 7 c.dst (collectValue c x.press.lenLog2 [d]) x = (true, y)) (hvine : y.vine = x.vine) :
    finishCollect c.w c.n x =
      complete c.answer.1 c.answer.2 (done (natLe 4 1 ++ natLe 4 0xFFFFFFFF)) { y with vine := { x.vine with collects := [] } } := by
  have hfollows : y.follows = false := by simp [State.follows, hvine, hgroup]
  have hmember := memberDone_alone (s := y) (by rw [hvine, honly]) hmembers hraw
  simp [finishCollect, collect_of_only honly, hmembers, hsources, hgot, hdone, hopen, hwrite, hfollows, hmember, hvine]

/-! ## COLLECT -/

theorem holds_of_firstFail {checks : List (Bool × Answer)} (h : firstFail checks = none) {b : Bool} {a : Answer} (hmem : (b, a) ∈ checks) :
    b = true := by
  unfold firstFail at h
  split at h
  · exact absurd h (Option.some_ne_none _)
  · next hfind => simpa using List.find?_eq_none.1 hfind _ hmem

/-- The only member of a set is its only source: for BROADCAST it is ROOT, since ROOT is in the set. -/
theorem sources_collectOf_alone {w m : Nat} {r : Taken} {s : State} (hchecks : firstFail (s.collectChecks r) = none)
    (hmembers : (collectOf w r s).members = [m]) : (collectOf w r s).sources = [m] := by
  have hset : s.collectSet r = [m] := hmembers
  have hroot : (r.at 0x20 1 != 0 || (s.collectSet r).contains (r.at 0x26 2)) = true :=
    holds_of_firstFail hchecks (a := badField 0x26) (by simp [State.collectChecks])
  unfold Collect.sources
  split
  · next hop =>
    have hop : r.at 0x20 1 = 0 := hop
    have hone : r.at 0x26 2 = m := by simpa [hop, hset] using hroot
    exact congrArg (fun x => [x]) hone
  · exact hmembers

/-- With no other COLLECT at work and no data yet, a COLLECT enters, sends its SRC and writes its DST. -/
theorem beginCollect_alone {c : Collect} (errs : List SymErr) {s : State} (hnone : s.vine.collects = []) (hgot : c.got = []) :
    beginCollect c errs s = finishCollect c.w c.n (contribute c errs (putCollect c s)) := by
  have hfree : s.collect c.w c.n = none := by simp [State.collect, hnone]
  have hc : { c with got := [] } = c := by rw [← hgot]
  simp only [beginCollect, hfree, Option.map_none, Option.getD_none, hc]

theorem onCollect_begins {op w n : Nat} (errs : List SymErr) {r : Taken} {s : State} (hready : Ready 0x62 w n r s)
    (hop : r.at 0x20 1 = op) (hstarts : s.workStarts = true) (hchecks : firstFail (s.collectChecks r) = none)
    (hmembers : (collectOf w r s).members = [s.vine.member]) (hnone : s.vine.collects = []) :
    onCollect op w n errs s = finishCollect (collectOf w r s).w (collectOf w r s).n (contribute (collectOf w r s) errs
      (putCollect (collectOf w r s) (startRecord w r.n s))) := by
  have hvine : (startRecord w r.n s).vine = s.vine := modRecord_vine ..
  rw [onCollect, onRecord_of_ready hready (by rw [hop, hstarts]; simp), collect, checked_of_none hchecks]
  dsimp only
  rw [vineSendAll_self (by rw [hmembers, hvine]), beginCollect_alone errs (by rw [hvine, hnone]) rfl]

/-- A COLLECT of the module alone reads its SRC, writes its DST and completes. -/
theorem onCollect_alone {op w n : Nat} {errs : List SymErr} {r : Taken} {c : Collect} {d out : List Byte} {s : State}
    (h : CollectsAlone op w n errs r c d out s) : ∃ t, onCollect op w n errs s = t ∧ CollectDone w errs r c out s t := by
  obtain ⟨hready, hop, hstarts, hstate, hnone, hchecks, rfl, hmembers, hline, hsrc, hdst, hout, hreads⟩ := h
  have hsources := sources_collectOf_alone hchecks hmembers
  have hbegins := onCollect_begins errs hready hop hstarts hchecks hmembers hnone
  rw [putCollect_startRecord hnone] at hbegins
  generalize (startRecord w r.n s).wins = wins at hbegins
  obtain ⟨u, hread, hvine, -, hpress, hboot, hpips, hwrites⟩ := hreads (runningAlone (collectOf w r s) wins s) rfl
  rw [contribute_alone (v := runningAlone (collectOf w r s) wins s) hmembers hsources rfl ((closedIn_runningAlone ..).trans hsrc)
    ((stoppedLine_runningAlone ..).trans hline) hread hvine] at hbegins
  have honly : ∀ x ∈ u.vine.collects, x.w = (collectOf w r s).w ∧ x.n = (collectOf w r s).n := by
    rw [hvine]
    simp [runningAlone]
  rw [putCollect_of_alone (c := withData _ d (collectOf w r s)) honly] at hbegins
  generalize hx : runningAlone _ u.wins u = x at hbegins
  have hxmem : x.mem = u.mem := by rw [← hx]; rfl
  have hxvine : x.vine = { s.vine with collects := [withData s.vine.member d (collectOf w r s)] } := by
    rw [← hx, runningAlone, hvine]
    rfl
  have hxdst : x.closedIn (collectOf w r s).dst (collectOf w r s).written = false := by
    rw [← hx, closedIn_runningAlone, closedIn_of_pips hpips hboot, closedIn_runningAlone, hdst]
  obtain ⟨hok, hkept⟩ := hwrites x (by rw [← hx]; rfl)
  have hwrite : writeMem 7 (collectOf w r s).dst (collectValue (withData s.vine.member d (collectOf w r s)) x.press.lenLog2 [d]) x =
      (true, (writeMem 7 (collectOf w r s).dst out x).2) := by
    have hxpress : x.press = s.press := by rw [← hx]; exact hpress
    have hvalue : collectValue (withData s.vine.member d (collectOf w r s)) x.press.lenLog2 [d] = out := by
      rw [hxpress, hout]
      rfl
    rw [hvalue, ← hok]
  have hfinish := finishCollect_alone (c := withData s.vine.member d (collectOf w r s)) (by rw [hxvine]; exact hmembers)
    (by rw [hxvine]; exact hsources) (by rw [hxvine]) (by rw [hxvine]; rfl) rfl rfl hxdst (by rw [hxvine]; exact hstate) hwrite hkept
  refine ⟨_, hbegins.trans hfinish, runningAlone (collectOf w r s) wins s, x, rfl, ?_, mem_of_body (body_complete ..), ?_⟩
  · rw [hread, hxmem]
  · have hidle : { x.vine with collects := [] } = s.vine := by rw [hxvine, ← hnone]
    rw [hidle]
    rfl

/-! ## The values -/

theorem collectValue_sum {c : Collect} (hop : c.op = 1) (lenLog2 : Nat) (d : List Byte) : collectValue c lenLog2 [d] =
    f32Bytes ((List.range (c.len / 4)).map (fun i => octetTree f32Add
      (fun l => laneKeep (2 ^ lenLog2) (laneOf l [(f32sOf d).getD i 0])))) := by
  simp only [collectValue, hop, List.map_cons, List.map_nil]

/-- BROADCAST and GATHER of one member give its data as they stand. -/
theorem collectValue_copy {c : Collect} (hop : c.op = 0 ∨ c.op = 4) (lenLog2 : Nat) (d : List Byte) : collectValue c lenLog2 [d] = d := by
  rcases hop with hop | hop <;> simp [collectValue, hop]

theorem op_and_value_of_alone {op w n : Nat} {errs : List SymErr} {r : Taken} {c : Collect} {d out : List Byte} {s : State}
    (h : CollectsAlone op w n errs r c d out s) : c.op = op ∧ out = collectValue c s.press.lenLog2 [d] := by
  obtain ⟨-, hop, -, -, -, -, rfl, -, -, -, -, hout, -⟩ := h
  exact ⟨hop, hout⟩

/-- Settles O59: every operation runs by `onCollect_alone`, and its value is what `collectValue` makes of one member's data. -/
theorem collectivesOfOneMember : Obligations.CollectivesOfOneMember := by
  intro w n errs r c d out s
  have hruns : ∀ op, CollectsAlone op w n.toNat errs r c d out s →
      ∃ t, (Host.Outcome.next (onCollect op w n.toNat errs s) : Host.Outcome State Fault Refusal) = .next t ∧
        CollectDone w errs r c out s t := fun op h => by
    obtain ⟨t, hrun, hdone⟩ := onCollect_alone h
    exact ⟨t, congrArg _ hrun, hdone⟩
  refine ⟨fun h => ⟨?_, hruns 0 h⟩, fun h => ⟨?_, hruns 1 h⟩, hruns 2, hruns 3, fun h => ⟨?_, hruns 4 h⟩⟩
  all_goals obtain ⟨hop, hout⟩ := op_and_value_of_alone h
  · rw [hout, collectValue_copy (.inl hop)]
  · rw [hout, collectValue_sum hop]
  · rw [hout, collectValue_copy (.inr hop)]

end Sys2Proof.Proofs
end

section
/-! PROOFS. SCALE_LOAD (O37): how the values read are checked, and what a load of good ones writes (R209 to R212). -/

open Sys2Proof Sys2Proof.Machine Sys2Proof.Laws

namespace Sys2Proof.Proofs

/-! ## The first bad value -/

theorem firstFault_of_forall_none {α : Type} {f : α → Option Nat} {xs : List α} (h : ∀ x ∈ xs, f x = none) : firstFault f xs = none := by
  refine List.findSome?_eq_none_iff.2 fun e he => ?_
  rw [h e.1 (List.fst_mem_of_mem_zipIdx he), Option.map_none]

/-- The first value, or member of a pair, that an OP of SCALE_LOAD does not allow (R211). -/
def badScale (op : Nat) (vs : List F32) : Option (Nat × Nat) :=
  match op with
  | 0 => firstFault (fun v => if f32Finite v then none else some 0) vs
  | 1 => firstFault scalePairFault (pairsOf vs)
  | _ => firstFault rangePairFault (pairsOf vs)

theorem badScale_rows_of_finite {vs : List F32} (h : ∀ v ∈ vs, f32Finite v = true) : badScale 0 vs = none :=
  firstFault_of_forall_none fun v hv => if_pos (h v hv)

/-! ## The values read -/

/-- The values that the bytes of a SCALE_LOAD's source give, in its format (R211). -/
def scaleValues (r : Taken) (d : List Byte) : List F32 :=
  (chunksOf (srcWidth (r.at 0x25 1)) d).map (fun b => srcValue (r.at 0x25 1) (leNat b))

/-- The state with the target that a SCALE_LOAD names holding values. -/
def withScales (r : Taken) (vs : List F32) (s : State) : State :=
  s.modModel (r.at 0x21 1) (fun m => { m with scaleSet := writeScales r vs m.scaleSet })

theorem loadScales_of_good {r : Taken} {d : List Byte} (h : badScale (r.at 0x20 1) (scaleValues r d) = none) (w : Nat) (s : State) :
    loadScales w r d s = complete w r.n (done []) (withScales r (scaleValues r d) s) := by
  unfold loadScales
  extract_lets fmt vs bad
  have hgood : bad = none := h
  rw [hgood]
  rfl

theorem loadScales_of_bad {r : Taken} {d : List Byte} {i k : Nat} (h : badScale (r.at 0x20 1) (scaleValues r d) = some (i, k)) (w : Nat)
    (s : State) : loadScales w r d s = complete w r.n { badField 0x28 with result := natLe 4 i ++ natLe 1 k } s := by
  unfold loadScales
  extract_lets fmt vs bad
  have hbad : bad = some (i, k) := h
  rw [hbad]

/-- A SCALE_LOAD in its turn whose checks pass, whose target's other copy nothing holds and whose source is read checks and writes the
values read. -/
theorem inOrder_scaleLoad {w : Fin 16} {n : U32} {src : Src} {r : Taken} {d : List Byte} {u s : State}
    (h : ReadyInTurn 0x22 w n.toNat r s) (hchecks : firstFail (s.scaleChecks r) = none)
    (hfree : s.copyHeld (r.at 0x21 1) (if r.at 0x20 1 = 0 then scaleTarget (r.at 0x22 2) (r.at 0x24 1)
      else pointTarget (r.at 0x22 2) (r.at 0x24 1)) = false)
    (hread : readSource (r.at 0x26 1 == 1) (r.at 0x28 8) (scaleBytes r) src s = (.bytes d, u)) {op : Nat}
    (hop : r.at 0x20 1 = op) : inOrder 0x22 w n.toNat (fun t => t.at 0x20 1 == op) (scaleLoad src) s = loadScales w r d u := by
  rw [inOrder_of_ready h (p := fun t => t.at 0x20 1 == op) (beq_iff_eq.2 hop), scaleLoad, checked_of_none hchecks]
  simp only [hfree, hread, Bool.false_eq_true, if_false]

/-! ## What a load writes -/

/-- A load changes its own model and nothing else. -/
theorem withScales_frame (r : Taken) (vs : List F32) (s : State) :
    (∀ k, k ≠ r.at 0x21 1 → (withScales r vs s).model k = s.model k) ∧
      withScales r vs s = { s with seqs := { s.seqs with models := (withScales r vs s).seqs.models } } :=
  ⟨fun _ hk => model_modModel_ne _ hk _, rfl⟩

theorem scaleSet_withScales (r : Taken) (vs : List F32) (s : State) :
    ((withScales r vs s).model (r.at 0x21 1)).scaleSet = writeScales r vs (s.model (r.at 0x21 1)).scaleSet :=
  congrArg Model.scaleSet (model_modModel ..)

theorem scales_writeScales {r : Taken} (hop : r.at 0x20 1 = 0) (vs : List F32) (c : ScaleSet) : (writeScales r vs c).scales =
    tsets f32One c.scales (scaleKey (r.at 0x22 2) (r.at 0x24 1) (r.at 0x30 4)) vs := by
  simp only [writeScales, hop]

theorem channels_writeScales_ofScales {r : Taken} (hop : r.at 0x20 1 = 1) (vs : List F32) (c : ScaleSet) :
    (writeScales r vs c).channels = tsets Channel.initial c.channels (channelKey (r.at 0x22 2) (r.at 0x24 1) (r.at 0x30 4))
      ((pairsOf vs).map (fun p => (channelOfScale p.1 p.2).getD Channel.initial)) := by
  simp only [writeScales, hop, if_true]

theorem channels_writeScales_ofRanges {r : Taken} (hop : r.at 0x20 1 = 2) (vs : List F32) (c : ScaleSet) :
    (writeScales r vs c).channels = tsets Channel.initial c.channels (channelKey (r.at 0x22 2) (r.at 0x24 1) (r.at 0x30 4))
      ((pairsOf vs).map (fun p => (channelOfRange p.1 p.2).getD Channel.initial)) := by
  simp only [writeScales, hop, Nat.reduceEqDiff, if_false]

/-- Entry i of a list written from entry k on. -/
theorem tget_tsets_add {α : Type} [DecidableEq α] (e : α) {vs : List α} {i : Nat} (hi : i < vs.length) (d : α) (t : Table α) (k : Nat) :
    tget d (tsets d t k vs) (k + i) = vs.getD i e := by
  rw [tget_tsets, if_pos ⟨Nat.le_add_right k i, Nat.add_lt_add_left hi k⟩, Nat.add_sub_cancel_left, List.getD_eq_getElem?_getD,
    List.getD_eq_getElem?_getD, List.getElem?_eq_getElem hi, Option.getD_some, Option.getD_some]

/-- Settles O37: each command is its `loadScales` (`inOrder_scaleLoad`), which writes good values (`withScales`) and names the first bad
one. -/
theorem scalesAreLoaded : Obligations.ScalesAreLoaded := by
  intro w n src r d u s h hchecks hfree hread vs hvs
  obtain rfl : vs = scaleValues r d := hvs
  have hruns : ∀ {op : Nat}, r.at 0x20 1 = op →
      inOrder 0x22 w n.toNat (fun t => t.at 0x20 1 == op) (scaleLoad src) s = loadScales w r d u :=
    inOrder_scaleLoad h hchecks hfree hread
  obtain ⟨hothers, hframe⟩ := withScales_frame r (scaleValues r d) u
  refine ⟨fun hop hfinite => ?rows, fun hop i hbad => ?badRow, fun hop hgood => ?inputScales, fun hop hgood => ?inputRanges⟩
  case rows =>
    have hload := loadScales_of_good (by rw [hop, badScale_rows_of_finite hfinite]) w u
    refine ⟨_, congrArg _ ((hruns hop).trans hload), fun i hi => ?_, hothers, hframe⟩
    rw [scaleSet_withScales, scales_writeScales hop]
    exact tget_tsets_add 0 hi ..
  case badRow =>
    have hload := loadScales_of_bad (by rw [hop]; exact hbad) w u
    exact congrArg _ ((hruns hop).trans hload)
  case inputScales =>
    have hload := loadScales_of_good (by rw [hop]; exact hgood) w u
    refine ⟨_, congrArg _ ((hruns hop).trans hload), ?_, hothers, hframe⟩
    rw [scaleSet_withScales, channels_writeScales_ofScales hop]
  case inputRanges =>
    have hload := loadScales_of_good (by rw [hop]; exact hgood) w u
    refine ⟨_, congrArg _ ((hruns hop).trans hload), ?_, hothers, hframe⟩
    rw [scaleSet_withScales, channels_writeScales_ofRanges hop]

end Sys2Proof.Proofs
end

section
/-! PROOFS. The banks of the Zest sections (O39): what TABLE_LOAD writes, and how TABLE_SWAP and its copy change banks (R224 to R239). -/

open Sys2Proof Sys2Proof.Machine Sys2Proof.Laws

namespace Sys2Proof.Proofs

/-! ## TABLE_LOAD -/

theorem withTableSource_of_bytes {src : Src} {n : Nat} {t : Taken} {d : List Byte} {s u : State}
    (hread : readSource (t.at 0x24 1 == 1) (t.at 0x28 8) n src s = (.bytes d, u)) (w : Nat) (go : List Byte → State → State) :
    withTableSource src n w t go s = go d u := by
  rw [withTableSource, hread]

section
variable {src : Src} {r : Taken} {d : List Byte} {s u : State} (w : Nat)

theorem tableLoad_of_good (hread : readSource (r.at 0x24 1 == 1) (r.at 0x28 8) 3136 src s = (.bytes d, u))
    (hgood : tblReject d = none) : tableLoad src w r s = complete w r.n (done [])
      (setBank u.shadow { u.zbank u.shadow with tables := tinsert (r.at 0x21 1) d (u.zbank u.shadow).tables } u) := by
  rw [tableLoad, withTableSource_of_bytes hread]
  simp only [hgood]
  rfl

variable (hread : readSource (r.at 0x24 1 == 1) (r.at 0x28 8) (8 * r.at 0x26 2) src s = (.bytes d, u))
include hread

theorem programLoad_of_good (hgood : programFault ((chunksOf 8 d).map leNat) = none) : programLoad src w r s = complete w r.n (done [])
    (setBank u.shadow { u.zbank u.shadow with
      programs := tinsert (r.at 0x21 1) (((chunksOf 8 d).map leNat).map (BitVec.ofNat 64)) (u.zbank u.shadow).programs } u) := by
  rw [programLoad, withTableSource_of_bytes hread]
  simp only [hgood]
  rfl

theorem programLoad_of_bad {i : Nat} (hbad : programFault ((chunksOf 8 d).map leNat) = some i) :
    programLoad src w r s = complete w r.n (badField (0x80000000 + i)) u := by
  rw [programLoad, withTableSource_of_bytes hread]
  simp only [hbad]

end

/-- The state with the gains of the normalisation index that a GAIN record names written (R239). -/
def withGains (r : Taken) (vs : List F32) (s : State) : State :=
  s.modModel (r.at 0x21 1) (fun m => { m with scaleSet := writeGains (r.at 0x22 2) vs (bit (r.at 0x25 1) 0) m.scaleSet })

theorem gainLoad_of_good {src : Src} {r : Taken} {d : List Byte} {vs : List F32} {s u : State}
    (hloaded : (s.model (r.at 0x21 1)).state ≠ 0) (hindex : r.at 0x22 2 ≤ 2 * (s.model (r.at 0x21 1)).layers)
    (hfree : s.copyHeld (r.at 0x21 1) (gainTarget (r.at 0x22 2)) = false)
    (hread : readSource (r.at 0x24 1 == 1) (r.at 0x28 8) (4 * (s.model (r.at 0x21 1)).hidden) src s = (.bytes d, u))
    (hvs : vs = (chunksOf 4 d).map (fun b => BitVec.ofNat 32 (leNat b))) (hfinite : ∀ v ∈ vs, f32Finite v = true) (w : Nat) :
    gainLoad src w r s = complete w r.n (done []) (withGains r vs u) := by
  have hnone : vs.zipIdx.find? (fun e => !f32Finite e.1) = none :=
    List.find?_eq_none.2 fun e he => by simp [hfinite e.1 (List.fst_mem_of_mem_zipIdx he)]
  unfold gainLoad
  extract_lets id i m
  rw [checked_of_none (by rw [firstFail_cons (bne_iff_ne.2 hloaded), firstFail_cons (decide_eq_true hindex), firstFail_nil])]
  rw [if_neg (by rw [hfree]; exact Bool.false_ne_true), withTableSource_of_bytes hread]
  simp only [← hvs, hnone]
  rfl

theorem gains_withGains (r : Taken) (vs : List F32) (s : State) : ((withGains r vs s).model (r.at 0x21 1)).scaleSet.gains =
    tsets f32One (s.model (r.at 0x21 1)).scaleSet.gains (gainKey (r.at 0x22 2) 0) vs :=
  congrArg (fun m => m.scaleSet.gains) (model_modModel ..)

/-! ## TABLE_SWAP -/

/-- A swap whose shadow bank passes its checks makes it current and waits for its copy (R232). -/
theorem swapProceed_of_good {s : State} (hlut : lutFault (s.zbank s.shadow) = none) (hact : s.actFault (s.zbank s.shadow) = none)
    (w : Nat) (t : Taken) : swapProceed w t s = { startRecord w t.n s with
      zest := { s.zest with current := s.shadow, swapping := some (w, t.n) } } := by
  have hzest : (startRecord w t.n s).zest = s.zest := by rw [startRecord_frame]
  have hshadow : (startRecord w t.n s).shadow = s.shadow := congrArg (fun z => 1 - z.current) hzest
  simp only [swapProceed, hlut, hact, hzest, hshadow]
  rfl

theorem swapNext_of_oldest {v : Nat} {r : Taken} {s : State} (hold : s.oldestSwap = some (v, r)) (hlive : s.live = true)
    (hstarted : r.started = true) (hidle : s.zest.swapping = none) (hloads : s.earlierTaken 0x25 r = false)
    (hruns : s.recordRuns 0x26 = true) : swapNext s = swapProceed v r s := by
  simp [swapNext, hold, hlive, hstarted, hidle, hloads, hruns]

/-- The Zest sections once a swap's copy is done: both banks hold what the current one held (R232). -/
def copiedZest (s : State) : Zest :=
  { s.zest with
    bank0 := s.zbank s.zest.current, bank1 := s.zbank s.zest.current, swapping := none, swaps := (s.zest.swaps + 1) % 65536 }

theorem setBank_shadow_current (s : State) : setBank s.shadow (s.zbank s.zest.current) s =
    s.setZest { s.zest with bank0 := s.zbank s.zest.current, bank1 := s.zbank s.zest.current } := by
  by_cases hcurrent : s.zest.current = 0
  · simp [setBank, State.shadow, State.zbank, hcurrent]
  · have hshadow : 1 - s.zest.current = 0 := by omega
    simp [setBank, State.shadow, State.zbank, hcurrent, hshadow]

theorem swapCopy_of_idle {v k : Nat} {s : State} (hswap : s.zest.swapping = some (v, k)) (hidle : s.bankBusy s.shadow = false) :
    swapCopy s = complete v k (done (natLe 1 s.zest.current)) (s.setZest (copiedZest s)) := by
  simp only [swapCopy, hswap, hidle, setBank_shadow_current]
  rfl

/-- Settles O39: each command is its record's meaning, and that the lemma of the case it stands in. -/
theorem zestTablesAndPrograms : Obligations.ZestTablesAndPrograms := by
  intro w n src r d u s
  refine ⟨fun h hkind hturn hread hgood => ?table, fun h hkind hturn hread => ?program,
    fun h hkind hloaded hindex hfree hread hfinite => ?gain, fun h hidle hfirst hlut hact => ?swap,
    fun v hold hlive hstarted hidle hloads hruns hlut hact => ?proceed, fun v k hreleased hswap hbusy => ?copy⟩
  case table =>
    exact congrArg Host.Outcome.next ((onRecord_of_ready h (by rw [hkind, hturn]; rfl) _).trans (tableLoad_of_good w hread hgood))
  case program =>
    have hload : exec (.tableLoadProgram w n src) s = .next (programLoad src w r s) :=
      congrArg Host.Outcome.next (onRecord_of_ready h (by rw [hkind, hturn]; rfl) _)
    rw [hload]
    exact ⟨fun hgood => congrArg _ (programLoad_of_good w hread hgood), fun i hbad => congrArg _ (programLoad_of_bad w hread hbad)⟩
  case gain =>
    have hload := gainLoad_of_good hloaded hindex hfree hread rfl hfinite w
    exact ⟨_, congrArg Host.Outcome.next ((inOrder_of_ready h (by rw [hkind]; rfl) _).trans hload), gains_withGains ..,
      fun k hk => model_modModel_ne _ hk _⟩
  case swap =>
    have hnow : tableSwap w r s = swapProceed w r s := by simp [tableSwap, hidle, hfirst]
    exact congrArg Host.Outcome.next ((onOp_of_ready h _).trans (hnow.trans (swapProceed_of_good hlut hact w r)))
  case proceed =>
    have hnext := swapNext_of_oldest hold hlive hstarted hidle hloads hruns
    exact congrArg Host.Outcome.next (hnext.trans (swapProceed_of_good hlut hact v r))
  case copy =>
    exact ⟨s.setZest (copiedZest s), congrArg Host.Outcome.next ((whenReleased_eq hreleased _).trans (swapCopy_of_idle hswap hbusy)),
      rfl, rfl, rfl, rfl, rfl, rfl⟩

end Sys2Proof.Proofs
end

section
/-! PROOFS. The jobs of the Zest sections (O49): how one starts or stops, its instructions, and its end (R219 to R241). -/

open Sys2Proof Sys2Proof.Machine Sys2Proof.Laws

namespace Sys2Proof.Proofs

/-! ## The newest entry of the error log -/

theorem msix_log (v : Nat) (s : State) : (msix v s).log = s.log := by
  unfold msix
  split <;> rfl

/-- An event is the newest entry of the log, in an entry of its own or taken up by the newest one (R368). -/
theorem newest_code_logErr (code kind idx addr detail : Nat) (s : State) : (tget ErrEntry.none (logErr code kind idx addr detail s).log.ring
    (((logErr code kind idx addr detail s).log.tail + 1023) % 1024)).code = code := by
  unfold logErr
  extract_lets sev l i e lost
  split
  · next hsame =>
    simp only [coalesces, Bool.and_eq_true, beq_iff_eq] at hsame
    obtain ⟨⟨⟨⟨⟨-, hcode⟩, -⟩, -⟩, -⟩, -⟩ := hsame
    have hnewest := tget_tmod_same ErrEntry.none l.ring i (fun e => { e with count := min 255 (e.count + 1) })
    exact (congrArg ErrEntry.code hnewest).trans hcode
  · have hplace : (l.tail + 1 + 1023) % 1024 = l.tail % 1024 := by omega
    rw [msix_log]
    dsimp only
    rw [hplace, tget_tset_same]

/-! ## A job of a section -/

theorem zestJob_setJob (i : Nat) (j : ZestJob) (s : State) : (setJob i j s).zestJob i = some j :=
  tget_tset_same none s.zest.jobs i (some j)

theorem zestJob_setJob_ne {i o : Nat} (h : o ≠ i) (j : ZestJob) (s : State) : (setJob i j s).zestJob o = s.zestJob o :=
  tget_tset_ne none s.zest.jobs h (some j)

/-- The registers at entry hold the inputs in r0 and r1 and zero otherwise (R226). -/
theorem tget_zestEntry (in0 in1 : F32) (r : Nat) :
    tget 0 (zestEntry in0 in1) r = if r = 0 then in0 else if r = 1 then in1 else 0 := by
  unfold zestEntry
  by_cases h1 : r = 1
  · subst h1
    exact tget_tset_same ..
  · rw [tget_tset_ne _ _ h1, if_neg h1]
    by_cases h0 : r = 0
    · subst h0
      exact tget_tset_same ..
    · rw [tget_tset_ne _ _ h0, if_neg h0, tget_nil]

/-! ## ZEST_JOB -/

/-- The section without its job. -/
def dropJob (i : Nat) (s : State) : State := s.setZest { s.zest with jobs := tset none s.zest.jobs i none }

theorem zestJob_dropJob (i : Nat) (s : State) : (dropJob i s).zestJob i = none := tget_tset_same none s.zest.jobs i none

theorem zestJob_dropJob_ne {i o : Nat} (h : o ≠ i) (s : State) : (dropJob i s).zestJob o = s.zestJob o :=
  tget_tset_ne none s.zest.jobs h none

/-- The job that a section starts. -/
def entryJob (bank slot : Nat) (in0 in1 : F32) : ZestJob :=
  { bank := bank, slot := slot, pc := 0, regs := zestEntry in0 in1, result := none }

section
variable {sec : Nat} {s : State} (slot : Nat) (in0 in1 : F32)

/-- In a phase without Zest work no job starts, whether one is in progress or not. -/
theorem zestStart_of_idle (hidle : s.sectionWorks sec = false) (own : OwnReads) : zestStart sec slot in0 in1 own s = s := by
  unfold zestStart
  split
  · rfl
  · rw [hidle]
    rfl

variable (hworks : s.sectionWorks sec = true) (hfree : ∀ j, s.zestJob sec = some j → j.result ≠ none)
include hworks hfree

theorem zestStart_of_clean {own : OwnReads} (hclean : own.bad = none) : zestStart sec slot in0 in1 own s =
    setJob sec (entryJob (noteCorrected own.corrected s).zest.current slot in0 in1) (noteCorrected own.corrected s) := by
  unfold zestStart
  split
  · next hjob => exact absurd rfl (hfree _ hjob)
  · rw [hworks, hclean]
    rfl

theorem zestStart_of_bad {own : OwnReads} {f : OwnFault} (hbad : own.bad = some f) :
    zestStart sec slot in0 in1 own s = noteOwn 0 f (dropJob sec (noteCorrected own.corrected s)) := by
  unfold zestStart
  split
  · next hjob => exact absurd rfl (hfree _ hjob)
  · rw [hworks, hbad]
    rfl

end

theorem noteCorrected_eq (n : Nat) (s : State) : noteCorrected n s = { s with zest := { s.zest with
    faultCorr := if n = 0 then s.zest.faultCorr else satAdd 12 s.zest.faultCorr n } } := by
  unfold noteCorrected
  split <;> rfl

theorem zest_logErr (code kind idx addr detail : Nat) (s : State) : (logErr code kind idx addr detail s).zest = s.zest :=
  (congrArg State.zest (body_logErr code kind idx addr detail s) : (body _).zest = (body s).zest)

/-- An uncorrectable bank word shows in ZST_FAULT (R233). -/
theorem zest_noteOwn_bank (layer : Nat) (i : Fin 32) (prog : Bool) (sl : Fin 32) (s : State) :
    (noteOwn layer (.bank i prog sl) s).zest = { s.zest with
      faultCount := satAdd 8 s.zest.faultCount 1, faultSection := i.val, faultBank := s.zest.current, faultKind := b2n prog,
      faultSlot := sl.val } := by
  simp only [noteOwn, setZest_zest, zest_logErr]

theorem newest_code_noteOwn_bank (layer : Nat) (i : Fin 32) (prog : Bool) (sl : Fin 32) (s : State) :
    (tget ErrEntry.none (noteOwn layer (.bank i prog sl) s).log.ring
      (((noteOwn layer (.bank i prog sl) s).log.tail + 1023) % 1024)).code = 0x16 := newest_code_logErr ..

/-! ## The instructions -/

section
variable {tables : Nat → List Byte} {wd : Nat} {r : Table F32}

theorem zestExec_ldi (h : bits wd 58 6 = 0x01) :
    zestExec tables wd r = tset 0 r (bits wd 53 5) (BitVec.ofNat 32 (bits wd 0 32)) := by simp only [zestExec, h]

theorem zestExec_madd (h : bits wd 58 6 = 0x02) : zestExec tables wd r =
    tset 0 r (bits wd 53 5) (f32Madd (tget 0 r (bits wd 48 5)) (tget 0 r (bits wd 43 5)) (tget 0 r (bits wd 38 5))) := by
  simp only [zestExec, h]

theorem zestExec_exp2 (h : bits wd 58 6 = 0x03) :
    zestExec tables wd r = tset 0 r (bits wd 53 5) (zExp2 (tget 0 r (bits wd 48 5))) := by simp only [zestExec, h]

theorem zestExec_log2 (h : bits wd 58 6 = 0x04) :
    zestExec tables wd r = tset 0 r (bits wd 53 5) (zLog2 (tget 0 r (bits wd 48 5))) := by simp only [zestExec, h]

theorem zestExec_recip (h : bits wd 58 6 = 0x05) :
    zestExec tables wd r = tset 0 r (bits wd 53 5) (zRecip (tget 0 r (bits wd 48 5))) := by simp only [zestExec, h]

theorem zestExec_rsqrt (h : bits wd 58 6 = 0x06) :
    zestExec tables wd r = tset 0 r (bits wd 53 5) (zRsqrt (tget 0 r (bits wd 48 5))) := by simp only [zestExec, h]

theorem zestExec_cmpsel (h : bits wd 58 6 = 0x07) : zestExec tables wd r =
    if zCond (bits wd 0 32 % 4) (tget 0 r (bits wd 48 5)) (tget 0 r (bits wd 43 5)) then
      tset 0 r (bits wd 53 5) (tget 0 r (bits wd 38 5)) else r := by simp only [zestExec, h]

theorem zestExec_sign (h : bits wd 58 6 = 0x08) : zestExec tables wd r =
    tset 0 r (bits wd 53 5) (zSignOp (bits wd 0 32 % 4) (tget 0 r (bits wd 48 5)) (tget 0 r (bits wd 43 5))) := by
  simp only [zestExec, h]

theorem zestExec_lut (h : bits wd 58 6 = 0x09) :
    zestExec tables wd r = tset 0 r (bits wd 53 5) (zLut (tables (bits wd 34 4)) (tget 0 r (bits wd 48 5))) := by
  simp only [zestExec, h]

theorem zestExec_tanh (h : bits wd 58 6 = 0x0A) :
    zestExec tables wd r = tset 0 r (bits wd 53 5) (zTanh (tget 0 r (bits wd 48 5))) := by simp only [zestExec, h]

theorem zestExec_logistic (h : bits wd 58 6 = 0x0B) :
    zestExec tables wd r = tset 0 r (bits wd 53 5) (zLogistic (tget 0 r (bits wd 48 5))) := by simp only [zestExec, h]

end

/-- A job in progress whose word is the operation moves to the next word with the registers that the operation leaves. -/
theorem zestRun_of_word {op i : Nat} {j : ZestJob} {s : State} (hjob : s.zestJob i = some j) (hgoes : j.result = none)
    (hop : bits (s.jobWord j) 58 6 = op) {regs : Table F32}
    (hregs : zestExec (s.zbank j.bank).table (s.jobWord j) j.regs = regs) :
    zestRun op i s = setJob i { j with pc := j.pc + 1, regs := regs } s := by
  obtain ⟨bank, slot, pc, r, result⟩ := j
  obtain rfl : result = none := hgoes
  simp only [zestRun, hjob, hop, if_true, hregs]

/-! ## END -/

theorem countResult_frame (v : F32) (s : State) :
    ∃ x y, countResult v s = { s with zest := { s.zest with nanOut := x, infOut := y } } := by
  unfold countResult
  split
  · exact ⟨_, _, rfl⟩
  · split <;> exact ⟨_, _, rfl⟩

theorem nanOut_countResult (v : F32) (s : State) :
    (countResult v s).zest.nanOut = if f32IsNan v = true then satAdd 32 s.zest.nanOut 1 else s.zest.nanOut := by
  unfold countResult
  split
  · rfl
  · split <;> rfl

theorem zestEndAt_of_word {i : Nat} {j : ZestJob} {s : State} (hjob : s.zestJob i = some j) (hgoes : j.result = none)
    (hop : bits (s.jobWord j) 58 6 = 0) :
    zestEndAt i s = countResult (tget 0 j.regs 0) (setJob i { j with result := some (tget 0 j.regs 0) } s) := by
  simp [zestEndAt, hjob, hgoes, hop]

/-- Settles O49: ZEST_JOB by what `zestStart` does in its case, each instruction by its equation of `zestExec`, and END by
`zestEndAt_of_word`. -/
theorem zestSectionsRunTheirPrograms : Obligations.ZestSectionsRunTheirPrograms := by
  intro sec slot in0 in1 own s hon
  refine ⟨fun hidle => ?idle, fun hworks hfree hclean => ?starts, fun hworks hfree i prog sl hbad => ?stops,
    fun j wd a b c imm op hjob hgoes hwd ha hb hc himm hop go hgo => ?runs⟩
  case idle =>
    exact congrArg Host.Outcome.next ((whenPowered_eq hon _).trans (zestStart_of_idle slot.val in0 in1 hidle own))
  case starts =>
    have hstart := zestStart_of_clean slot.val in0 in1 hworks hfree hclean
    rw [noteCorrected_eq] at hstart
    exact ⟨_, _, congrArg Host.Outcome.next ((whenPowered_eq hon _).trans hstart), zestJob_setJob .., rfl, rfl, rfl, rfl,
      tget_zestEntry in0 in1, fun o ho => zestJob_setJob_ne ho .., rfl, rfl⟩
  case stops =>
    have hstop := zestStart_of_bad slot.val in0 in1 hworks hfree hbad
    rw [noteCorrected_eq] at hstop
    have hzest := zest_noteOwn_bank 0 i prog sl
    refine ⟨_, congrArg Host.Outcome.next ((whenPowered_eq hon _).trans hstop), ?job, fun o ho => ?others, ?_, ?_, ?_, ?_, ?_, ?_, ?_,
      newest_code_noteOwn_bank ..⟩
    all_goals simp only [State.zestJob, hzest]
    case job => exact zestJob_dropJob ..
    case others => exact zestJob_dropJob_ne ho _
    all_goals rfl
  case runs =>
    subst hwd ha hb hc himm hop hgo
    have hrun : ∀ {op : Nat} {regs : Table F32}, bits (s.jobWord j) 58 6 = op →
        zestExec (s.zbank j.bank).table (s.jobWord j) j.regs = regs →
        (Host.Outcome.next (whenPowered (zestRun op sec) s) : Host.Outcome State Fault Refusal) =
          .next (setJob sec { j with pc := j.pc + 1, regs := regs } s) :=
      fun hop hregs => congrArg _ ((whenPowered_eq hon _).trans (zestRun_of_word hjob hgoes hop hregs))
    refine ⟨fun h => hrun h (zestExec_ldi h), fun h => hrun h (zestExec_madd h), fun h => hrun h (zestExec_exp2 h),
      fun h => hrun h (zestExec_log2 h), fun h => hrun h (zestExec_recip h), fun h => hrun h (zestExec_rsqrt h), fun h => ?cmpsel,
      fun h => hrun h (zestExec_sign h), fun h => hrun h (zestExec_lut h), fun h => hrun h (zestExec_tanh h),
      fun h => hrun h (zestExec_logistic h), fun h => ?ends,
      fun v => ⟨zestJob_setJob .., fun o ho => zestJob_setJob_ne ho .., rfl⟩⟩
    case cmpsel =>
      refine (hrun h (zestExec_cmpsel h)).trans ?_
      split <;> rfl
    case ends =>
      have hend := zestEndAt_of_word hjob hgoes h
      obtain ⟨x, y, hframe⟩ := countResult_frame (tget 0 j.regs 0) (setJob sec { j with result := some (tget 0 j.regs 0) } s)
      refine ⟨_, congrArg Host.Outcome.next ((whenPowered_eq hon _).trans hend), ?_, nanOut_countResult .., fun o ho => ?_, ?_⟩
      all_goals rw [hframe]
      · exact zestJob_setJob ..
      · exact zestJob_setJob_ne ho ..
      · rfl

end Sys2Proof.Proofs
end
